-- ==== Sys2Proof/Word.lean ====
section
/-! DEFINITION. Words, bit fields, byte order, and the canonical sparse table that every memory and register
file of the model is held in. -/

namespace Sys2Proof

abbrev Byte := BitVec 8
/-- An aligned 8-byte quantity (R5), and every 64-bit register. -/
abbrev Word := BitVec 64
/-- A predicate register: bit e governs element e (R109). -/
abbrev Pred := BitVec 1024
/-- A buffer capability (R202). -/
abbrev Cap := BitVec 128
/-- A stream register (R239). -/
abbrev Stream := BitVec 256
/-- A matrix template (R321). -/
abbrev Template := BitVec 128

/-- A sparse table in canonical form: keys strictly rising, and no entry equal to what an unlisted key reads as. -/
abbrev Tab (α : Type) := List (Nat × α)

namespace Tab
variable {α : Type}

/-- What key `k` reads as; `d` is what an unlisted key reads as. -/
def get (d : α) : Tab α → Nat → α
  | [], _ => d
  | (k0, v0) :: t, k => if k = k0 then v0 else if k < k0 then d else get d t k

/-- Drop the leading entries whose key is at most `k`. -/
def dropLe : Tab α → Nat → Tab α
  | [], _ => []
  | (k0, v0) :: t, k => if k0 ≤ k then dropLe t k else (k0, v0) :: t

/-- Write `v` at key `k`, keeping the canonical form: writing the default removes the entry. -/
def set [DecidableEq α] (d : α) : Tab α → Nat → α → Tab α
  | [], k, v => if v = d then [] else [(k, v)]
  | (k0, v0) :: t, k, v =>
    if k < k0 then (if v = d then (k0, v0) :: t else (k, v) :: (k0, v0) :: t)
    else if k = k0 then (if v = d then dropLe t k else (k, v) :: t)
    else (k0, v0) :: set d t k v

/-- The canonical form, as a check: `lo` bounds the keys from below. -/
def wfFrom [DecidableEq α] (d : α) : Nat → Tab α → Bool
  | _, [] => true
  | lo, (k, v) :: t => decide (lo ≤ k) && decide (v ≠ d) && wfFrom d (k + 1) t

def wf [DecidableEq α] (d : α) (t : Tab α) : Bool := wfFrom d 0 t

/-- Remove every entry whose key lies in `lo ≤ k < hi`. -/
def clear (t : Tab α) (lo hi : Nat) : Tab α := t.filter fun e => decide (e.1 < lo) || decide (hi ≤ e.1)

/-- Write a list of values at consecutive keys. -/
def setList [DecidableEq α] (d : α) (t : Tab α) (k : Nat) : List α → Tab α
  | [] => t
  | v :: vs => setList d (set d t k v) (k + 1) vs

/-- Read `n` values at consecutive keys. -/
def getList (d : α) (t : Tab α) (k : Nat) : Nat → List α
  | 0 => []
  | n + 1 => get d t k :: getList d t (k + 1) n

end Tab

/-- Bits hi down to lo of a number (R1). -/
def bits (x hi lo : Nat) : Nat := (x >>> lo) % 2 ^ (hi + 1 - lo)

/-- Bits hi down to lo of a 64-bit word, as a number. -/
def Word.bits (w : Word) (hi lo : Nat) : Nat := Sys2Proof.bits w.toNat hi lo

/-- One bit of a word. -/
def Word.bit (w : Word) (i : Nat) : Bool := w.getLsbD i

/-- Replace bits hi down to lo of a number by `v`. -/
def putBits (x hi lo v : Nat) : Nat :=
  x - (bits x hi lo <<< lo) + ((v % 2 ^ (hi + 1 - lo)) <<< lo)

def Word.put (w : Word) (hi lo v : Nat) : Word := BitVec.ofNat 64 (putBits w.toNat hi lo v)

/-- Little-endian value of a list of bytes (R4). -/
def leNat : List Byte → Nat
  | [] => 0
  | b :: bs => b.toNat + 256 * leNat bs

/-- The `n` little-endian bytes of a number (R4). -/
def leBytes : Nat → Nat → List Byte
  | 0, _ => []
  | n + 1, x => BitVec.ofNat 8 x :: leBytes n (x / 256)

/-- Two's-complement reading of the low `w` bits. -/
def sextN (w x : Nat) : Int :=
  let y := x % 2 ^ w
  if 2 * y < 2 ^ w then (y : Int) else (y : Int) - (2 ^ w : Nat)

/-- An integer modulo 2^w. -/
def wrapN (w : Nat) (x : Int) : Nat := (x % ((2 ^ w : Nat) : Int)).toNat

def ceilDiv (a b : Nat) : Nat := (a + b - 1) / b

end Sys2Proof
end

