-- ==== Sys2Proof/Syntax.lean ====
section
/-! DEFINITION. The instructions: one constructor for each row of the opcode table, the 199 instruction words of
R145-R154 and the 111 events (rows 199-309), with the code types of R136-R143. -/

namespace Sys2Proof

/-- A scalar register s0-s63 (R127). -/
abbrev SR := BitVec 6
/-- A predicate register p0-p95 (R127). -/
abbrev PR := BitVec 7
/-- A vector register v0-v15 (R127). -/
abbrev VR := BitVec 4
/-- An accumulator register a0-a3 (R127). -/
abbrev AR := BitVec 2
/-- A stream register q0-q15 (R127). -/
abbrev QR := BitVec 4
/-- A loop counter lc0-lc2 (R133). -/
abbrev LR := BitVec 2
/-- A template t0-t63 (R127). -/
abbrev TR := BitVec 6

/-- The guard of R124: the predicate index G and the negation N. -/
structure Guard where
  p : BitVec 7
  n : Bool
  deriving DecidableEq, Repr

/-- Type codes of R136. -/
inductive Ty where
  | i8 | i16 | i32 | i64 | n8 | n16 | n32 | n64 | f64 | f32 | bf16 | f16 | e4m3 | e5m2 | e2m3 | e3m2 | e2m1 | pt8
  deriving DecidableEq, Repr

/-- Rounding codes of R137. -/
inductive Rc where
  | none | rne | rtz | rup | rdn
  deriving DecidableEq, Repr

/-- Full/empty codes of R138. -/
inductive Fe where
  | plain | wt | cn | fl | fu
  deriving DecidableEq, Repr

/-- Ordering codes of R138. -/
inductive Ord where
  | none | acq | rel | acqRel
  deriving DecidableEq, Repr

/-- Scope codes of R138. -/
inductive Scope where
  | core | die | pkg | sys
  deriving DecidableEq, Repr

/-- Space codes of R139. -/
inductive Space where
  | dev | ls | mw | host
  deriving DecidableEq, Repr

/-- Condition codes of R140. -/
inductive Cond where
  | eq | ne | lt | le | gt | ge | ltu | leu | gtu | geu
  | feq | fne | flt | fle | fgt | fge | fun_ | for_
  deriving DecidableEq, Repr

/-- Condition field F of cmpi and cmpiu (R140); signed for cmpi, unsigned for cmpiu. -/
inductive CondI where
  | eq | ne | lt | le | gt | ge
  deriving DecidableEq, Repr

/-- Reduction codes of R143. -/
inductive Red where
  | sum | min | max | and | or | xor
  deriving DecidableEq, Repr

/-- Control registers of R111. -/
inductive Cr where
  | status | trapCause | trapPc | trapVal | trapStat | trapVec | fpctl | fectl | feBudget | prio | logCore
  | timeCmp | handler | msgInfo | scratch0 | scratch1
  deriving DecidableEq, Repr

/-- A memory operand of R131 and R158. -/
structure MemOp where
  sp : Space
  buf : BitVec 4
  idx : BitVec 6
  sc : BitVec 2
  disp : BitVec 15
  deriving DecidableEq, Repr

/-- The B operand of a vector word: a vector register, or a scalar broadcast with FUNC[5] (R142). -/
inductive VB where
  | v (r : VR)
  | s (r : SR)
  deriving DecidableEq, Repr

/-- A detected storage or link error, by the store it strikes (R496, R497, R498, R501). `sramUncorrectable` is one in memory of a core that
holds nothing of a logical core. -/
inductive HwError where
  | hbmCorrected (pa : Nat)
  | hbmUncorrectable (pa : Nat)
  | sramCorrected (die pos : Nat)
  | sramUncorrectable (die pos : Nat)
  | l1Corrected (c granule : Nat)
  | l1Uncorrectable (c line : Nat)
  | localStoreUncorrectable (c granule : Nat)
  | operandUncorrectable (c slot granule : Nat)
  | accumulatorUncorrectable (c granule : Nat)
  | registerUncorrectable (die pos : Nat)
  | keystoneMemory
  | firmwareState (core : Nat)
  | laneRepaired (link lane : Nat)
  | routerUncorrectable (die : Nat)
  | trestle
  deriving DecidableEq, Repr

/-- A page to bring in, and the task whose access has met that it is out, if one did (R284, R416). -/
structure PageWant where
  page : Nat
  task : Option Nat
  deriving DecidableEq, Repr
/-- What the Keystone's servo does at a PTP message: the step of device time, and the messages of its own that it sends (R491). -/
structure PtpAct where
  adjust : Int
  out : List (List Byte)
  deriving DecidableEq, Repr
/-- The instructions of R145-R154 (constructors with a guard) and the events of the opcode table (the rest).
In the events `c` numbers a logical core (context times 320 plus core), `k` a strand of it. -/
inductive Instr where
  | nop (g : Guard)
  | trap (g : Guard) (imm : BitVec 16)
  | brk (g : Guard) (imm : BitVec 16)
  | tret (g : Guard)
  | hret (g : Guard)
  | crd (g : Guard) (d : SR) (cr : Cr)
  | cwr (g : Guard) (cr : Cr) (a : SR)
  | crset (g : Guard) (cr : Cr) (a : SR)
  | crclr (g : Guard) (cr : Cr) (a : SR)
  | fence (g : Guard) (ord : Ord) (sc : Scope)
  | time (g : Guard) (d : SR)
  | cid (g : Guard) (d : SR)
  | dhops (g : Guard) (d a b : SR)
  | tnext (g : Guard) (d : SR) (pa : PR)
  | tdone (g : Guard)
  | tspawn (g : Guard) (d a : SR)
  | tyield (g : Guard)
  | barv (g : Guard) (a : SR) (imm : BitVec 16)
  | barw (g : Guard) (a : SR) (imm : BitVec 16)
  | add (g : Guard) (d a b : SR)
  | sub (g : Guard) (d a b : SR)
  | mul (g : Guard) (d a b : SR)
  | mulh (g : Guard) (d a b : SR)
  | mulhu (g : Guard) (d a b : SR)
  | div (g : Guard) (d a b : SR)
  | divu (g : Guard) (d a b : SR)
  | rem (g : Guard) (d a b : SR)
  | remu (g : Guard) (d a b : SR)
  | and (g : Guard) (d a b : SR)
  | or (g : Guard) (d a b : SR)
  | xor (g : Guard) (d a b : SR)
  | andn (g : Guard) (d a b : SR)
  | shl (g : Guard) (d a b : SR)
  | shr (g : Guard) (d a b : SR)
  | sra (g : Guard) (d a b : SR)
  | rotl (g : Guard) (d a b : SR)
  | min (g : Guard) (d a b : SR)
  | max (g : Guard) (d a b : SR)
  | minu (g : Guard) (d a b : SR)
  | maxu (g : Guard) (d a b : SR)
  | clz (g : Guard) (d a : SR)
  | ctz (g : Guard) (d a : SR)
  | popc (g : Guard) (d a : SR)
  | ext (g : Guard) (ty : Ty) (d a : SR)
  | cmp (g : Guard) (cc : Cond) (d : PR) (a b : SR)
  | sel (g : Guard) (d : SR) (c : PR) (a b : SR)
  | sadd (g : Guard) (ty : Ty) (d a b : SR)
  | ssub (g : Guard) (ty : Ty) (d a b : SR)
  | mad (g : Guard) (d a b c : SR)
  | lea (g : Guard) (k : BitVec 2) (d a b : SR)
  | fadd (g : Guard) (ty : Ty) (rm : Rc) (d a b : SR)
  | fsub (g : Guard) (ty : Ty) (rm : Rc) (d a b : SR)
  | fmul (g : Guard) (ty : Ty) (rm : Rc) (d a b : SR)
  | fdiv (g : Guard) (ty : Ty) (rm : Rc) (d a b : SR)
  | fsqrt (g : Guard) (ty : Ty) (rm : Rc) (d a : SR)
  | fma (g : Guard) (ty : Ty) (rm : Rc) (neg : BitVec 2) (d a b c : SR)
  | fmin (g : Guard) (ty : Ty) (d a b : SR)
  | fmax (g : Guard) (ty : Ty) (d a b : SR)
  | fabs (g : Guard) (ty : Ty) (d a : SR)
  | fneg (g : Guard) (ty : Ty) (d a : SR)
  | fsgn (g : Guard) (ty : Ty) (d a b : SR)
  | fcmp (g : Guard) (cc : Cond) (ty : Ty) (d : PR) (a b : SR)
  | fcvt (g : Guard) (ty u : Ty) (rm : Rc) (d a : SR)
  | fclass (g : Guard) (ty : Ty) (d a : SR)
  | frnd (g : Guard) (ty : Ty) (rm : Rc) (d a : SR)
  | plog (g : Guard) (tt : BitVec 4) (d a b : PR)
  | pcnt (g : Guard) (d : SR) (a : PR)
  | pfirst (g : Guard) (d : SR) (a : PR)
  | prange (g : Guard) (d : PR) (a b : SR)
  | psplat (g : Guard) (d : PR) (a : SR)
  | addi (g : Guard) (d a : SR) (imm : BitVec 32)
  | andi (g : Guard) (d a : SR) (imm : BitVec 32)
  | ori (g : Guard) (d a : SR) (imm : BitVec 32)
  | xori (g : Guard) (d a : SR) (imm : BitVec 32)
  | muli (g : Guard) (d a : SR) (imm : BitVec 32)
  | shli (g : Guard) (d a : SR) (k : BitVec 6)
  | shri (g : Guard) (d a : SR) (k : BitVec 6)
  | srai (g : Guard) (d a : SR) (k : BitVec 6)
  | movi (g : Guard) (d : SR) (imm : BitVec 32)
  | movhi (g : Guard) (d a : SR) (imm : BitVec 32)
  | cmpi (g : Guard) (cc : CondI) (d : PR) (a : SR) (imm : BitVec 32)
  | cmpiu (g : Guard) (cc : CondI) (d : PR) (a : SR) (imm : BitVec 32)
  | adpc (g : Guard) (d : SR) (imm : BitVec 32)
  | br (g : Guard) (off : BitVec 32)
  | call (g : Guard) (d : SR) (off : BitVec 32)
  | jmp (g : Guard) (a : SR) (off : BitVec 32)
  | callr (g : Guard) (d a : SR) (off : BitVec 32)
  | ret (g : Guard) (a : SR)
  | loop (g : Guard) (n : LR) (a : SR) (len : BitVec 8) (imm : BitVec 32)
  | lbrk (g : Guard) (n : LR)
  | lcget (g : Guard) (a : SR) (n : LR)
  | lcset (g : Guard) (n : LR) (a : SR)
  | qld (g : Guard) (ord : Ord) (sc : Scope) (t : QR) (m : MemOp)
  | qst (g : Guard) (ord : Ord) (sc : Scope) (t : QR) (m : MemOp)
  | ld (g : Guard) (ty : Ty) (fe : Fe) (ord : Ord) (sc : Scope) (t : SR) (m : MemOp)
  | st (g : Guard) (ty : Ty) (fe : Fe) (ord : Ord) (sc : Scope) (t : SR) (m : MemOp)
  | ld2 (g : Guard) (ord : Ord) (sc : Scope) (t : SR) (m : MemOp)
  | st2 (g : Guard) (ord : Ord) (sc : Scope) (t : SR) (m : MemOp)
  | vld (g : Guard) (ord : Ord) (sc : Scope) (q : QR) (t : VR) (m : MemOp)
  | vst (g : Guard) (ord : Ord) (sc : Scope) (q : QR) (t : VR) (m : MemOp)
  | vgath (g : Guard) (q : QR) (t : VR) (m : MemOp)
  | vscat (g : Guard) (q : QR) (t : VR) (m : MemOp)
  | cas (g : Guard) (ty : Ty) (ord : Ord) (sc : Scope) (t : SR) (m : MemOp)
  | cas2 (g : Guard) (ord : Ord) (sc : Scope) (t : SR) (m : MemOp)
  | amoadd (g : Guard) (ty : Ty) (ord : Ord) (sc : Scope) (t : SR) (m : MemOp)
  | amoand (g : Guard) (ty : Ty) (ord : Ord) (sc : Scope) (t : SR) (m : MemOp)
  | amoor (g : Guard) (ty : Ty) (ord : Ord) (sc : Scope) (t : SR) (m : MemOp)
  | amoxor (g : Guard) (ty : Ty) (ord : Ord) (sc : Scope) (t : SR) (m : MemOp)
  | amomin (g : Guard) (ty : Ty) (ord : Ord) (sc : Scope) (t : SR) (m : MemOp)
  | amomax (g : Guard) (ty : Ty) (ord : Ord) (sc : Scope) (t : SR) (m : MemOp)
  | amominu (g : Guard) (ty : Ty) (ord : Ord) (sc : Scope) (t : SR) (m : MemOp)
  | amomaxu (g : Guard) (ty : Ty) (ord : Ord) (sc : Scope) (t : SR) (m : MemOp)
  | amoswap (g : Guard) (ty : Ty) (ord : Ord) (sc : Scope) (t : SR) (m : MemOp)
  | amofadd (g : Guard) (ord : Ord) (sc : Scope) (t : SR) (m : MemOp)
  | xadd32 (g : Guard) (ty : Ty) (ord : Ord) (sc : Scope) (t : SR) (m : MemOp)
  | xadd64 (g : Guard) (ty : Ty) (ord : Ord) (sc : Scope) (t : SR) (m : MemOp)
  | xrd32 (g : Guard) (ty : Ty) (rm : Rc) (ord : Ord) (sc : Scope) (t : SR) (m : MemOp)
  | xrd64 (g : Guard) (ty : Ty) (rm : Rc) (ord : Ord) (sc : Scope) (t : SR) (m : MemOp)
  | famoadd (g : Guard) (ty : Ty) (ord : Ord) (sc : Scope) (t : SR) (m : MemOp)
  | famoand (g : Guard) (ty : Ty) (ord : Ord) (sc : Scope) (t : SR) (m : MemOp)
  | famoor (g : Guard) (ty : Ty) (ord : Ord) (sc : Scope) (t : SR) (m : MemOp)
  | famoxor (g : Guard) (ty : Ty) (ord : Ord) (sc : Scope) (t : SR) (m : MemOp)
  | famomin (g : Guard) (ty : Ty) (ord : Ord) (sc : Scope) (t : SR) (m : MemOp)
  | famomax (g : Guard) (ty : Ty) (ord : Ord) (sc : Scope) (t : SR) (m : MemOp)
  | famoswap (g : Guard) (ty : Ty) (ord : Ord) (sc : Scope) (t : SR) (m : MemOp)
  | fcas (g : Guard) (ty : Ty) (ord : Ord) (sc : Scope) (t : SR) (m : MemOp)
  | vadd (g : Guard) (ty : Ty) (rm : Rc) (sat : Bool) (d a : VR) (b : VB)
  | vsub (g : Guard) (ty : Ty) (rm : Rc) (sat : Bool) (d a : VR) (b : VB)
  | vmul (g : Guard) (ty : Ty) (rm : Rc) (d a : VR) (b : VB)
  | vfma (g : Guard) (ty : Ty) (rm : Rc) (neg : BitVec 2) (d a b c : VR)
  | vmin (g : Guard) (ty : Ty) (d a : VR) (b : VB)
  | vmax (g : Guard) (ty : Ty) (d a : VR) (b : VB)
  | vabs (g : Guard) (ty : Ty) (d a : VR)
  | vneg (g : Guard) (ty : Ty) (d a : VR)
  | vand (g : Guard) (ty : Ty) (d a : VR) (b : VB)
  | vor (g : Guard) (ty : Ty) (d a : VR) (b : VB)
  | vxor (g : Guard) (ty : Ty) (d a : VR) (b : VB)
  | vshl (g : Guard) (ty : Ty) (d a : VR) (b : VB)
  | vshr (g : Guard) (ty : Ty) (d a : VR) (b : VB)
  | vcmp (g : Guard) (cc : Cond) (ty : Ty) (d : PR) (a : VR) (b : VB)
  | vsel (g : Guard) (ty : Ty) (d : VR) (c : PR) (a b : VR)
  | vcvt (g : Guard) (ty u : Ty) (rm : Rc) (d a : VR)
  | vdup (g : Guard) (ty : Ty) (d : VR) (a : SR)
  | vins (g : Guard) (ty : Ty) (d : VR) (a b : SR)
  | vext (g : Guard) (ty : Ty) (d : SR) (a : VR) (b : SR)
  | vexp2 (g : Guard) (ty : Ty) (d a : VR)
  | vlog2 (g : Guard) (ty : Ty) (d a : VR)
  | vrcp (g : Guard) (ty : Ty) (d a : VR)
  | vrsqrt (g : Guard) (ty : Ty) (d a : VR)
  | vrotr (g : Guard) (d a : VR) (b : SR)
  | vrotc (g : Guard) (d a : VR) (b : SR)
  | vbcr (g : Guard) (d a : VR) (b : SR)
  | vbcc (g : Guard) (d a : VR) (b : SR)
  | vredr (g : Guard) (op : Red) (ty : Ty) (rm : Rc) (d a : VR)
  | vredc (g : Guard) (op : Red) (ty : Ty) (rm : Rc) (d a : VR)
  | vtrnr (g : Guard) (d a : VR)
  | vtrnc (g : Guard) (d a : VR)
  | vcx (g : Guard) (dn : Bool) (ty : Ty) (d a : VR) (b : SR)
  | vmac (g : Guard) (ty u : Ty) (rm : Rc) (z : Bool) (d : AR) (a b : VR)
  | vnarr (g : Guard) (ty u : Ty) (rm : Rc) (d : VR) (a : AR)
  | qpush (g : Guard) (q : BitVec 4) (sr : SR) (code : BitVec 8)
  | qpop (g : Guard) (d : SR) (q : BitVec 4)
  | qpeek (g : Guard) (d : SR) (q : BitVec 4)
  | qstat (g : Guard) (d : SR) (q : BitVec 4)
  | mclaim (g : Guard) (d : SR) (pd : PR) (n : BitVec 8)
  | mtset (g : Guard) (t : TR) (d sr : SR)
  | mtget (g : Guard) (d : SR) (t : TR) (hf : BitVec 1)
  | qclr (g : Guard) (q : BitVec 4)
  | mld (g : Guard) (sr : SR) (imm : BitVec 32)
  | mldt (g : Guard) (sr : SR) (imm : BitVec 32)
  | mmul (g : Guard) (sr : SR) (imm : BitVec 32)
  | mmulZ (g : Guard) (sr : SR) (imm : BitVec 32)
  | mmsp (g : Guard) (sr : SR) (imm : BitVec 32)
  | mmspZ (g : Guard) (sr : SR) (imm : BitVec 32)
  | mrel (g : Guard) (sr : SR) (imm : BitVec 32)
  | mzero (g : Guard) (sr : SR) (imm : BitVec 32)
  | mst (g : Guard) (sr : SR) (imm : BitVec 32)
  | mfill (g : Guard) (sr : SR) (imm : BitVec 32)
  | gsprobe (g : Guard) (sr : SR) (imm : BitVec 32)
  | gsinsert (g : Guard) (sr : SR) (imm : BitVec 32)
  | gsclear (g : Guard) (sr : SR) (imm : BitVec 32)
  | gsgather (g : Guard) (sr : SR) (imm : BitVec 32)
  | gsscadd (g : Guard) (sr : SR) (imm : BitVec 32)
  | gsrules (g : Guard) (sr : SR) (imm : BitVec 32)
  | gssegsum (g : Guard) (sr : SR) (imm : BitVec 32)
  | gscompact (g : Guard) (sr : SR) (imm : BitVec 32)
  | sosort (g : Guard) (sr : SR) (imm : BitVec 32)
  | somerge (g : Guard) (sr : SR) (imm : BitVec 32)
  | sotopk (g : Guard) (sr : SR) (imm : BitVec 32)
  | sothresh (g : Guard) (sr : SR) (imm : BitVec 32)
  | sosums (g : Guard) (sr : SR) (imm : BitVec 32)
  | sogather (g : Guard) (sr : SR) (imm : BitVec 32)
  | cpcopy (g : Guard) (sr : SR) (imm : BitVec 32)
  | cpset (g : Guard) (sr : SR) (imm : BitVec 32)
  | cpfe (g : Guard) (sr : SR) (imm : BitVec 32)
  | cpstride (g : Guard) (sr : SR) (imm : BitVec 32)
  | cpprf (g : Guard) (sr : SR) (imm : BitVec 32)
  | cpwb (g : Guard) (sr : SR) (imm : BitVec 32)
  | cpsig (g : Guard) (sr : SR) (imm : BitVec 32)
  | timeCompare (c k : Nat)
  | feRetryAttempt (c k : Nat)
  | wakeNotice (n : Nat)
  | forwardedAtomicFill (n : Nat)
  | pushAcceptance (c k : Nat)
  | popDelivery (c k : Nat)
  | packetDeparture (c : Nat)
  | handlerStart (c : Nat)
  | mldCommand (c : Nat)
  | mldtCommand (c : Nat)
  | mmulCommand (c : Nat)
  | mmulZCommand (c : Nat)
  | mmspCommand (c : Nat)
  | mmspZCommand (c : Nat)
  | mrelCommand (c : Nat)
  | mzeroCommand (c : Nat)
  | mstCommand (c : Nat)
  | mfillCommand (c : Nat)
  | leaseGrant (die cluster : Nat)
  | gsprobeCommand (c : Nat)
  | gsinsertCommand (c : Nat)
  | gsclearCommand (c : Nat)
  | gsgatherCommand (c : Nat)
  | gsscaddCommand (c : Nat)
  | gsrulesCommand (c : Nat)
  | gssegsumCommand (c : Nat)
  | gscompactCommand (c : Nat)
  | sosortCommand (c : Nat)
  | somergeCommand (c : Nat)
  | sotopkCommand (c : Nat)
  | sothreshCommand (c : Nat)
  | sosumsCommand (c : Nat)
  | sogatherCommand (c : Nat)
  | cpcopyCommand (c : Nat)
  | cpsetCommand (c : Nat)
  | cpfeCommand (c : Nat)
  | cpstrideCommand (c : Nat)
  | cpprfCommand (c : Nat)
  | cpwbCommand (c : Nat)
  | cpsigCommand (c : Nat)
  | loaderTile (c sub : Nat)
  | storerTile (c sub : Nat)
  | entryEmission (level : Nat)
  | strandStart (c k : Nat)
  | entryPromotion (task : Nat)
  | periodStart (ctx : Nat)
  | budgetExhaustion (ctx rcb : Nat)
  | dlshareWindow
  | powerClassSelect
  | takeBack (die pos : Nat)
  | drainTimeout (c k : Nat)
  | nodeCompletion (task : Nat)
  | launchEnd (ctx : Nat)
  | logicalCoreSwitch (die pos : Nat)
  | pageOut (buf page : Nat)
  | pageIn (buf : Nat) (want : PageWant)
  | doorbell (abut fn qid : Nat) (value : Word)
  | packetNop (qid : Nat)
  | launchImage (qid : Nat)
  | freeze (qid : Nat)
  | writeSignal (qid : Nat)
  | wait (qid : Nat)
  | queueCreate (qid : Nat)
  | queueDestroy (qid : Nat)
  | queueReset (qid : Nat)
  | queueQuery (qid : Nat)
  | bufAlloc (qid : Nat)
  | bufFree (qid : Nat)
  | bufRevoke (qid : Nat)
  | setDlshare (qid : Nat)
  | waitingStepResume (qid idx : Nat)
  | waitTimeout (qid idx : Nat)
  | sliceExpiry (hwslot : Nat)
  | frameBoundary
  | auditSend (link : Nat)
  | creditAudit (link : Nat)
  | connectionSetup (entry : Nat) (w0 : Word)
  | connectionTeardown (entry : Nat)
  | circuitActive (entry : Nat)
  | circuitDown (entry : Nat)
  | apertureRead (abut fn off size : Nat)
  | apertureWrite (abut fn off : Nat) (data : List Byte)
  | adminQueueEnable (fn : Nat) (value : Word)
  | adminQueueDisable (fn : Nat)
  | steeringEnable (abut entry : Nat) (w0 w1 w2 w3 : Word)
  | steeringDisable (abut entry : Nat)
  | registerWrite (abut fn off : Nat) (value : Word)
  | ingressFrame (abut port : Nat) (frame : List Byte) (age : Nat)
  | egressSlot (abut entry age : Nat)
  | egressRetry (abut entry age : Nat)
  | ptpFrame (abut port : Nat) (locked : Bool) (offset : BitVec 32) (act : PtpAct)
  | hardwareError (e : HwError)
  | coreRetirement (die pos : Nat)
  | dieRetirement (die : Nat)
  | patrolScrub
  | heartbeat (core : Nat)
  | attestationRequest
  | thermalThrottle (die temp : Nat)
  | thermalTrip (die temp : Nat)
  | bringUp
  | coldReset
  | perstAbutment1
  | perstAbutment2
  | functionLevelReset (fn : Nat)
  | illegalInstruction (step : Nat) (w : Word)
  | instructionFetchFault (off : Word)
  | dirtyByteWriteBack (c line : Nat)
  | trailerDiscard (link vc n : Nat)
  | receivedFrameDrop (abut port : Nat) (frame : List Byte) (badFcs : Bool)
  | thermalThrottleEnd (die temp : Nat)
  | powerClassTakesEffect
  deriving DecidableEq, Repr

end Sys2Proof
end

