-- ==== Sys2Proof/WellFormed.lean ====
section
/-! DEFINITION. The encodings of the field codes (R111, R136-R143) and the well-formedness of an instruction: the
checks of R126 steps 2 and 3 that concern its fields. -/

namespace Sys2Proof

/-- The code of R136. -/
def Ty.code : Ty → BitVec 5
  | .i8 => 1#5
  | .i16 => 2#5
  | .i32 => 3#5
  | .i64 => 4#5
  | .n8 => 5#5
  | .n16 => 6#5
  | .n32 => 7#5
  | .n64 => 8#5
  | .f64 => 9#5
  | .f32 => 10#5
  | .bf16 => 11#5
  | .f16 => 12#5
  | .e4m3 => 13#5
  | .e5m2 => 14#5
  | .e2m3 => 15#5
  | .e3m2 => 16#5
  | .e2m1 => 17#5
  | .pt8 => 18#5

/-- Reading a code of R136; none for a code that is reserved. -/
def Ty.ofCode (c : BitVec 5) : Option Ty :=
  match c.toNat with
  | 1 => some .i8
  | 2 => some .i16
  | 3 => some .i32
  | 4 => some .i64
  | 5 => some .n8
  | 6 => some .n16
  | 7 => some .n32
  | 8 => some .n64
  | 9 => some .f64
  | 10 => some .f32
  | 11 => some .bf16
  | 12 => some .f16
  | 13 => some .e4m3
  | 14 => some .e5m2
  | 15 => some .e2m3
  | 16 => some .e3m2
  | 17 => some .e2m1
  | 18 => some .pt8
  | _ => none

/-- The code of R137. -/
def Rc.code : Rc → BitVec 3
  | .none => 0#3
  | .rne => 4#3
  | .rtz => 5#3
  | .rup => 6#3
  | .rdn => 7#3

/-- Reading a code of R137; none for a code that is reserved. -/
def Rc.ofCode (c : BitVec 3) : Option Rc :=
  match c.toNat with
  | 0 => some .none
  | 4 => some .rne
  | 5 => some .rtz
  | 6 => some .rup
  | 7 => some .rdn
  | _ => none

/-- The code of R138. -/
def Fe.code : Fe → BitVec 3
  | .plain => 0#3
  | .wt => 1#3
  | .cn => 2#3
  | .fl => 3#3
  | .fu => 4#3

/-- Reading a code of R138; none for a code that is reserved. -/
def Fe.ofCode (c : BitVec 3) : Option Fe :=
  match c.toNat with
  | 0 => some .plain
  | 1 => some .wt
  | 2 => some .cn
  | 3 => some .fl
  | 4 => some .fu
  | _ => none

/-- The code of R140. -/
def Cond.code : Cond → BitVec 5
  | .eq => 0#5
  | .ne => 1#5
  | .lt => 2#5
  | .le => 3#5
  | .gt => 4#5
  | .ge => 5#5
  | .ltu => 6#5
  | .leu => 7#5
  | .gtu => 8#5
  | .geu => 9#5
  | .feq => 16#5
  | .fne => 17#5
  | .flt => 18#5
  | .fle => 19#5
  | .fgt => 20#5
  | .fge => 21#5
  | .fun_ => 22#5
  | .for_ => 23#5

/-- Reading a code of R140; none for a code that is reserved. -/
def Cond.ofCode (c : BitVec 5) : Option Cond :=
  match c.toNat with
  | 0 => some .eq
  | 1 => some .ne
  | 2 => some .lt
  | 3 => some .le
  | 4 => some .gt
  | 5 => some .ge
  | 6 => some .ltu
  | 7 => some .leu
  | 8 => some .gtu
  | 9 => some .geu
  | 16 => some .feq
  | 17 => some .fne
  | 18 => some .flt
  | 19 => some .fle
  | 20 => some .fgt
  | 21 => some .fge
  | 22 => some .fun_
  | 23 => some .for_
  | _ => none

/-- The code of R140. -/
def CondI.code : CondI → BitVec 3
  | .eq => 0#3
  | .ne => 1#3
  | .lt => 2#3
  | .le => 3#3
  | .gt => 4#3
  | .ge => 5#3

/-- Reading a code of R140; none for a code that is reserved. -/
def CondI.ofCode (c : BitVec 3) : Option CondI :=
  match c.toNat with
  | 0 => some .eq
  | 1 => some .ne
  | 2 => some .lt
  | 3 => some .le
  | 4 => some .gt
  | 5 => some .ge
  | _ => none

/-- The code of R143. -/
def Red.code : Red → BitVec 6
  | .sum => 0#6
  | .min => 1#6
  | .max => 2#6
  | .and => 3#6
  | .or => 4#6
  | .xor => 5#6

/-- Reading a code of R143; none for a code that is reserved. -/
def Red.ofCode (c : BitVec 6) : Option Red :=
  match c.toNat with
  | 0 => some .sum
  | 1 => some .min
  | 2 => some .max
  | 3 => some .and
  | 4 => some .or
  | 5 => some .xor
  | _ => none

/-- The code of R111. -/
def Cr.code : Cr → BitVec 12
  | .status => 0#12
  | .trapCause => 1#12
  | .trapPc => 2#12
  | .trapVal => 3#12
  | .trapStat => 4#12
  | .trapVec => 5#12
  | .fpctl => 16#12
  | .fectl => 32#12
  | .feBudget => 33#12
  | .prio => 48#12
  | .logCore => 49#12
  | .timeCmp => 64#12
  | .handler => 80#12
  | .msgInfo => 81#12
  | .scratch0 => 96#12
  | .scratch1 => 97#12

/-- Reading a code of R111; none for a code that is reserved. -/
def Cr.ofCode (c : BitVec 12) : Option Cr :=
  match c.toNat with
  | 0 => some .status
  | 1 => some .trapCause
  | 2 => some .trapPc
  | 3 => some .trapVal
  | 4 => some .trapStat
  | 5 => some .trapVec
  | 16 => some .fpctl
  | 32 => some .fectl
  | 33 => some .feBudget
  | 48 => some .prio
  | 49 => some .logCore
  | 64 => some .timeCmp
  | 80 => some .handler
  | 81 => some .msgInfo
  | 96 => some .scratch0
  | 97 => some .scratch1
  | _ => none

/-- The code of R138. -/
def Ord.code : Ord → BitVec 2
  | .none => 0#2
  | .acq => 1#2
  | .rel => 2#2
  | .acqRel => 3#2

/-- Reading a code of R138. -/
def Ord.ofCode (c : BitVec 2) : Ord :=
  match c.toNat with
  | 0 => .none
  | 1 => .acq
  | 2 => .rel
  | _ => .acqRel

/-- The code of R138. -/
def Scope.code : Scope → BitVec 2
  | .core => 0#2
  | .die => 1#2
  | .pkg => 2#2
  | .sys => 3#2

/-- Reading a code of R138. -/
def Scope.ofCode (c : BitVec 2) : Scope :=
  match c.toNat with
  | 0 => .core
  | 1 => .die
  | 2 => .pkg
  | _ => .sys

/-- The code of R139. -/
def Space.code : Space → BitVec 2
  | .dev => 0#2
  | .ls => 1#2
  | .mw => 2#2
  | .host => 3#2

/-- Reading a code of R139. -/
def Space.ofCode (c : BitVec 2) : Space :=
  match c.toNat with
  | 0 => .dev
  | 1 => .ls
  | 2 => .mw
  | _ => .host

/-- The width of a type in bits (R73, R76). -/
def Ty.width : Ty → Nat
  | .i8 | .n8 | .e4m3 | .e5m2 | .pt8 => 8
  | .i16 | .n16 | .bf16 | .f16 => 16
  | .i32 | .n32 | .f32 => 32
  | .i64 | .n64 | .f64 => 64
  | .e2m3 | .e3m2 => 6
  | .e2m1 => 4

/-- An integer type (R76). -/
def Ty.isInt : Ty → Bool
  | .i8 | .i16 | .i32 | .i64 | .n8 | .n16 | .n32 | .n64 => true
  | _ => false

/-- A two's-complement integer type (R76). -/
def Ty.isSigned : Ty → Bool
  | .i8 | .i16 | .i32 | .i64 => true
  | _ => false

/-- The types of scalar arithmetic (R148). -/
def Ty.isScalarFp : Ty → Bool
  | .f64 | .f32 | .bf16 | .f16 => true
  | _ => false

/-- A format that rounding applies to: floating point or PT8 (R248). -/
def Ty.isFloat (t : Ty) : Bool := !t.isInt

/-- The types of ext (R146). -/
def Ty.isExt : Ty → Bool
  | .i8 | .i16 | .i32 | .n8 | .n16 | .n32 => true
  | _ => false

/-- The types of ld and st (R151): any code except 0x00 and 0x0F-0x11. -/
def Ty.isMem : Ty → Bool
  | .e2m3 | .e3m2 | .e2m1 => false
  | _ => true

/-- The types of atomics (R151). -/
def Ty.isAmo : Ty → Bool
  | .i32 | .i64 | .n32 | .n64 => true
  | _ => false

/-- Addends of a FP32 cell (R222). -/
def Ty.isCell32 : Ty → Bool
  | .f32 | .bf16 | .f16 => true
  | _ => false

/-- Addends of a FP64 cell (R222). -/
def Ty.isCell64 : Ty → Bool
  | .f64 | .f32 => true
  | _ => false

/-- The element types of the vector majors (R152). -/
def Ty.isVec (t : Ty) : Bool := t.isInt || t.isScalarFp

/-- The accumulator types of vmac and vnarr (R152). -/
def Ty.isAcc : Ty → Bool
  | .f64 | .f32 | .i64 => true
  | _ => false

/-- A 64-bit type, held in a register pair (R109). -/
def Ty.is64 (t : Ty) : Bool := decide (t.width = 64)

/-- A predicate number lies in its file (R127). -/
def pOk (p : PR) : Bool := decide (p.toNat ≤ 95)

/-- A loop counter number lies in its file (R133). -/
def lcOk (n : LR) : Bool := decide (n.toNat ≤ 2)

/-- A register group starts at a multiple of n (R151). -/
def multOf (n : Nat) (r : SR) : Bool := decide (r.toNat % n = 0)

/-- A vector register that holds a 64-bit type is even (R127). -/
def evenIf (t : Ty) (r : VR) : Bool := !t.is64 || decide (r.toNat % 2 = 0)

def VB.evenIf (t : Ty) : VB → Bool
  | .v r => Sys2Proof.evenIf t r
  | .s _ => true

def Cond.isInt (c : Cond) : Bool := decide (c.code.toNat ≤ 9)

/-- The condition codes vcmp permits with an element type (R140). -/
def Cond.vecOk (c : Cond) (t : Ty) : Bool :=
  if t.isInt then decide (c.code.toNat ≤ 5) else decide (16 ≤ c.code.toNat)

def Ord.isLoad (o : Ord) : Bool := decide (o = .none) || decide (o = .acq)
def Ord.isStore (o : Ord) : Bool := decide (o = .none) || decide (o = .rel)
def Fe.isLoad (f : Fe) : Bool := decide (f = .plain) || decide (f = .wt) || decide (f = .cn)
def Fe.isStore (f : Fe) : Bool := decide (f = .plain) || decide (f = .fl) || decide (f = .fu)

/-- When FE is plain and ORD is none, SCOPE is 0 (R138). -/
def feScope (f : Fe) (o : Ord) (s : Scope) : Bool :=
  decide (f ≠ .plain) || decide (o ≠ .none) || decide (s = .core)

def plainScope (o : Ord) (s : Scope) : Bool := feScope .plain o s

/-- BUF is 0 where the space does not use it (R139). -/
def MemOp.bufOk (m : MemOp) : Bool :=
  match m.sp with
  | .ls | .mw => decide (m.buf = 0)
  | _ => true

def MemOp.devOnly (m : MemOp) : Bool := decide (m.sp = .dev)
def MemOp.devOrLs (m : MemOp) : Bool := (decide (m.sp = .dev) || decide (m.sp = .ls)) && m.bufOk

/-- Spaces of ld and ld2 (R139). -/
def MemOp.ldSpace (m : MemOp) (f : Fe) : Bool :=
  m.bufOk && (match m.sp with
  | .dev | .ls => true
  | .mw => false
  | .host => decide (f = .plain))

/-- Spaces of st and st2 (R139). -/
def MemOp.stSpace (m : MemOp) (f : Fe) : Bool :=
  m.bufOk && (match m.sp with
  | .dev | .ls => true
  | .mw | .host => decide (f = .plain))

/-- Rounding codes a vector major permits for the format it rounds into (R248). -/
def rmOk (t : Ty) (r : Rc) : Bool := t.isFloat || decide (r = .none)

/-- The type pairs of vmac (R257). -/
def macOk (t u : Ty) : Bool :=
  if u = .i64 then t.isInt else (decide (t ≠ .f64) || decide (u = .f64))

/-- and, or and xor reduce integer types only (R143). -/
def Red.tyOk (r : Red) (t : Ty) : Bool :=
  match r with
  | .and | .or | .xor => t.isInt
  | _ => true

/-- The queue of an engine-command code (R154). -/
def queueOfMajor (m : Nat) : Option Nat :=
  if 0xD0 ≤ m ∧ m ≤ 0xD1 then some 1
  else if 0xD2 ≤ m ∧ m ≤ 0xD7 then some 2
  else if 0xD8 ≤ m ∧ m ≤ 0xD9 then some 3
  else if 0xE0 ≤ m ∧ m ≤ 0xE7 then some 4
  else if 0xE8 ≤ m ∧ m ≤ 0xED then some 5
  else if 0xF0 ≤ m ∧ m ≤ 0xF6 then some 0
  else none

/-- The low half of a matrix command entry as a word carries it: bits 20:16 zero, FSEL at most 8 (R324, R325). -/
def matrixImmOk (imm : BitVec 32) : Bool :=
  decide (imm.extractLsb' 16 5 = 0) && decide ((imm.extractLsb' 22 4).toNat ≤ 8)

def Guard.ok (g : Guard) : Bool := pOk g.p

/-- The checks of R126 steps 2 and 3 on the fields of an instruction; an event has no word. -/
def Instr.wf : Instr → Bool
  | .nop g => g.ok
  | .trap g _ => g.ok
  | .brk g _ => g.ok
  | .tret g => g.ok
  | .hret g => g.ok
  | .crd g _ _ => g.ok
  | .cwr g _ _ => g.ok
  | .crset g _ _ => g.ok
  | .crclr g _ _ => g.ok
  | .fence g ord _ => g.ok && (decide (ord ≠ .none))
  | .time g _ => g.ok
  | .cid g _ => g.ok
  | .dhops g _ _ _ => g.ok
  | .tnext g _ pa => g.ok && (pOk pa)
  | .tdone g => g.ok
  | .tspawn g _ _ => g.ok
  | .tyield g => g.ok
  | .barv g _ _ => g.ok
  | .barw g _ _ => g.ok
  | .add g _ _ _ => g.ok
  | .sub g _ _ _ => g.ok
  | .mul g _ _ _ => g.ok
  | .mulh g _ _ _ => g.ok
  | .mulhu g _ _ _ => g.ok
  | .div g _ _ _ => g.ok
  | .divu g _ _ _ => g.ok
  | .rem g _ _ _ => g.ok
  | .remu g _ _ _ => g.ok
  | .and g _ _ _ => g.ok
  | .or g _ _ _ => g.ok
  | .xor g _ _ _ => g.ok
  | .andn g _ _ _ => g.ok
  | .shl g _ _ _ => g.ok
  | .shr g _ _ _ => g.ok
  | .sra g _ _ _ => g.ok
  | .rotl g _ _ _ => g.ok
  | .min g _ _ _ => g.ok
  | .max g _ _ _ => g.ok
  | .minu g _ _ _ => g.ok
  | .maxu g _ _ _ => g.ok
  | .clz g _ _ => g.ok
  | .ctz g _ _ => g.ok
  | .popc g _ _ => g.ok
  | .ext g ty _ _ => g.ok && (ty.isExt)
  | .cmp g cc d _ _ => g.ok && (cc.isInt && pOk d)
  | .sel g _ c _ _ => g.ok && (pOk c)
  | .sadd g ty _ _ _ => g.ok && (ty.isInt)
  | .ssub g ty _ _ _ => g.ok && (ty.isInt)
  | .mad g _ _ _ _ => g.ok
  | .lea g _ _ _ _ => g.ok
  | .fadd g ty _ _ _ _ => g.ok && (ty.isScalarFp)
  | .fsub g ty _ _ _ _ => g.ok && (ty.isScalarFp)
  | .fmul g ty _ _ _ _ => g.ok && (ty.isScalarFp)
  | .fdiv g ty _ _ _ _ => g.ok && (ty.isScalarFp)
  | .fsqrt g ty _ _ _ => g.ok && (ty.isScalarFp)
  | .fma g ty _ _ _ _ _ _ => g.ok && (ty.isScalarFp)
  | .fmin g ty _ _ _ => g.ok && (ty.isScalarFp)
  | .fmax g ty _ _ _ => g.ok && (ty.isScalarFp)
  | .fabs g ty _ _ => g.ok && (ty.isScalarFp)
  | .fneg g ty _ _ => g.ok && (ty.isScalarFp)
  | .fsgn g ty _ _ _ => g.ok && (ty.isScalarFp)
  | .fcmp g cc ty d _ _ => g.ok && (!cc.isInt && ty.isScalarFp && pOk d)
  | .fcvt g _ _ _ _ _ => g.ok
  | .fclass g ty _ _ => g.ok && (ty.isScalarFp)
  | .frnd g ty _ _ _ => g.ok && (ty.isScalarFp)
  | .plog g _ d a b => g.ok && (pOk d && pOk a && pOk b)
  | .pcnt g _ a => g.ok && (pOk a)
  | .pfirst g _ a => g.ok && (pOk a)
  | .prange g d _ _ => g.ok && (pOk d)
  | .psplat g d _ => g.ok && (pOk d)
  | .addi g _ _ _ => g.ok
  | .andi g _ _ _ => g.ok
  | .ori g _ _ _ => g.ok
  | .xori g _ _ _ => g.ok
  | .muli g _ _ _ => g.ok
  | .shli g _ _ _ => g.ok
  | .shri g _ _ _ => g.ok
  | .srai g _ _ _ => g.ok
  | .movi g _ _ => g.ok
  | .movhi g _ _ _ => g.ok
  | .cmpi g _ d _ _ => g.ok && (pOk d)
  | .cmpiu g _ d _ _ => g.ok && (pOk d)
  | .adpc g _ _ => g.ok
  | .br g _ => g.ok
  | .call g _ _ => g.ok
  | .jmp g _ _ => g.ok
  | .callr g _ _ _ => g.ok
  | .ret g _ => g.ok
  | .loop g n a _ imm => g.ok && (lcOk n && (decide (a = 0) || decide (imm = 0)))
  | .lbrk g n => g.ok && (lcOk n)
  | .lcget g _ n => g.ok && (lcOk n)
  | .lcset g n _ => g.ok && (lcOk n)
  | .qld g ord sc _ m => g.ok && (m.devOrLs && ord.isLoad && plainScope ord sc)
  | .qst g ord sc _ m => g.ok && (m.devOrLs && ord.isStore && plainScope ord sc)
  | .ld g ty fe ord sc _ m => g.ok && (ty.isMem && fe.isLoad && ord.isLoad && m.ldSpace fe && feScope fe ord sc)
  | .st g ty fe ord sc _ m => g.ok && (ty.isMem && fe.isStore && ord.isStore && m.stSpace fe && feScope fe ord sc)
  | .ld2 g ord sc t m => g.ok && (ord.isLoad && m.ldSpace .plain && plainScope ord sc && multOf 2 t)
  | .st2 g ord sc t m => g.ok && (ord.isStore && m.stSpace .plain && plainScope ord sc && multOf 2 t)
  | .vld g ord sc _ _ m => g.ok && (m.devOrLs && ord.isLoad && plainScope ord sc)
  | .vst g ord sc _ _ m => g.ok && (m.devOrLs && ord.isStore && plainScope ord sc)
  | .vgath g _ _ m => g.ok && (m.devOrLs && decide (m.idx.toNat ≤ 15))
  | .vscat g _ _ m => g.ok && (m.devOrLs && decide (m.idx.toNat ≤ 15))
  | .cas g ty ord sc t m => g.ok && (ty.isAmo && m.devOrLs && plainScope ord sc && multOf 2 t)
  | .cas2 g ord sc t m => g.ok && (m.devOrLs && plainScope ord sc && multOf 4 t)
  | .amoadd g ty ord sc _ m => g.ok && (ty.isAmo && m.devOrLs && plainScope ord sc)
  | .amoand g ty ord sc _ m => g.ok && (ty.isAmo && m.devOrLs && plainScope ord sc)
  | .amoor g ty ord sc _ m => g.ok && (ty.isAmo && m.devOrLs && plainScope ord sc)
  | .amoxor g ty ord sc _ m => g.ok && (ty.isAmo && m.devOrLs && plainScope ord sc)
  | .amomin g ty ord sc _ m => g.ok && (ty.isAmo && m.devOrLs && plainScope ord sc)
  | .amomax g ty ord sc _ m => g.ok && (ty.isAmo && m.devOrLs && plainScope ord sc)
  | .amominu g ty ord sc _ m => g.ok && (ty.isAmo && m.devOrLs && plainScope ord sc)
  | .amomaxu g ty ord sc _ m => g.ok && (ty.isAmo && m.devOrLs && plainScope ord sc)
  | .amoswap g ty ord sc _ m => g.ok && (ty.isAmo && m.devOrLs && plainScope ord sc)
  | .amofadd g ord sc _ m => g.ok && (m.devOrLs && plainScope ord sc)
  | .xadd32 g ty ord sc _ m => g.ok && (ty.isCell32 && m.devOnly && plainScope ord sc)
  | .xadd64 g ty ord sc _ m => g.ok && (ty.isCell64 && m.devOnly && plainScope ord sc)
  | .xrd32 g ty _ ord sc _ m => g.ok && (ty.isScalarFp && m.devOnly && ord.isLoad && plainScope ord sc)
  | .xrd64 g ty _ ord sc _ m => g.ok && (ty.isScalarFp && m.devOnly && ord.isLoad && plainScope ord sc)
  | .famoadd g ty ord sc t m => g.ok && (ty.isAmo && m.devOnly && plainScope ord sc && multOf 2 t)
  | .famoand g ty ord sc t m => g.ok && (ty.isAmo && m.devOnly && plainScope ord sc && multOf 2 t)
  | .famoor g ty ord sc t m => g.ok && (ty.isAmo && m.devOnly && plainScope ord sc && multOf 2 t)
  | .famoxor g ty ord sc t m => g.ok && (ty.isAmo && m.devOnly && plainScope ord sc && multOf 2 t)
  | .famomin g ty ord sc t m => g.ok && (ty.isAmo && m.devOnly && plainScope ord sc && multOf 2 t)
  | .famomax g ty ord sc t m => g.ok && (ty.isAmo && m.devOnly && plainScope ord sc && multOf 2 t)
  | .famoswap g ty ord sc t m => g.ok && (ty.isAmo && m.devOnly && plainScope ord sc && multOf 2 t)
  | .fcas g ty ord sc t m => g.ok && (ty.isAmo && m.devOnly && plainScope ord sc && multOf 4 t)
  | .vadd g ty rm sat d a b => g.ok && (ty.isVec && rmOk ty rm && (!sat || ty.isInt) && evenIf ty d && evenIf ty a && b.evenIf ty)
  | .vsub g ty rm sat d a b => g.ok && (ty.isVec && rmOk ty rm && (!sat || ty.isInt) && evenIf ty d && evenIf ty a && b.evenIf ty)
  | .vmul g ty rm d a b => g.ok && (ty.isVec && rmOk ty rm && evenIf ty d && evenIf ty a && b.evenIf ty)
  | .vfma g ty _ _ d a b c => g.ok && (ty.isScalarFp && evenIf ty d && evenIf ty a && evenIf ty b && evenIf ty c)
  | .vmin g ty d a b => g.ok && (ty.isVec && evenIf ty d && evenIf ty a && b.evenIf ty)
  | .vmax g ty d a b => g.ok && (ty.isVec && evenIf ty d && evenIf ty a && b.evenIf ty)
  | .vabs g ty d a => g.ok && (ty.isVec && evenIf ty d && evenIf ty a)
  | .vneg g ty d a => g.ok && (ty.isVec && evenIf ty d && evenIf ty a)
  | .vand g ty d a b => g.ok && (ty.isInt && evenIf ty d && evenIf ty a && b.evenIf ty)
  | .vor g ty d a b => g.ok && (ty.isInt && evenIf ty d && evenIf ty a && b.evenIf ty)
  | .vxor g ty d a b => g.ok && (ty.isInt && evenIf ty d && evenIf ty a && b.evenIf ty)
  | .vshl g ty d a b => g.ok && (ty.isInt && evenIf ty d && evenIf ty a && b.evenIf ty)
  | .vshr g ty d a b => g.ok && (ty.isInt && evenIf ty d && evenIf ty a && b.evenIf ty)
  | .vcmp g cc ty d a b => g.ok && (ty.isVec && cc.vecOk ty && pOk d && evenIf ty a && b.evenIf ty)
  | .vsel g ty d c a b => g.ok && (ty.isVec && pOk c && evenIf ty d && evenIf ty a && evenIf ty b)
  | .vcvt g ty u rm d a => g.ok && (rmOk ty rm && evenIf ty d && evenIf u a)
  | .vdup g ty d _ => g.ok && (ty.isVec && evenIf ty d)
  | .vins g ty d _ _ => g.ok && (ty.isVec && evenIf ty d)
  | .vext g ty _ a _ => g.ok && (ty.isVec && evenIf ty a)
  | .vexp2 g ty d a => g.ok && (ty.isScalarFp && evenIf ty d && evenIf ty a)
  | .vlog2 g ty d a => g.ok && (ty.isScalarFp && evenIf ty d && evenIf ty a)
  | .vrcp g ty d a => g.ok && (ty.isScalarFp && evenIf ty d && evenIf ty a)
  | .vrsqrt g ty d a => g.ok && (ty.isScalarFp && evenIf ty d && evenIf ty a)
  | .vrotr g _ _ _ => g.ok
  | .vrotc g _ _ _ => g.ok
  | .vbcr g _ _ _ => g.ok
  | .vbcc g _ _ _ => g.ok
  | .vredr g op ty rm d a => g.ok && (ty.isVec && op.tyOk ty && (decide (rm = .none) || (decide (op = .sum) && ty.isFloat)) && evenIf ty d && evenIf ty a)
  | .vredc g op ty rm d a => g.ok && (ty.isVec && op.tyOk ty && (decide (rm = .none) || (decide (op = .sum) && ty.isFloat)) && evenIf ty d && evenIf ty a)
  | .vtrnr g _ _ => g.ok
  | .vtrnc g _ _ => g.ok
  | .vcx g _ ty d a _ => g.ok && (ty.isVec && evenIf ty d && evenIf ty a)
  | .vmac g ty u rm _ _ a b => g.ok && (u.isAcc && macOk ty u && rmOk u rm && evenIf ty a && evenIf ty b)
  | .vnarr g ty u rm d _ => g.ok && (u.isAcc && rmOk ty rm && evenIf ty d)
  | .qpush g q _ code => g.ok && (decide (q.toNat ≤ 5) && decide (queueOfMajor code.toNat = some q.toNat))
  | .qpop g _ q => g.ok && (decide (q.toNat ≤ 5))
  | .qpeek g _ q => g.ok && (decide (q.toNat ≤ 5))
  | .qstat g _ q => g.ok && (decide (q.toNat ≤ 5))
  | .mclaim g _ pd n => g.ok && (pOk pd && decide (1 ≤ n.toNat) && decide (n.toNat ≤ 128))
  | .mtset g _ _ _ => g.ok
  | .mtget g _ _ _ => g.ok
  | .qclr g q => g.ok && (decide (q.toNat ≤ 5))
  | .mld g _ imm => g.ok && matrixImmOk imm
  | .mldt g _ imm => g.ok && matrixImmOk imm
  | .mmul g _ imm => g.ok && matrixImmOk imm
  | .mmulZ g _ imm => g.ok && matrixImmOk imm
  | .mmsp g _ imm => g.ok && matrixImmOk imm
  | .mmspZ g _ imm => g.ok && matrixImmOk imm
  | .mrel g _ imm => g.ok && matrixImmOk imm
  | .mzero g _ imm => g.ok && matrixImmOk imm
  | .mst g _ imm => g.ok && matrixImmOk imm
  | .mfill g _ imm => g.ok && matrixImmOk imm
  | .gsprobe g _ _ => g.ok
  | .gsinsert g _ _ => g.ok
  | .gsclear g _ _ => g.ok
  | .gsgather g _ _ => g.ok
  | .gsscadd g _ _ => g.ok
  | .gsrules g _ _ => g.ok
  | .gssegsum g _ _ => g.ok
  | .gscompact g _ _ => g.ok
  | .sosort g _ _ => g.ok
  | .somerge g _ _ => g.ok
  | .sotopk g _ _ => g.ok
  | .sothresh g _ _ => g.ok
  | .sosums g _ _ => g.ok
  | .sogather g _ _ => g.ok
  | .cpcopy g _ _ => g.ok
  | .cpset g _ _ => g.ok
  | .cpfe g _ _ => g.ok
  | .cpstride g _ _ => g.ok
  | .cpprf g _ _ => g.ok
  | .cpwb g _ _ => g.ok
  | .cpsig g _ _ => g.ok
  | .timeCompare _ _ => true
  | .feRetryAttempt _ _ => true
  | .wakeNotice _ => true
  | .forwardedAtomicFill _ => true
  | .pushAcceptance _ _ => true
  | .popDelivery _ _ => true
  | .packetDeparture _ => true
  | .handlerStart _ => true
  | .mldCommand _ => true
  | .mldtCommand _ => true
  | .mmulCommand _ => true
  | .mmulZCommand _ => true
  | .mmspCommand _ => true
  | .mmspZCommand _ => true
  | .mrelCommand _ => true
  | .mzeroCommand _ => true
  | .mstCommand _ => true
  | .mfillCommand _ => true
  | .leaseGrant _ _ => true
  | .gsprobeCommand _ => true
  | .gsinsertCommand _ => true
  | .gsclearCommand _ => true
  | .gsgatherCommand _ => true
  | .gsscaddCommand _ => true
  | .gsrulesCommand _ => true
  | .gssegsumCommand _ => true
  | .gscompactCommand _ => true
  | .sosortCommand _ => true
  | .somergeCommand _ => true
  | .sotopkCommand _ => true
  | .sothreshCommand _ => true
  | .sosumsCommand _ => true
  | .sogatherCommand _ => true
  | .cpcopyCommand _ => true
  | .cpsetCommand _ => true
  | .cpfeCommand _ => true
  | .cpstrideCommand _ => true
  | .cpprfCommand _ => true
  | .cpwbCommand _ => true
  | .cpsigCommand _ => true
  | .loaderTile _ _ => true
  | .storerTile _ _ => true
  | .entryEmission _ => true
  | .strandStart _ _ => true
  | .entryPromotion _ => true
  | .periodStart _ => true
  | .budgetExhaustion _ _ => true
  | .dlshareWindow => true
  | .powerClassSelect => true
  | .takeBack _ _ => true
  | .drainTimeout _ _ => true
  | .nodeCompletion _ => true
  | .launchEnd _ => true
  | .logicalCoreSwitch _ _ => true
  | .pageOut _ _ => true
  | .pageIn _ _ => true
  | .doorbell _ _ _ _ => true
  | .packetNop _ => true
  | .launchImage _ => true
  | .freeze _ => true
  | .writeSignal _ => true
  | .wait _ => true
  | .queueCreate _ => true
  | .queueDestroy _ => true
  | .queueReset _ => true
  | .queueQuery _ => true
  | .bufAlloc _ => true
  | .bufFree _ => true
  | .bufRevoke _ => true
  | .setDlshare _ => true
  | .waitingStepResume _ _ => true
  | .waitTimeout _ _ => true
  | .sliceExpiry _ => true
  | .frameBoundary => true
  | .auditSend _ => true
  | .creditAudit _ => true
  | .connectionSetup _ _ => true
  | .connectionTeardown _ => true
  | .circuitActive _ => true
  | .circuitDown _ => true
  | .apertureRead _ _ _ _ => true
  | .apertureWrite _ _ _ _ => true
  | .adminQueueEnable _ _ => true
  | .adminQueueDisable _ => true
  | .steeringEnable _ _ _ _ _ _ => true
  | .steeringDisable _ _ => true
  | .registerWrite _ _ _ _ => true
  | .ingressFrame _ _ _ _ => true
  | .egressSlot _ _ _ => true
  | .egressRetry _ _ _ => true
  | .ptpFrame _ _ _ _ _ => true
  | .hardwareError _ => true
  | .coreRetirement _ _ => true
  | .dieRetirement _ => true
  | .patrolScrub => true
  | .heartbeat _ => true
  | .attestationRequest => true
  | .thermalThrottle _ _ => true
  | .thermalTrip _ _ => true
  | .bringUp => true
  | .coldReset => true
  | .perstAbutment1 => true
  | .perstAbutment2 => true
  | .functionLevelReset _ => true
  | .illegalInstruction _ _ => true
  | .instructionFetchFault _ => true
  | .dirtyByteWriteBack _ _ => true
  | .trailerDiscard _ _ _ => true
  | .receivedFrameDrop _ _ _ _ => true
  | .thermalThrottleEnd _ _ => true
  | .powerClassTakesEffect => true

/-- An event of the opcode table: it has no instruction word. -/
def Instr.isEvent : Instr → Bool
  | .nop _ => false
  | .trap _ _ => false
  | .brk _ _ => false
  | .tret _ => false
  | .hret _ => false
  | .crd _ _ _ => false
  | .cwr _ _ _ => false
  | .crset _ _ _ => false
  | .crclr _ _ _ => false
  | .fence _ _ _ => false
  | .time _ _ => false
  | .cid _ _ => false
  | .dhops _ _ _ _ => false
  | .tnext _ _ _ => false
  | .tdone _ => false
  | .tspawn _ _ _ => false
  | .tyield _ => false
  | .barv _ _ _ => false
  | .barw _ _ _ => false
  | .add _ _ _ _ => false
  | .sub _ _ _ _ => false
  | .mul _ _ _ _ => false
  | .mulh _ _ _ _ => false
  | .mulhu _ _ _ _ => false
  | .div _ _ _ _ => false
  | .divu _ _ _ _ => false
  | .rem _ _ _ _ => false
  | .remu _ _ _ _ => false
  | .and _ _ _ _ => false
  | .or _ _ _ _ => false
  | .xor _ _ _ _ => false
  | .andn _ _ _ _ => false
  | .shl _ _ _ _ => false
  | .shr _ _ _ _ => false
  | .sra _ _ _ _ => false
  | .rotl _ _ _ _ => false
  | .min _ _ _ _ => false
  | .max _ _ _ _ => false
  | .minu _ _ _ _ => false
  | .maxu _ _ _ _ => false
  | .clz _ _ _ => false
  | .ctz _ _ _ => false
  | .popc _ _ _ => false
  | .ext _ _ _ _ => false
  | .cmp _ _ _ _ _ => false
  | .sel _ _ _ _ _ => false
  | .sadd _ _ _ _ _ => false
  | .ssub _ _ _ _ _ => false
  | .mad _ _ _ _ _ => false
  | .lea _ _ _ _ _ => false
  | .fadd _ _ _ _ _ _ => false
  | .fsub _ _ _ _ _ _ => false
  | .fmul _ _ _ _ _ _ => false
  | .fdiv _ _ _ _ _ _ => false
  | .fsqrt _ _ _ _ _ => false
  | .fma _ _ _ _ _ _ _ _ => false
  | .fmin _ _ _ _ _ => false
  | .fmax _ _ _ _ _ => false
  | .fabs _ _ _ _ => false
  | .fneg _ _ _ _ => false
  | .fsgn _ _ _ _ _ => false
  | .fcmp _ _ _ _ _ _ => false
  | .fcvt _ _ _ _ _ _ => false
  | .fclass _ _ _ _ => false
  | .frnd _ _ _ _ _ => false
  | .plog _ _ _ _ _ => false
  | .pcnt _ _ _ => false
  | .pfirst _ _ _ => false
  | .prange _ _ _ _ => false
  | .psplat _ _ _ => false
  | .addi _ _ _ _ => false
  | .andi _ _ _ _ => false
  | .ori _ _ _ _ => false
  | .xori _ _ _ _ => false
  | .muli _ _ _ _ => false
  | .shli _ _ _ _ => false
  | .shri _ _ _ _ => false
  | .srai _ _ _ _ => false
  | .movi _ _ _ => false
  | .movhi _ _ _ _ => false
  | .cmpi _ _ _ _ _ => false
  | .cmpiu _ _ _ _ _ => false
  | .adpc _ _ _ => false
  | .br _ _ => false
  | .call _ _ _ => false
  | .jmp _ _ _ => false
  | .callr _ _ _ _ => false
  | .ret _ _ => false
  | .loop _ _ _ _ _ => false
  | .lbrk _ _ => false
  | .lcget _ _ _ => false
  | .lcset _ _ _ => false
  | .qld _ _ _ _ _ => false
  | .qst _ _ _ _ _ => false
  | .ld _ _ _ _ _ _ _ => false
  | .st _ _ _ _ _ _ _ => false
  | .ld2 _ _ _ _ _ => false
  | .st2 _ _ _ _ _ => false
  | .vld _ _ _ _ _ _ => false
  | .vst _ _ _ _ _ _ => false
  | .vgath _ _ _ _ => false
  | .vscat _ _ _ _ => false
  | .cas _ _ _ _ _ _ => false
  | .cas2 _ _ _ _ _ => false
  | .amoadd _ _ _ _ _ _ => false
  | .amoand _ _ _ _ _ _ => false
  | .amoor _ _ _ _ _ _ => false
  | .amoxor _ _ _ _ _ _ => false
  | .amomin _ _ _ _ _ _ => false
  | .amomax _ _ _ _ _ _ => false
  | .amominu _ _ _ _ _ _ => false
  | .amomaxu _ _ _ _ _ _ => false
  | .amoswap _ _ _ _ _ _ => false
  | .amofadd _ _ _ _ _ => false
  | .xadd32 _ _ _ _ _ _ => false
  | .xadd64 _ _ _ _ _ _ => false
  | .xrd32 _ _ _ _ _ _ _ => false
  | .xrd64 _ _ _ _ _ _ _ => false
  | .famoadd _ _ _ _ _ _ => false
  | .famoand _ _ _ _ _ _ => false
  | .famoor _ _ _ _ _ _ => false
  | .famoxor _ _ _ _ _ _ => false
  | .famomin _ _ _ _ _ _ => false
  | .famomax _ _ _ _ _ _ => false
  | .famoswap _ _ _ _ _ _ => false
  | .fcas _ _ _ _ _ _ => false
  | .vadd _ _ _ _ _ _ _ => false
  | .vsub _ _ _ _ _ _ _ => false
  | .vmul _ _ _ _ _ _ => false
  | .vfma _ _ _ _ _ _ _ _ => false
  | .vmin _ _ _ _ _ => false
  | .vmax _ _ _ _ _ => false
  | .vabs _ _ _ _ => false
  | .vneg _ _ _ _ => false
  | .vand _ _ _ _ _ => false
  | .vor _ _ _ _ _ => false
  | .vxor _ _ _ _ _ => false
  | .vshl _ _ _ _ _ => false
  | .vshr _ _ _ _ _ => false
  | .vcmp _ _ _ _ _ _ => false
  | .vsel _ _ _ _ _ _ => false
  | .vcvt _ _ _ _ _ _ => false
  | .vdup _ _ _ _ => false
  | .vins _ _ _ _ _ => false
  | .vext _ _ _ _ _ => false
  | .vexp2 _ _ _ _ => false
  | .vlog2 _ _ _ _ => false
  | .vrcp _ _ _ _ => false
  | .vrsqrt _ _ _ _ => false
  | .vrotr _ _ _ _ => false
  | .vrotc _ _ _ _ => false
  | .vbcr _ _ _ _ => false
  | .vbcc _ _ _ _ => false
  | .vredr _ _ _ _ _ _ => false
  | .vredc _ _ _ _ _ _ => false
  | .vtrnr _ _ _ => false
  | .vtrnc _ _ _ => false
  | .vcx _ _ _ _ _ _ => false
  | .vmac _ _ _ _ _ _ _ _ => false
  | .vnarr _ _ _ _ _ _ => false
  | .qpush _ _ _ _ => false
  | .qpop _ _ _ => false
  | .qpeek _ _ _ => false
  | .qstat _ _ _ => false
  | .mclaim _ _ _ _ => false
  | .mtset _ _ _ _ => false
  | .mtget _ _ _ _ => false
  | .qclr _ _ => false
  | .mld _ _ _ => false
  | .mldt _ _ _ => false
  | .mmul _ _ _ => false
  | .mmulZ _ _ _ => false
  | .mmsp _ _ _ => false
  | .mmspZ _ _ _ => false
  | .mrel _ _ _ => false
  | .mzero _ _ _ => false
  | .mst _ _ _ => false
  | .mfill _ _ _ => false
  | .gsprobe _ _ _ => false
  | .gsinsert _ _ _ => false
  | .gsclear _ _ _ => false
  | .gsgather _ _ _ => false
  | .gsscadd _ _ _ => false
  | .gsrules _ _ _ => false
  | .gssegsum _ _ _ => false
  | .gscompact _ _ _ => false
  | .sosort _ _ _ => false
  | .somerge _ _ _ => false
  | .sotopk _ _ _ => false
  | .sothresh _ _ _ => false
  | .sosums _ _ _ => false
  | .sogather _ _ _ => false
  | .cpcopy _ _ _ => false
  | .cpset _ _ _ => false
  | .cpfe _ _ _ => false
  | .cpstride _ _ _ => false
  | .cpprf _ _ _ => false
  | .cpwb _ _ _ => false
  | .cpsig _ _ _ => false
  | .timeCompare _ _ => true
  | .feRetryAttempt _ _ => true
  | .wakeNotice _ => true
  | .forwardedAtomicFill _ => true
  | .pushAcceptance _ _ => true
  | .popDelivery _ _ => true
  | .packetDeparture _ => true
  | .handlerStart _ => true
  | .mldCommand _ => true
  | .mldtCommand _ => true
  | .mmulCommand _ => true
  | .mmulZCommand _ => true
  | .mmspCommand _ => true
  | .mmspZCommand _ => true
  | .mrelCommand _ => true
  | .mzeroCommand _ => true
  | .mstCommand _ => true
  | .mfillCommand _ => true
  | .leaseGrant _ _ => true
  | .gsprobeCommand _ => true
  | .gsinsertCommand _ => true
  | .gsclearCommand _ => true
  | .gsgatherCommand _ => true
  | .gsscaddCommand _ => true
  | .gsrulesCommand _ => true
  | .gssegsumCommand _ => true
  | .gscompactCommand _ => true
  | .sosortCommand _ => true
  | .somergeCommand _ => true
  | .sotopkCommand _ => true
  | .sothreshCommand _ => true
  | .sosumsCommand _ => true
  | .sogatherCommand _ => true
  | .cpcopyCommand _ => true
  | .cpsetCommand _ => true
  | .cpfeCommand _ => true
  | .cpstrideCommand _ => true
  | .cpprfCommand _ => true
  | .cpwbCommand _ => true
  | .cpsigCommand _ => true
  | .loaderTile _ _ => true
  | .storerTile _ _ => true
  | .entryEmission _ => true
  | .strandStart _ _ => true
  | .entryPromotion _ => true
  | .periodStart _ => true
  | .budgetExhaustion _ _ => true
  | .dlshareWindow => true
  | .powerClassSelect => true
  | .takeBack _ _ => true
  | .drainTimeout _ _ => true
  | .nodeCompletion _ => true
  | .launchEnd _ => true
  | .logicalCoreSwitch _ _ => true
  | .pageOut _ _ => true
  | .pageIn _ _ => true
  | .doorbell _ _ _ _ => true
  | .packetNop _ => true
  | .launchImage _ => true
  | .freeze _ => true
  | .writeSignal _ => true
  | .wait _ => true
  | .queueCreate _ => true
  | .queueDestroy _ => true
  | .queueReset _ => true
  | .queueQuery _ => true
  | .bufAlloc _ => true
  | .bufFree _ => true
  | .bufRevoke _ => true
  | .setDlshare _ => true
  | .waitingStepResume _ _ => true
  | .waitTimeout _ _ => true
  | .sliceExpiry _ => true
  | .frameBoundary => true
  | .auditSend _ => true
  | .creditAudit _ => true
  | .connectionSetup _ _ => true
  | .connectionTeardown _ => true
  | .circuitActive _ => true
  | .circuitDown _ => true
  | .apertureRead _ _ _ _ => true
  | .apertureWrite _ _ _ _ => true
  | .adminQueueEnable _ _ => true
  | .adminQueueDisable _ => true
  | .steeringEnable _ _ _ _ _ _ => true
  | .steeringDisable _ _ => true
  | .registerWrite _ _ _ _ => true
  | .ingressFrame _ _ _ _ => true
  | .egressSlot _ _ _ => true
  | .egressRetry _ _ _ => true
  | .ptpFrame _ _ _ _ _ => true
  | .hardwareError _ => true
  | .coreRetirement _ _ => true
  | .dieRetirement _ => true
  | .patrolScrub => true
  | .heartbeat _ => true
  | .attestationRequest => true
  | .thermalThrottle _ _ => true
  | .thermalTrip _ _ => true
  | .bringUp => true
  | .coldReset => true
  | .perstAbutment1 => true
  | .perstAbutment2 => true
  | .functionLevelReset _ => true
  | .illegalInstruction _ _ => true
  | .instructionFetchFault _ => true
  | .dirtyByteWriteBack _ _ => true
  | .trailerDiscard _ _ _ => true
  | .receivedFrameDrop _ _ _ _ => true
  | .thermalThrottleEnd _ _ => true
  | .powerClassTakesEffect => true

end Sys2Proof
end

