-- ==== Sys2Proof/Config.lean ====
section
/-! DEFINITION. What the package fixes and the spec leaves open: free values, and functions the spec names without
giving them (SHA-384, ECDSA P-384, the special functions inside their bound). None has a body. -/

namespace Sys2Proof

/-- A free value, drawn with the counter of the state (log 12). -/
opaque Config.freeValue : Nat → BitVec 64

/-- The code a special function of R259 delivers for an operand, where the spec bounds it and does not name it (log 13). -/
opaque Config.special : Nat → Ty → Nat → Nat

/-- The Pier check code over 32 data bytes and bits 15:0 of a sector's metadata (R274; log 96). -/
opaque Config.checkCode : List Byte → BitVec 16 → BitVec 16

/-- SHA-384 (R504; log 14). -/
opaque Config.sha384 : List Byte → BitVec 384

/-- ECDSA P-384 verification of a digest under a key by a signature (R504; log 14). -/
opaque Config.ecdsaVerify : List Byte → BitVec 384 → List Byte → Bool

/-- The r and s of an ECDSA P-384 signature by the device identity key (R505; log 14). -/
opaque Config.ecdsaSign : BitVec 384 → List Byte

/-- The copy of a signed image that the module flash holds: stage, copy (R504; log 14). -/
opaque Config.flashImage : Nat → Nat → List Byte

/-- The root hash and the rollback fuse row of the Keystone (R504; log 14). -/
opaque Config.rootHash : BitVec 384
opaque Config.rollback : BitVec 64

/-- The identity certificate chain in DER (R505; log 14). -/
opaque Config.certChain : List Byte

/-- The world of each function, from the signed policy (R502; log 14). -/
opaque Config.worldPolicy : Nat → Bool

/-- The ROM and fuse contents that M0 measures (R504; log 14). -/
opaque Config.romDigest : BitVec 384

end Sys2Proof
end

