-- ==== Sys2Proof/Decode.lean ====
section
/-! DEFINITION. The decoder (R124-R155), total on any word and rejecting by the step of R126 that fails, and after it
the encoder, written from the same format tables. -/

namespace Sys2Proof

/-- The MAJOR field (R124). -/
def majorOf (w : Word) : Nat := (w.extractLsb' 56 8).toNat
/-- The guard fields (R124). -/
def guardOf (w : Word) : Guard := ⟨w.extractLsb' 49 7, w.getLsbD 48⟩
/-- The format fields, bits 47:0 (R124). -/
def bodyOf (w : Word) : BitVec 48 := w.extractLsb' 0 48

def bit1 (b : Bool) : BitVec 1 := if b then 1#1 else 0#1
def bit6 (b : Bool) : BitVec 6 := if b then 1#6 else 0#6

/-- A whole word from its common fields and its format fields (R124). -/
def mkWord (major : Nat) (g : Guard) (body : BitVec 48) : Word :=
  BitVec.ofNat 8 major ++ g.p ++ bit1 g.n ++ body

def up7 (r : BitVec 6) : BitVec 7 := r.zeroExtend 7
def lo6 (r : BitVec 7) : BitVec 6 := r.truncate 6

/-- The RR format of R128. -/
structure FRR where
  d : BitVec 7 := 0
  a : BitVec 7 := 0
  b : BitVec 7 := 0
  c : BitVec 7 := 0
  func : BitVec 8 := 0
  ty : BitVec 5 := 0
  rm : BitVec 3 := 0
  res : BitVec 4 := 0
  deriving DecidableEq, Repr

def FRR.enc (x : FRR) : BitVec 48 :=
  (x.d ++ x.a ++ x.b ++ x.c ++ x.func ++ x.ty ++ x.rm ++ x.res : BitVec 48)

def FRR.dec (w : BitVec 48) : FRR :=
  ⟨w.extractLsb' 41 7, w.extractLsb' 34 7, w.extractLsb' 27 7, w.extractLsb' 20 7, w.extractLsb' 12 8, w.extractLsb' 7 5, w.extractLsb' 4 3, w.extractLsb' 0 4⟩

/-- The RI format of R129. -/
structure FRI where
  d : BitVec 7 := 0
  a : BitVec 6 := 0
  f : BitVec 3 := 0
  imm : BitVec 32 := 0
  deriving DecidableEq, Repr

def FRI.enc (x : FRI) : BitVec 48 :=
  (x.d ++ x.a ++ x.f ++ x.imm : BitVec 48)

def FRI.dec (w : BitVec 48) : FRI :=
  ⟨w.extractLsb' 41 7, w.extractLsb' 35 6, w.extractLsb' 32 3, w.extractLsb' 0 32⟩

/-- The V format of R130. -/
structure FV where
  d : BitVec 7 := 0
  a : BitVec 7 := 0
  b : BitVec 7 := 0
  c : BitVec 7 := 0
  func : BitVec 6 := 0
  ty : BitVec 5 := 0
  xt : BitVec 5 := 0
  rm : BitVec 3 := 0
  res : BitVec 1 := 0
  deriving DecidableEq, Repr

def FV.enc (x : FV) : BitVec 48 :=
  (x.d ++ x.a ++ x.b ++ x.c ++ x.func ++ x.ty ++ x.xt ++ x.rm ++ x.res : BitVec 48)

def FV.dec (w : BitVec 48) : FV :=
  ⟨w.extractLsb' 41 7, w.extractLsb' 34 7, w.extractLsb' 27 7, w.extractLsb' 20 7, w.extractLsb' 14 6, w.extractLsb' 9 5, w.extractLsb' 4 5, w.extractLsb' 1 3, w.extractLsb' 0 1⟩

/-- The M format of R131. -/
structure FM where
  t : BitVec 7 := 0
  sp : BitVec 2 := 0
  buf : BitVec 4 := 0
  idx : BitVec 6 := 0
  sc : BitVec 2 := 0
  ty : BitVec 5 := 0
  fe : BitVec 3 := 0
  ord : BitVec 2 := 0
  scope : BitVec 2 := 0
  disp : BitVec 15 := 0
  deriving DecidableEq, Repr

def FM.enc (x : FM) : BitVec 48 :=
  (x.t ++ x.sp ++ x.buf ++ x.idx ++ x.sc ++ x.ty ++ x.fe ++ x.ord ++ x.scope ++ x.disp : BitVec 48)

def FM.dec (w : BitVec 48) : FM :=
  ⟨w.extractLsb' 41 7, w.extractLsb' 39 2, w.extractLsb' 35 4, w.extractLsb' 29 6, w.extractLsb' 27 2, w.extractLsb' 22 5, w.extractLsb' 19 3, w.extractLsb' 17 2, w.extractLsb' 15 2, w.extractLsb' 0 15⟩

/-- The B format of R132. -/
structure FB where
  d : BitVec 6 := 0
  a : BitVec 6 := 0
  res : BitVec 4 := 0
  off : BitVec 32 := 0
  deriving DecidableEq, Repr

def FB.enc (x : FB) : BitVec 48 :=
  (x.d ++ x.a ++ x.res ++ x.off : BitVec 48)

def FB.dec (w : BitVec 48) : FB :=
  ⟨w.extractLsb' 42 6, w.extractLsb' 36 6, w.extractLsb' 32 4, w.extractLsb' 0 32⟩

/-- The L format of R133. -/
structure FL where
  lc : BitVec 2 := 0
  a : BitVec 6 := 0
  len : BitVec 8 := 0
  imm : BitVec 32 := 0
  deriving DecidableEq, Repr

def FL.enc (x : FL) : BitVec 48 :=
  (x.lc ++ x.a ++ x.len ++ x.imm : BitVec 48)

def FL.dec (w : BitVec 48) : FL :=
  ⟨w.extractLsb' 46 2, w.extractLsb' 40 6, w.extractLsb' 32 8, w.extractLsb' 0 32⟩

/-- The E format of R134. -/
structure FE where
  q : BitVec 4 := 0
  s : BitVec 6 := 0
  d : BitVec 6 := 0
  imm : BitVec 32 := 0
  deriving DecidableEq, Repr

def FE.enc (x : FE) : BitVec 48 :=
  (x.q ++ x.s ++ x.d ++ x.imm : BitVec 48)

def FE.dec (w : BitVec 48) : FE :=
  ⟨w.extractLsb' 44 4, w.extractLsb' 38 6, w.extractLsb' 32 6, w.extractLsb' 0 32⟩

/-- The Y format of R135. -/
structure FY where
  d : BitVec 7 := 0
  a : BitVec 7 := 0
  sel : BitVec 12 := 0
  ord : BitVec 2 := 0
  scope : BitVec 2 := 0
  res : BitVec 2 := 0
  imm : BitVec 16 := 0
  deriving DecidableEq, Repr

def FY.enc (x : FY) : BitVec 48 :=
  (x.d ++ x.a ++ x.sel ++ x.ord ++ x.scope ++ x.res ++ x.imm : BitVec 48)

def FY.dec (w : BitVec 48) : FY :=
  ⟨w.extractLsb' 41 7, w.extractLsb' 34 7, w.extractLsb' 22 12, w.extractLsb' 20 2, w.extractLsb' 18 2, w.extractLsb' 16 2, w.extractLsb' 0 16⟩

/-- The number in the B field of a V word (R130, R142). -/
def VB.num : VB → BitVec 7
  | .v r => r.zeroExtend 7
  | .s r => r.zeroExtend 7

/-- FUNC[5]: B names a scalar register (R142). -/
def VB.flag : VB → BitVec 6
  | .v _ => 0#6
  | .s _ => 0x20#6

/-- Reading the B operand (R142). -/
def FV.vb (f : FV) : VB := if f.func.getLsbD 5 then .s (f.b.truncate 6) else .v (f.b.truncate 4)

/-- Reading the memory operand (R131). -/
def FM.mem (f : FM) : MemOp := ⟨Space.ofCode f.sp, f.buf, f.idx, f.sc, f.disp⟩

/-- The majors of the Y format. -/
def parseY (m : Nat) (g : Guard) (f : FY) : Option Instr :=
  match m with
  | 0x01 => some (Instr.nop g)
  | 0x02 => some (Instr.trap g f.imm)
  | 0x03 => some (Instr.brk g f.imm)
  | 0x04 => some (Instr.tret g)
  | 0x05 => some (Instr.hret g)
  | 0x06 => (Cr.ofCode f.sel).map fun cr => Instr.crd g (lo6 f.d) cr
  | 0x07 => (Cr.ofCode f.sel).map fun cr => Instr.cwr g cr (lo6 f.a)
  | 0x08 => (Cr.ofCode f.sel).map fun cr => Instr.crset g cr (lo6 f.a)
  | 0x09 => (Cr.ofCode f.sel).map fun cr => Instr.crclr g cr (lo6 f.a)
  | 0x0A => some (Instr.fence g (Ord.ofCode f.ord) (Scope.ofCode f.scope))
  | 0x0B => some (Instr.time g (lo6 f.d))
  | 0x0C => some (Instr.cid g (lo6 f.d))
  | 0x0D => some (Instr.dhops g (lo6 f.d) (lo6 f.a) (f.sel.truncate 6))
  | 0x0E => some (Instr.tnext g (lo6 f.d) f.a)
  | 0x0F => some (Instr.tdone g)
  | 0x10 => some (Instr.tspawn g (lo6 f.d) (lo6 f.a))
  | 0x11 => some (Instr.tyield g)
  | 0x12 => some (Instr.barv g (lo6 f.a) f.imm)
  | 0x13 => some (Instr.barw g (lo6 f.a) f.imm)
  | _ => none

/-- The majors of the RR format (part 0). -/
def parseRR0 (m : Nat) (g : Guard) (f : FRR) : Option Instr :=
  match m with
  | 0x20 => some (Instr.add g (lo6 f.d) (lo6 f.a) (lo6 f.b))
  | 0x21 => some (Instr.sub g (lo6 f.d) (lo6 f.a) (lo6 f.b))
  | 0x22 => some (Instr.mul g (lo6 f.d) (lo6 f.a) (lo6 f.b))
  | 0x23 => some (Instr.mulh g (lo6 f.d) (lo6 f.a) (lo6 f.b))
  | 0x24 => some (Instr.mulhu g (lo6 f.d) (lo6 f.a) (lo6 f.b))
  | 0x25 => some (Instr.div g (lo6 f.d) (lo6 f.a) (lo6 f.b))
  | 0x26 => some (Instr.divu g (lo6 f.d) (lo6 f.a) (lo6 f.b))
  | 0x27 => some (Instr.rem g (lo6 f.d) (lo6 f.a) (lo6 f.b))
  | 0x28 => some (Instr.remu g (lo6 f.d) (lo6 f.a) (lo6 f.b))
  | 0x29 => some (Instr.and g (lo6 f.d) (lo6 f.a) (lo6 f.b))
  | 0x2A => some (Instr.or g (lo6 f.d) (lo6 f.a) (lo6 f.b))
  | 0x2B => some (Instr.xor g (lo6 f.d) (lo6 f.a) (lo6 f.b))
  | 0x2C => some (Instr.andn g (lo6 f.d) (lo6 f.a) (lo6 f.b))
  | 0x2D => some (Instr.shl g (lo6 f.d) (lo6 f.a) (lo6 f.b))
  | 0x2E => some (Instr.shr g (lo6 f.d) (lo6 f.a) (lo6 f.b))
  | 0x2F => some (Instr.sra g (lo6 f.d) (lo6 f.a) (lo6 f.b))
  | 0x30 => some (Instr.rotl g (lo6 f.d) (lo6 f.a) (lo6 f.b))
  | 0x31 => some (Instr.min g (lo6 f.d) (lo6 f.a) (lo6 f.b))
  | 0x32 => some (Instr.max g (lo6 f.d) (lo6 f.a) (lo6 f.b))
  | 0x33 => some (Instr.minu g (lo6 f.d) (lo6 f.a) (lo6 f.b))
  | 0x34 => some (Instr.maxu g (lo6 f.d) (lo6 f.a) (lo6 f.b))
  | 0x35 => some (Instr.clz g (lo6 f.d) (lo6 f.a))
  | 0x36 => some (Instr.ctz g (lo6 f.d) (lo6 f.a))
  | 0x37 => some (Instr.popc g (lo6 f.d) (lo6 f.a))
  | 0x38 => (Ty.ofCode f.ty).map fun ty => Instr.ext g ty (lo6 f.d) (lo6 f.a)
  | 0x39 => (Cond.ofCode (f.func.truncate 5)).map fun cc => Instr.cmp g cc f.d (lo6 f.a) (lo6 f.b)
  | 0x3A => some (Instr.sel g (lo6 f.d) f.c (lo6 f.a) (lo6 f.b))
  | 0x3B => (Ty.ofCode f.ty).map fun ty => Instr.sadd g ty (lo6 f.d) (lo6 f.a) (lo6 f.b)
  | 0x3C => (Ty.ofCode f.ty).map fun ty => Instr.ssub g ty (lo6 f.d) (lo6 f.a) (lo6 f.b)
  | 0x3D => some (Instr.mad g (lo6 f.d) (lo6 f.a) (lo6 f.b) (lo6 f.c))
  | 0x3E => some (Instr.lea g (f.func.truncate 2) (lo6 f.d) (lo6 f.a) (lo6 f.b))
  | 0x50 => (Ty.ofCode f.ty).bind fun ty => (Rc.ofCode f.rm).map fun rm => Instr.fadd g ty rm (lo6 f.d) (lo6 f.a) (lo6 f.b)
  | 0x51 => (Ty.ofCode f.ty).bind fun ty => (Rc.ofCode f.rm).map fun rm => Instr.fsub g ty rm (lo6 f.d) (lo6 f.a) (lo6 f.b)
  | 0x52 => (Ty.ofCode f.ty).bind fun ty => (Rc.ofCode f.rm).map fun rm => Instr.fmul g ty rm (lo6 f.d) (lo6 f.a) (lo6 f.b)
  | _ => none

/-- The majors of the RR format (part 1). -/
def parseRR1 (m : Nat) (g : Guard) (f : FRR) : Option Instr :=
  match m with
  | 0x53 => (Ty.ofCode f.ty).bind fun ty => (Rc.ofCode f.rm).map fun rm => Instr.fdiv g ty rm (lo6 f.d) (lo6 f.a) (lo6 f.b)
  | 0x54 => (Ty.ofCode f.ty).bind fun ty => (Rc.ofCode f.rm).map fun rm => Instr.fsqrt g ty rm (lo6 f.d) (lo6 f.a)
  | 0x55 => (Ty.ofCode f.ty).bind fun ty => (Rc.ofCode f.rm).map fun rm => Instr.fma g ty rm (f.func.truncate 2) (lo6 f.d) (lo6 f.a) (lo6 f.b) (lo6 f.c)
  | 0x56 => (Ty.ofCode f.ty).map fun ty => Instr.fmin g ty (lo6 f.d) (lo6 f.a) (lo6 f.b)
  | 0x57 => (Ty.ofCode f.ty).map fun ty => Instr.fmax g ty (lo6 f.d) (lo6 f.a) (lo6 f.b)
  | 0x58 => (Ty.ofCode f.ty).map fun ty => Instr.fabs g ty (lo6 f.d) (lo6 f.a)
  | 0x59 => (Ty.ofCode f.ty).map fun ty => Instr.fneg g ty (lo6 f.d) (lo6 f.a)
  | 0x5A => (Ty.ofCode f.ty).map fun ty => Instr.fsgn g ty (lo6 f.d) (lo6 f.a) (lo6 f.b)
  | 0x5B => (Cond.ofCode (f.func.truncate 5)).bind fun cc => (Ty.ofCode f.ty).map fun ty => Instr.fcmp g cc ty f.d (lo6 f.a) (lo6 f.b)
  | 0x5C => (Ty.ofCode f.ty).bind fun ty => (Ty.ofCode (f.func.truncate 5)).bind fun u => (Rc.ofCode f.rm).map fun rm => Instr.fcvt g ty u rm (lo6 f.d) (lo6 f.a)
  | 0x5D => (Ty.ofCode f.ty).map fun ty => Instr.fclass g ty (lo6 f.d) (lo6 f.a)
  | 0x5E => (Ty.ofCode f.ty).bind fun ty => (Rc.ofCode f.rm).map fun rm => Instr.frnd g ty rm (lo6 f.d) (lo6 f.a)
  | 0x60 => some (Instr.plog g (f.func.truncate 4) f.d f.a f.b)
  | 0x61 => some (Instr.pcnt g (lo6 f.d) f.a)
  | 0x62 => some (Instr.pfirst g (lo6 f.d) f.a)
  | 0x63 => some (Instr.prange g f.d (lo6 f.a) (lo6 f.b))
  | 0x64 => some (Instr.psplat g f.d (lo6 f.a))
  | _ => none

/-- The majors of the RI format. -/
def parseRI (m : Nat) (g : Guard) (f : FRI) : Option Instr :=
  match m with
  | 0x40 => some (Instr.addi g (lo6 f.d) f.a f.imm)
  | 0x41 => some (Instr.andi g (lo6 f.d) f.a f.imm)
  | 0x42 => some (Instr.ori g (lo6 f.d) f.a f.imm)
  | 0x43 => some (Instr.xori g (lo6 f.d) f.a f.imm)
  | 0x47 => some (Instr.muli g (lo6 f.d) f.a f.imm)
  | 0x44 => some (Instr.shli g (lo6 f.d) f.a (f.imm.truncate 6))
  | 0x45 => some (Instr.shri g (lo6 f.d) f.a (f.imm.truncate 6))
  | 0x46 => some (Instr.srai g (lo6 f.d) f.a (f.imm.truncate 6))
  | 0x48 => some (Instr.movi g (lo6 f.d) f.imm)
  | 0x49 => some (Instr.movhi g (lo6 f.d) f.a f.imm)
  | 0x4A => (CondI.ofCode f.f).map fun cc => Instr.cmpi g cc f.d f.a f.imm
  | 0x4B => (CondI.ofCode f.f).map fun cc => Instr.cmpiu g cc f.d f.a f.imm
  | 0x4C => some (Instr.adpc g (lo6 f.d) f.imm)
  | _ => none

/-- The majors of the B format. -/
def parseB (m : Nat) (g : Guard) (f : FB) : Option Instr :=
  match m with
  | 0x68 => some (Instr.br g f.off)
  | 0x69 => some (Instr.call g f.d f.off)
  | 0x6A => some (Instr.jmp g f.a f.off)
  | 0x6B => some (Instr.callr g f.d f.a f.off)
  | 0x6C => some (Instr.ret g f.a)
  | _ => none

/-- The majors of the L format. -/
def parseL (m : Nat) (g : Guard) (f : FL) : Option Instr :=
  match m with
  | 0x70 => some (Instr.loop g f.lc f.a f.len f.imm)
  | 0x71 => some (Instr.lbrk g f.lc)
  | 0x72 => some (Instr.lcget g f.a f.lc)
  | 0x73 => some (Instr.lcset g f.lc f.a)
  | _ => none

/-- The majors of the M format. -/
def parseM (m : Nat) (g : Guard) (f : FM) : Option Instr :=
  match m with
  | 0x78 => some (Instr.qld g (Ord.ofCode f.ord) (Scope.ofCode f.scope) (f.t.truncate 4) (f.mem))
  | 0x79 => some (Instr.qst g (Ord.ofCode f.ord) (Scope.ofCode f.scope) (f.t.truncate 4) (f.mem))
  | 0x80 => (Ty.ofCode f.ty).bind fun ty => (Fe.ofCode f.fe).map fun fe => Instr.ld g ty fe (Ord.ofCode f.ord) (Scope.ofCode f.scope) (lo6 f.t) (f.mem)
  | 0x81 => (Ty.ofCode f.ty).bind fun ty => (Fe.ofCode f.fe).map fun fe => Instr.st g ty fe (Ord.ofCode f.ord) (Scope.ofCode f.scope) (lo6 f.t) (f.mem)
  | 0x82 => some (Instr.ld2 g (Ord.ofCode f.ord) (Scope.ofCode f.scope) (lo6 f.t) (f.mem))
  | 0x83 => some (Instr.st2 g (Ord.ofCode f.ord) (Scope.ofCode f.scope) (lo6 f.t) (f.mem))
  | 0x84 => some (Instr.vld g (Ord.ofCode f.ord) (Scope.ofCode f.scope) (f.ty.truncate 4) (f.t.truncate 4) (f.mem))
  | 0x85 => some (Instr.vst g (Ord.ofCode f.ord) (Scope.ofCode f.scope) (f.ty.truncate 4) (f.t.truncate 4) (f.mem))
  | 0x86 => some (Instr.vgath g (f.ty.truncate 4) (f.t.truncate 4) (f.mem))
  | 0x87 => some (Instr.vscat g (f.ty.truncate 4) (f.t.truncate 4) (f.mem))
  | 0x88 => (Ty.ofCode f.ty).map fun ty => Instr.cas g ty (Ord.ofCode f.ord) (Scope.ofCode f.scope) (lo6 f.t) (f.mem)
  | 0x89 => some (Instr.cas2 g (Ord.ofCode f.ord) (Scope.ofCode f.scope) (lo6 f.t) (f.mem))
  | 0x8A => (Ty.ofCode f.ty).map fun ty => Instr.amoadd g ty (Ord.ofCode f.ord) (Scope.ofCode f.scope) (lo6 f.t) (f.mem)
  | 0x8B => (Ty.ofCode f.ty).map fun ty => Instr.amoand g ty (Ord.ofCode f.ord) (Scope.ofCode f.scope) (lo6 f.t) (f.mem)
  | 0x8C => (Ty.ofCode f.ty).map fun ty => Instr.amoor g ty (Ord.ofCode f.ord) (Scope.ofCode f.scope) (lo6 f.t) (f.mem)
  | 0x8D => (Ty.ofCode f.ty).map fun ty => Instr.amoxor g ty (Ord.ofCode f.ord) (Scope.ofCode f.scope) (lo6 f.t) (f.mem)
  | 0x8E => (Ty.ofCode f.ty).map fun ty => Instr.amomin g ty (Ord.ofCode f.ord) (Scope.ofCode f.scope) (lo6 f.t) (f.mem)
  | 0x8F => (Ty.ofCode f.ty).map fun ty => Instr.amomax g ty (Ord.ofCode f.ord) (Scope.ofCode f.scope) (lo6 f.t) (f.mem)
  | 0x90 => (Ty.ofCode f.ty).map fun ty => Instr.amominu g ty (Ord.ofCode f.ord) (Scope.ofCode f.scope) (lo6 f.t) (f.mem)
  | 0x91 => (Ty.ofCode f.ty).map fun ty => Instr.amomaxu g ty (Ord.ofCode f.ord) (Scope.ofCode f.scope) (lo6 f.t) (f.mem)
  | 0x92 => (Ty.ofCode f.ty).map fun ty => Instr.amoswap g ty (Ord.ofCode f.ord) (Scope.ofCode f.scope) (lo6 f.t) (f.mem)
  | 0x93 => some (Instr.amofadd g (Ord.ofCode f.ord) (Scope.ofCode f.scope) (lo6 f.t) (f.mem))
  | 0x94 => (Ty.ofCode f.ty).map fun ty => Instr.xadd32 g ty (Ord.ofCode f.ord) (Scope.ofCode f.scope) (lo6 f.t) (f.mem)
  | 0x95 => (Ty.ofCode f.ty).map fun ty => Instr.xadd64 g ty (Ord.ofCode f.ord) (Scope.ofCode f.scope) (lo6 f.t) (f.mem)
  | 0x96 => (Ty.ofCode f.ty).bind fun ty => (Rc.ofCode f.fe).map fun rm => Instr.xrd32 g ty rm (Ord.ofCode f.ord) (Scope.ofCode f.scope) (lo6 f.t) (f.mem)
  | 0x97 => (Ty.ofCode f.ty).bind fun ty => (Rc.ofCode f.fe).map fun rm => Instr.xrd64 g ty rm (Ord.ofCode f.ord) (Scope.ofCode f.scope) (lo6 f.t) (f.mem)
  | 0x98 => (Ty.ofCode f.ty).map fun ty => Instr.famoadd g ty (Ord.ofCode f.ord) (Scope.ofCode f.scope) (lo6 f.t) (f.mem)
  | 0x99 => (Ty.ofCode f.ty).map fun ty => Instr.famoand g ty (Ord.ofCode f.ord) (Scope.ofCode f.scope) (lo6 f.t) (f.mem)
  | 0x9A => (Ty.ofCode f.ty).map fun ty => Instr.famoor g ty (Ord.ofCode f.ord) (Scope.ofCode f.scope) (lo6 f.t) (f.mem)
  | 0x9B => (Ty.ofCode f.ty).map fun ty => Instr.famoxor g ty (Ord.ofCode f.ord) (Scope.ofCode f.scope) (lo6 f.t) (f.mem)
  | 0x9C => (Ty.ofCode f.ty).map fun ty => Instr.famomin g ty (Ord.ofCode f.ord) (Scope.ofCode f.scope) (lo6 f.t) (f.mem)
  | 0x9D => (Ty.ofCode f.ty).map fun ty => Instr.famomax g ty (Ord.ofCode f.ord) (Scope.ofCode f.scope) (lo6 f.t) (f.mem)
  | 0x9E => (Ty.ofCode f.ty).map fun ty => Instr.famoswap g ty (Ord.ofCode f.ord) (Scope.ofCode f.scope) (lo6 f.t) (f.mem)
  | 0x9F => (Ty.ofCode f.ty).map fun ty => Instr.fcas g ty (Ord.ofCode f.ord) (Scope.ofCode f.scope) (lo6 f.t) (f.mem)
  | _ => none

/-- The majors of the V format. -/
def parseV (m : Nat) (g : Guard) (f : FV) : Option Instr :=
  match m with
  | 0xA0 => (Ty.ofCode f.ty).bind fun ty => (Rc.ofCode f.rm).map fun rm => Instr.vadd g ty rm (f.func.getLsbD 0) (f.d.truncate 4) (f.a.truncate 4) f.vb
  | 0xA1 => (Ty.ofCode f.ty).bind fun ty => (Rc.ofCode f.rm).map fun rm => Instr.vsub g ty rm (f.func.getLsbD 0) (f.d.truncate 4) (f.a.truncate 4) f.vb
  | 0xA2 => (Ty.ofCode f.ty).bind fun ty => (Rc.ofCode f.rm).map fun rm => Instr.vmul g ty rm (f.d.truncate 4) (f.a.truncate 4) f.vb
  | 0xA3 => (Ty.ofCode f.ty).bind fun ty => (Rc.ofCode f.rm).map fun rm => Instr.vfma g ty rm (f.func.truncate 2) (f.d.truncate 4) (f.a.truncate 4) (f.b.truncate 4) (f.c.truncate 4)
  | 0xA4 => (Ty.ofCode f.ty).map fun ty => Instr.vmin g ty (f.d.truncate 4) (f.a.truncate 4) f.vb
  | 0xA5 => (Ty.ofCode f.ty).map fun ty => Instr.vmax g ty (f.d.truncate 4) (f.a.truncate 4) f.vb
  | 0xA6 => (Ty.ofCode f.ty).map fun ty => Instr.vabs g ty (f.d.truncate 4) (f.a.truncate 4)
  | 0xA7 => (Ty.ofCode f.ty).map fun ty => Instr.vneg g ty (f.d.truncate 4) (f.a.truncate 4)
  | 0xA8 => (Ty.ofCode f.ty).map fun ty => Instr.vand g ty (f.d.truncate 4) (f.a.truncate 4) f.vb
  | 0xA9 => (Ty.ofCode f.ty).map fun ty => Instr.vor g ty (f.d.truncate 4) (f.a.truncate 4) f.vb
  | 0xAA => (Ty.ofCode f.ty).map fun ty => Instr.vxor g ty (f.d.truncate 4) (f.a.truncate 4) f.vb
  | 0xAB => (Ty.ofCode f.ty).map fun ty => Instr.vshl g ty (f.d.truncate 4) (f.a.truncate 4) f.vb
  | 0xAC => (Ty.ofCode f.ty).map fun ty => Instr.vshr g ty (f.d.truncate 4) (f.a.truncate 4) f.vb
  | 0xAD => (Cond.ofCode (f.func.truncate 5)).bind fun cc => (Ty.ofCode f.ty).map fun ty => Instr.vcmp g cc ty f.d (f.a.truncate 4) f.vb
  | 0xAE => (Ty.ofCode f.ty).map fun ty => Instr.vsel g ty (f.d.truncate 4) f.c (f.a.truncate 4) (f.b.truncate 4)
  | 0xAF => (Ty.ofCode f.ty).bind fun ty => (Ty.ofCode f.xt).bind fun u => (Rc.ofCode f.rm).map fun rm => Instr.vcvt g ty u rm (f.d.truncate 4) (f.a.truncate 4)
  | 0xB0 => (Ty.ofCode f.ty).bind fun ty =>
      match f.func.toNat with
      | 0 => some (Instr.vdup g ty (f.d.truncate 4) (lo6 f.a))
      | 1 => some (Instr.vins g ty (f.d.truncate 4) (lo6 f.a) (lo6 f.b))
      | 2 => some (Instr.vext g ty (lo6 f.d) (f.a.truncate 4) (lo6 f.b))
      | _ => none
  | 0xB1 => (Ty.ofCode f.ty).map fun ty => Instr.vexp2 g ty (f.d.truncate 4) (f.a.truncate 4)
  | 0xB2 => (Ty.ofCode f.ty).map fun ty => Instr.vlog2 g ty (f.d.truncate 4) (f.a.truncate 4)
  | 0xB3 => (Ty.ofCode f.ty).map fun ty => Instr.vrcp g ty (f.d.truncate 4) (f.a.truncate 4)
  | 0xB4 => (Ty.ofCode f.ty).map fun ty => Instr.vrsqrt g ty (f.d.truncate 4) (f.a.truncate 4)
  | 0xB5 => some (Instr.vrotr g (f.d.truncate 4) (f.a.truncate 4) (lo6 f.b))
  | 0xB6 => some (Instr.vrotc g (f.d.truncate 4) (f.a.truncate 4) (lo6 f.b))
  | 0xB7 => some (Instr.vbcr g (f.d.truncate 4) (f.a.truncate 4) (lo6 f.b))
  | 0xB8 => some (Instr.vbcc g (f.d.truncate 4) (f.a.truncate 4) (lo6 f.b))
  | 0xB9 => (Red.ofCode f.func).bind fun op => (Ty.ofCode f.ty).bind fun ty => (Rc.ofCode f.rm).map fun rm => Instr.vredr g op ty rm (f.d.truncate 4) (f.a.truncate 4)
  | 0xBA => (Red.ofCode f.func).bind fun op => (Ty.ofCode f.ty).bind fun ty => (Rc.ofCode f.rm).map fun rm => Instr.vredc g op ty rm (f.d.truncate 4) (f.a.truncate 4)
  | 0xBB => some (Instr.vtrnr g (f.d.truncate 4) (f.a.truncate 4))
  | 0xBC => some (Instr.vtrnc g (f.d.truncate 4) (f.a.truncate 4))
  | 0xBD => (Ty.ofCode f.ty).map fun ty => Instr.vcx g (f.func.getLsbD 0) ty (f.d.truncate 4) (f.a.truncate 4) (lo6 f.b)
  | 0xBE => (Ty.ofCode f.ty).bind fun ty => (Ty.ofCode f.xt).bind fun u => (Rc.ofCode f.rm).map fun rm => Instr.vmac g ty u rm (f.func.getLsbD 0) (f.d.truncate 2) (f.a.truncate 4) (f.b.truncate 4)
  | 0xBF => (Ty.ofCode f.ty).bind fun ty => (Ty.ofCode f.xt).bind fun u => (Rc.ofCode f.rm).map fun rm => Instr.vnarr g ty u rm (f.d.truncate 4) (f.a.truncate 2)
  | _ => none

/-- The majors of the E format (part 0). -/
def parseE0 (m : Nat) (g : Guard) (f : FE) : Option Instr :=
  match m with
  | 0xC0 => some (Instr.qpush g f.q f.s (f.imm.truncate 8))
  | 0xC1 => some (Instr.qpop g f.d f.q)
  | 0xC2 => some (Instr.qpeek g f.d f.q)
  | 0xC3 => some (Instr.qstat g f.d f.q)
  | 0xC4 => some (Instr.mclaim g f.d (f.imm.extractLsb' 8 7) (f.imm.truncate 8))
  | 0xC5 => some (Instr.mtset g (f.imm.truncate 6) f.d f.s)
  | 0xC6 => some (Instr.mtget g f.d (f.imm.truncate 6) (f.imm.extractLsb' 6 1))
  | 0xC7 => some (Instr.qclr g f.q)
  | 0xD0 => some (Instr.mld g f.s f.imm)
  | 0xD1 => some (Instr.mldt g f.s f.imm)
  | 0xD2 => some (Instr.mmul g f.s f.imm)
  | 0xD3 => some (Instr.mmulZ g f.s f.imm)
  | 0xD4 => some (Instr.mmsp g f.s f.imm)
  | 0xD5 => some (Instr.mmspZ g f.s f.imm)
  | 0xD6 => some (Instr.mrel g f.s f.imm)
  | 0xD7 => some (Instr.mzero g f.s f.imm)
  | 0xD8 => some (Instr.mst g f.s f.imm)
  | 0xD9 => some (Instr.mfill g f.s f.imm)
  | 0xE0 => some (Instr.gsprobe g f.s f.imm)
  | 0xE1 => some (Instr.gsinsert g f.s f.imm)
  | 0xE2 => some (Instr.gsclear g f.s f.imm)
  | 0xE3 => some (Instr.gsgather g f.s f.imm)
  | 0xE4 => some (Instr.gsscadd g f.s f.imm)
  | 0xE5 => some (Instr.gsrules g f.s f.imm)
  | 0xE6 => some (Instr.gssegsum g f.s f.imm)
  | 0xE7 => some (Instr.gscompact g f.s f.imm)
  | 0xE8 => some (Instr.sosort g f.s f.imm)
  | 0xE9 => some (Instr.somerge g f.s f.imm)
  | 0xEA => some (Instr.sotopk g f.s f.imm)
  | 0xEB => some (Instr.sothresh g f.s f.imm)
  | 0xEC => some (Instr.sosums g f.s f.imm)
  | 0xED => some (Instr.sogather g f.s f.imm)
  | 0xF0 => some (Instr.cpcopy g f.s f.imm)
  | 0xF1 => some (Instr.cpset g f.s f.imm)
  | _ => none

/-- The majors of the E format (part 1). -/
def parseE1 (m : Nat) (g : Guard) (f : FE) : Option Instr :=
  match m with
  | 0xF2 => some (Instr.cpfe g f.s f.imm)
  | 0xF3 => some (Instr.cpstride g f.s f.imm)
  | 0xF4 => some (Instr.cpprf g f.s f.imm)
  | 0xF5 => some (Instr.cpwb g f.s f.imm)
  | 0xF6 => some (Instr.cpsig g f.s f.imm)
  | _ => none

/-- The format and the parser of a major; none for a reserved major (R144). The major alone fixes the format (R124). -/
def parse (m : Nat) (g : Guard) (b : BitVec 48) : Option Instr :=
  if (Nat.ble 0x01 m && Nat.ble m 0x13) then parseY m g (FY.dec b)
  else if (Nat.ble 0x20 m && Nat.ble m 0x3E) || (Nat.ble 0x50 m && Nat.ble m 0x52) then parseRR0 m g (FRR.dec b)
  else if (Nat.ble 0x53 m && Nat.ble m 0x5E) || (Nat.ble 0x60 m && Nat.ble m 0x64) then parseRR1 m g (FRR.dec b)
  else if (Nat.ble 0x40 m && Nat.ble m 0x4C) then parseRI m g (FRI.dec b)
  else if (Nat.ble 0x68 m && Nat.ble m 0x6C) then parseB m g (FB.dec b)
  else if (Nat.ble 0x70 m && Nat.ble m 0x73) then parseL m g (FL.dec b)
  else if (Nat.ble 0x78 m && Nat.ble m 0x79) || (Nat.ble 0x80 m && Nat.ble m 0x9F) then parseM m g (FM.dec b)
  else if (Nat.ble 0xA0 m && Nat.ble m 0xBF) then parseV m g (FV.dec b)
  else if (Nat.ble 0xC0 m && Nat.ble m 0xC7) || (Nat.ble 0xD0 m && Nat.ble m 0xD9) || (Nat.ble 0xE0 m && Nat.ble m 0xED) || (Nat.ble 0xF0 m && Nat.ble m 0xF1) then parseE0 m g (FE.dec b)
  else if (Nat.ble 0xF2 m && Nat.ble m 0xF6) then parseE1 m g (FE.dec b)
  else none

/-- A major assigned in R145-R154 (R144). -/
def majorAssigned (m : Nat) : Bool :=
  (Nat.ble 0x01 m && Nat.ble m 0x13) ||
  (Nat.ble 0x20 m && Nat.ble m 0x3E) ||
  (Nat.ble 0x40 m && Nat.ble m 0x4C) ||
  (Nat.ble 0x50 m && Nat.ble m 0x5E) ||
  (Nat.ble 0x60 m && Nat.ble m 0x64) ||
  (Nat.ble 0x68 m && Nat.ble m 0x6C) ||
  (Nat.ble 0x70 m && Nat.ble m 0x73) ||
  (Nat.ble 0x78 m && Nat.ble m 0x79) ||
  (Nat.ble 0x80 m && Nat.ble m 0xC7) ||
  (Nat.ble 0xD0 m && Nat.ble m 0xD9) ||
  (Nat.ble 0xE0 m && Nat.ble m 0xED) ||
  (Nat.ble 0xF0 m && Nat.ble m 0xF6)

/-- The word of an instruction (R124, R128-R135, R145-R154); none for an event. Fields a form does not mention are 0 (R144). -/
def encode : Instr → Option Word
  | .nop g => some (mkWord 0x01 g (FY.enc {}))
  | .trap g imm => some (mkWord 0x02 g (FY.enc { imm := imm }))
  | .brk g imm => some (mkWord 0x03 g (FY.enc { imm := imm }))
  | .tret g => some (mkWord 0x04 g (FY.enc {}))
  | .hret g => some (mkWord 0x05 g (FY.enc {}))
  | .crd g d cr => some (mkWord 0x06 g (FY.enc { d := up7 d, sel := cr.code }))
  | .cwr g cr a => some (mkWord 0x07 g (FY.enc { a := up7 a, sel := cr.code }))
  | .crset g cr a => some (mkWord 0x08 g (FY.enc { a := up7 a, sel := cr.code }))
  | .crclr g cr a => some (mkWord 0x09 g (FY.enc { a := up7 a, sel := cr.code }))
  | .fence g ord sc => some (mkWord 0x0A g (FY.enc { ord := ord.code, scope := sc.code }))
  | .time g d => some (mkWord 0x0B g (FY.enc { d := up7 d }))
  | .cid g d => some (mkWord 0x0C g (FY.enc { d := up7 d }))
  | .dhops g d a b => some (mkWord 0x0D g (FY.enc { d := up7 d, a := up7 a, sel := b.zeroExtend 12 }))
  | .tnext g d pa => some (mkWord 0x0E g (FY.enc { d := up7 d, a := pa }))
  | .tdone g => some (mkWord 0x0F g (FY.enc {}))
  | .tspawn g d a => some (mkWord 0x10 g (FY.enc { d := up7 d, a := up7 a }))
  | .tyield g => some (mkWord 0x11 g (FY.enc {}))
  | .barv g a imm => some (mkWord 0x12 g (FY.enc { a := up7 a, imm := imm }))
  | .barw g a imm => some (mkWord 0x13 g (FY.enc { a := up7 a, imm := imm }))
  | .add g d a b => some (mkWord 0x20 g (FRR.enc { d := up7 d, a := up7 a, b := up7 b }))
  | .sub g d a b => some (mkWord 0x21 g (FRR.enc { d := up7 d, a := up7 a, b := up7 b }))
  | .mul g d a b => some (mkWord 0x22 g (FRR.enc { d := up7 d, a := up7 a, b := up7 b }))
  | .mulh g d a b => some (mkWord 0x23 g (FRR.enc { d := up7 d, a := up7 a, b := up7 b }))
  | .mulhu g d a b => some (mkWord 0x24 g (FRR.enc { d := up7 d, a := up7 a, b := up7 b }))
  | .div g d a b => some (mkWord 0x25 g (FRR.enc { d := up7 d, a := up7 a, b := up7 b }))
  | .divu g d a b => some (mkWord 0x26 g (FRR.enc { d := up7 d, a := up7 a, b := up7 b }))
  | .rem g d a b => some (mkWord 0x27 g (FRR.enc { d := up7 d, a := up7 a, b := up7 b }))
  | .remu g d a b => some (mkWord 0x28 g (FRR.enc { d := up7 d, a := up7 a, b := up7 b }))
  | .and g d a b => some (mkWord 0x29 g (FRR.enc { d := up7 d, a := up7 a, b := up7 b }))
  | .or g d a b => some (mkWord 0x2A g (FRR.enc { d := up7 d, a := up7 a, b := up7 b }))
  | .xor g d a b => some (mkWord 0x2B g (FRR.enc { d := up7 d, a := up7 a, b := up7 b }))
  | .andn g d a b => some (mkWord 0x2C g (FRR.enc { d := up7 d, a := up7 a, b := up7 b }))
  | .shl g d a b => some (mkWord 0x2D g (FRR.enc { d := up7 d, a := up7 a, b := up7 b }))
  | .shr g d a b => some (mkWord 0x2E g (FRR.enc { d := up7 d, a := up7 a, b := up7 b }))
  | .sra g d a b => some (mkWord 0x2F g (FRR.enc { d := up7 d, a := up7 a, b := up7 b }))
  | .rotl g d a b => some (mkWord 0x30 g (FRR.enc { d := up7 d, a := up7 a, b := up7 b }))
  | .min g d a b => some (mkWord 0x31 g (FRR.enc { d := up7 d, a := up7 a, b := up7 b }))
  | .max g d a b => some (mkWord 0x32 g (FRR.enc { d := up7 d, a := up7 a, b := up7 b }))
  | .minu g d a b => some (mkWord 0x33 g (FRR.enc { d := up7 d, a := up7 a, b := up7 b }))
  | .maxu g d a b => some (mkWord 0x34 g (FRR.enc { d := up7 d, a := up7 a, b := up7 b }))
  | .clz g d a => some (mkWord 0x35 g (FRR.enc { d := up7 d, a := up7 a }))
  | .ctz g d a => some (mkWord 0x36 g (FRR.enc { d := up7 d, a := up7 a }))
  | .popc g d a => some (mkWord 0x37 g (FRR.enc { d := up7 d, a := up7 a }))
  | .ext g ty d a => some (mkWord 0x38 g (FRR.enc { d := up7 d, a := up7 a, ty := ty.code }))
  | .cmp g cc d a b => some (mkWord 0x39 g (FRR.enc { d := d, a := up7 a, b := up7 b, func := cc.code.zeroExtend 8 }))
  | .sel g d c a b => some (mkWord 0x3A g (FRR.enc { d := up7 d, a := up7 a, b := up7 b, c := c }))
  | .sadd g ty d a b => some (mkWord 0x3B g (FRR.enc { d := up7 d, a := up7 a, b := up7 b, ty := ty.code }))
  | .ssub g ty d a b => some (mkWord 0x3C g (FRR.enc { d := up7 d, a := up7 a, b := up7 b, ty := ty.code }))
  | .mad g d a b c => some (mkWord 0x3D g (FRR.enc { d := up7 d, a := up7 a, b := up7 b, c := up7 c }))
  | .lea g k d a b => some (mkWord 0x3E g (FRR.enc { d := up7 d, a := up7 a, b := up7 b, func := k.zeroExtend 8 }))
  | .fadd g ty rm d a b => some (mkWord 0x50 g (FRR.enc { d := up7 d, a := up7 a, b := up7 b, ty := ty.code, rm := rm.code }))
  | .fsub g ty rm d a b => some (mkWord 0x51 g (FRR.enc { d := up7 d, a := up7 a, b := up7 b, ty := ty.code, rm := rm.code }))
  | .fmul g ty rm d a b => some (mkWord 0x52 g (FRR.enc { d := up7 d, a := up7 a, b := up7 b, ty := ty.code, rm := rm.code }))
  | .fdiv g ty rm d a b => some (mkWord 0x53 g (FRR.enc { d := up7 d, a := up7 a, b := up7 b, ty := ty.code, rm := rm.code }))
  | .fsqrt g ty rm d a => some (mkWord 0x54 g (FRR.enc { d := up7 d, a := up7 a, ty := ty.code, rm := rm.code }))
  | .fma g ty rm neg d a b c => some (mkWord 0x55 g (FRR.enc { d := up7 d, a := up7 a, b := up7 b, c := up7 c, func := neg.zeroExtend 8, ty := ty.code, rm := rm.code }))
  | .fmin g ty d a b => some (mkWord 0x56 g (FRR.enc { d := up7 d, a := up7 a, b := up7 b, ty := ty.code }))
  | .fmax g ty d a b => some (mkWord 0x57 g (FRR.enc { d := up7 d, a := up7 a, b := up7 b, ty := ty.code }))
  | .fabs g ty d a => some (mkWord 0x58 g (FRR.enc { d := up7 d, a := up7 a, ty := ty.code }))
  | .fneg g ty d a => some (mkWord 0x59 g (FRR.enc { d := up7 d, a := up7 a, ty := ty.code }))
  | .fsgn g ty d a b => some (mkWord 0x5A g (FRR.enc { d := up7 d, a := up7 a, b := up7 b, ty := ty.code }))
  | .fcmp g cc ty d a b => some (mkWord 0x5B g (FRR.enc { d := d, a := up7 a, b := up7 b, func := cc.code.zeroExtend 8, ty := ty.code }))
  | .fcvt g ty u rm d a => some (mkWord 0x5C g (FRR.enc { d := up7 d, a := up7 a, func := u.code.zeroExtend 8, ty := ty.code, rm := rm.code }))
  | .fclass g ty d a => some (mkWord 0x5D g (FRR.enc { d := up7 d, a := up7 a, ty := ty.code }))
  | .frnd g ty rm d a => some (mkWord 0x5E g (FRR.enc { d := up7 d, a := up7 a, ty := ty.code, rm := rm.code }))
  | .plog g tt d a b => some (mkWord 0x60 g (FRR.enc { d := d, a := a, b := b, func := tt.zeroExtend 8 }))
  | .pcnt g d a => some (mkWord 0x61 g (FRR.enc { d := up7 d, a := a }))
  | .pfirst g d a => some (mkWord 0x62 g (FRR.enc { d := up7 d, a := a }))
  | .prange g d a b => some (mkWord 0x63 g (FRR.enc { d := d, a := up7 a, b := up7 b }))
  | .psplat g d a => some (mkWord 0x64 g (FRR.enc { d := d, a := up7 a }))
  | .addi g d a imm => some (mkWord 0x40 g (FRI.enc { d := up7 d, a := a, imm := imm }))
  | .andi g d a imm => some (mkWord 0x41 g (FRI.enc { d := up7 d, a := a, imm := imm }))
  | .ori g d a imm => some (mkWord 0x42 g (FRI.enc { d := up7 d, a := a, imm := imm }))
  | .xori g d a imm => some (mkWord 0x43 g (FRI.enc { d := up7 d, a := a, imm := imm }))
  | .muli g d a imm => some (mkWord 0x47 g (FRI.enc { d := up7 d, a := a, imm := imm }))
  | .shli g d a k => some (mkWord 0x44 g (FRI.enc { d := up7 d, a := a, imm := k.zeroExtend 32 }))
  | .shri g d a k => some (mkWord 0x45 g (FRI.enc { d := up7 d, a := a, imm := k.zeroExtend 32 }))
  | .srai g d a k => some (mkWord 0x46 g (FRI.enc { d := up7 d, a := a, imm := k.zeroExtend 32 }))
  | .movi g d imm => some (mkWord 0x48 g (FRI.enc { d := up7 d, imm := imm }))
  | .movhi g d a imm => some (mkWord 0x49 g (FRI.enc { d := up7 d, a := a, imm := imm }))
  | .cmpi g cc d a imm => some (mkWord 0x4A g (FRI.enc { d := d, a := a, f := cc.code, imm := imm }))
  | .cmpiu g cc d a imm => some (mkWord 0x4B g (FRI.enc { d := d, a := a, f := cc.code, imm := imm }))
  | .adpc g d imm => some (mkWord 0x4C g (FRI.enc { d := up7 d, imm := imm }))
  | .br g off => some (mkWord 0x68 g (FB.enc { off := off }))
  | .call g d off => some (mkWord 0x69 g (FB.enc { d := d, off := off }))
  | .jmp g a off => some (mkWord 0x6A g (FB.enc { a := a, off := off }))
  | .callr g d a off => some (mkWord 0x6B g (FB.enc { d := d, a := a, off := off }))
  | .ret g a => some (mkWord 0x6C g (FB.enc { a := a }))
  | .loop g n a len imm => some (mkWord 0x70 g (FL.enc { lc := n, a := a, len := len, imm := imm }))
  | .lbrk g n => some (mkWord 0x71 g (FL.enc { lc := n }))
  | .lcget g a n => some (mkWord 0x72 g (FL.enc { lc := n, a := a }))
  | .lcset g n a => some (mkWord 0x73 g (FL.enc { lc := n, a := a }))
  | .qld g ord sc t m => some (mkWord 0x78 g (FM.enc { t := t.zeroExtend 7, sp := m.sp.code, buf := m.buf, idx := m.idx, sc := m.sc, disp := m.disp, ord := ord.code, scope := sc.code }))
  | .qst g ord sc t m => some (mkWord 0x79 g (FM.enc { t := t.zeroExtend 7, sp := m.sp.code, buf := m.buf, idx := m.idx, sc := m.sc, disp := m.disp, ord := ord.code, scope := sc.code }))
  | .ld g ty fe ord sc t m => some (mkWord 0x80 g (FM.enc { t := up7 t, ty := ty.code, fe := fe.code, sp := m.sp.code, buf := m.buf, idx := m.idx, sc := m.sc, disp := m.disp, ord := ord.code, scope := sc.code }))
  | .st g ty fe ord sc t m => some (mkWord 0x81 g (FM.enc { t := up7 t, ty := ty.code, fe := fe.code, sp := m.sp.code, buf := m.buf, idx := m.idx, sc := m.sc, disp := m.disp, ord := ord.code, scope := sc.code }))
  | .ld2 g ord sc t m => some (mkWord 0x82 g (FM.enc { t := up7 t, sp := m.sp.code, buf := m.buf, idx := m.idx, sc := m.sc, disp := m.disp, ord := ord.code, scope := sc.code }))
  | .st2 g ord sc t m => some (mkWord 0x83 g (FM.enc { t := up7 t, sp := m.sp.code, buf := m.buf, idx := m.idx, sc := m.sc, disp := m.disp, ord := ord.code, scope := sc.code }))
  | .vld g ord sc q t m => some (mkWord 0x84 g (FM.enc { t := t.zeroExtend 7, ty := q.zeroExtend 5, sp := m.sp.code, buf := m.buf, idx := m.idx, sc := m.sc, disp := m.disp, ord := ord.code, scope := sc.code }))
  | .vst g ord sc q t m => some (mkWord 0x85 g (FM.enc { t := t.zeroExtend 7, ty := q.zeroExtend 5, sp := m.sp.code, buf := m.buf, idx := m.idx, sc := m.sc, disp := m.disp, ord := ord.code, scope := sc.code }))
  | .vgath g q t m => some (mkWord 0x86 g (FM.enc { t := t.zeroExtend 7, ty := q.zeroExtend 5, sp := m.sp.code, buf := m.buf, idx := m.idx, sc := m.sc, disp := m.disp }))
  | .vscat g q t m => some (mkWord 0x87 g (FM.enc { t := t.zeroExtend 7, ty := q.zeroExtend 5, sp := m.sp.code, buf := m.buf, idx := m.idx, sc := m.sc, disp := m.disp }))
  | .cas g ty ord sc t m => some (mkWord 0x88 g (FM.enc { t := up7 t, ty := ty.code, sp := m.sp.code, buf := m.buf, idx := m.idx, sc := m.sc, disp := m.disp, ord := ord.code, scope := sc.code }))
  | .cas2 g ord sc t m => some (mkWord 0x89 g (FM.enc { t := up7 t, sp := m.sp.code, buf := m.buf, idx := m.idx, sc := m.sc, disp := m.disp, ord := ord.code, scope := sc.code }))
  | .amoadd g ty ord sc t m => some (mkWord 0x8A g (FM.enc { t := up7 t, ty := ty.code, sp := m.sp.code, buf := m.buf, idx := m.idx, sc := m.sc, disp := m.disp, ord := ord.code, scope := sc.code }))
  | .amoand g ty ord sc t m => some (mkWord 0x8B g (FM.enc { t := up7 t, ty := ty.code, sp := m.sp.code, buf := m.buf, idx := m.idx, sc := m.sc, disp := m.disp, ord := ord.code, scope := sc.code }))
  | .amoor g ty ord sc t m => some (mkWord 0x8C g (FM.enc { t := up7 t, ty := ty.code, sp := m.sp.code, buf := m.buf, idx := m.idx, sc := m.sc, disp := m.disp, ord := ord.code, scope := sc.code }))
  | .amoxor g ty ord sc t m => some (mkWord 0x8D g (FM.enc { t := up7 t, ty := ty.code, sp := m.sp.code, buf := m.buf, idx := m.idx, sc := m.sc, disp := m.disp, ord := ord.code, scope := sc.code }))
  | .amomin g ty ord sc t m => some (mkWord 0x8E g (FM.enc { t := up7 t, ty := ty.code, sp := m.sp.code, buf := m.buf, idx := m.idx, sc := m.sc, disp := m.disp, ord := ord.code, scope := sc.code }))
  | .amomax g ty ord sc t m => some (mkWord 0x8F g (FM.enc { t := up7 t, ty := ty.code, sp := m.sp.code, buf := m.buf, idx := m.idx, sc := m.sc, disp := m.disp, ord := ord.code, scope := sc.code }))
  | .amominu g ty ord sc t m => some (mkWord 0x90 g (FM.enc { t := up7 t, ty := ty.code, sp := m.sp.code, buf := m.buf, idx := m.idx, sc := m.sc, disp := m.disp, ord := ord.code, scope := sc.code }))
  | .amomaxu g ty ord sc t m => some (mkWord 0x91 g (FM.enc { t := up7 t, ty := ty.code, sp := m.sp.code, buf := m.buf, idx := m.idx, sc := m.sc, disp := m.disp, ord := ord.code, scope := sc.code }))
  | .amoswap g ty ord sc t m => some (mkWord 0x92 g (FM.enc { t := up7 t, ty := ty.code, sp := m.sp.code, buf := m.buf, idx := m.idx, sc := m.sc, disp := m.disp, ord := ord.code, scope := sc.code }))
  | .amofadd g ord sc t m => some (mkWord 0x93 g (FM.enc { t := up7 t, ty := Ty.f32.code, sp := m.sp.code, buf := m.buf, idx := m.idx, sc := m.sc, disp := m.disp, ord := ord.code, scope := sc.code }))
  | .xadd32 g ty ord sc t m => some (mkWord 0x94 g (FM.enc { t := up7 t, ty := ty.code, sp := m.sp.code, buf := m.buf, idx := m.idx, sc := m.sc, disp := m.disp, ord := ord.code, scope := sc.code }))
  | .xadd64 g ty ord sc t m => some (mkWord 0x95 g (FM.enc { t := up7 t, ty := ty.code, sp := m.sp.code, buf := m.buf, idx := m.idx, sc := m.sc, disp := m.disp, ord := ord.code, scope := sc.code }))
  | .xrd32 g ty rm ord sc t m => some (mkWord 0x96 g (FM.enc { t := up7 t, ty := ty.code, fe := rm.code, sp := m.sp.code, buf := m.buf, idx := m.idx, sc := m.sc, disp := m.disp, ord := ord.code, scope := sc.code }))
  | .xrd64 g ty rm ord sc t m => some (mkWord 0x97 g (FM.enc { t := up7 t, ty := ty.code, fe := rm.code, sp := m.sp.code, buf := m.buf, idx := m.idx, sc := m.sc, disp := m.disp, ord := ord.code, scope := sc.code }))
  | .famoadd g ty ord sc t m => some (mkWord 0x98 g (FM.enc { t := up7 t, ty := ty.code, sp := m.sp.code, buf := m.buf, idx := m.idx, sc := m.sc, disp := m.disp, ord := ord.code, scope := sc.code }))
  | .famoand g ty ord sc t m => some (mkWord 0x99 g (FM.enc { t := up7 t, ty := ty.code, sp := m.sp.code, buf := m.buf, idx := m.idx, sc := m.sc, disp := m.disp, ord := ord.code, scope := sc.code }))
  | .famoor g ty ord sc t m => some (mkWord 0x9A g (FM.enc { t := up7 t, ty := ty.code, sp := m.sp.code, buf := m.buf, idx := m.idx, sc := m.sc, disp := m.disp, ord := ord.code, scope := sc.code }))
  | .famoxor g ty ord sc t m => some (mkWord 0x9B g (FM.enc { t := up7 t, ty := ty.code, sp := m.sp.code, buf := m.buf, idx := m.idx, sc := m.sc, disp := m.disp, ord := ord.code, scope := sc.code }))
  | .famomin g ty ord sc t m => some (mkWord 0x9C g (FM.enc { t := up7 t, ty := ty.code, sp := m.sp.code, buf := m.buf, idx := m.idx, sc := m.sc, disp := m.disp, ord := ord.code, scope := sc.code }))
  | .famomax g ty ord sc t m => some (mkWord 0x9D g (FM.enc { t := up7 t, ty := ty.code, sp := m.sp.code, buf := m.buf, idx := m.idx, sc := m.sc, disp := m.disp, ord := ord.code, scope := sc.code }))
  | .famoswap g ty ord sc t m => some (mkWord 0x9E g (FM.enc { t := up7 t, ty := ty.code, sp := m.sp.code, buf := m.buf, idx := m.idx, sc := m.sc, disp := m.disp, ord := ord.code, scope := sc.code }))
  | .fcas g ty ord sc t m => some (mkWord 0x9F g (FM.enc { t := up7 t, ty := ty.code, sp := m.sp.code, buf := m.buf, idx := m.idx, sc := m.sc, disp := m.disp, ord := ord.code, scope := sc.code }))
  | .vadd g ty rm sat d a b => some (mkWord 0xA0 g (FV.enc { d := d.zeroExtend 7, a := a.zeroExtend 7, b := b.num, func := b.flag ||| bit6 sat, ty := ty.code, rm := rm.code }))
  | .vsub g ty rm sat d a b => some (mkWord 0xA1 g (FV.enc { d := d.zeroExtend 7, a := a.zeroExtend 7, b := b.num, func := b.flag ||| bit6 sat, ty := ty.code, rm := rm.code }))
  | .vmul g ty rm d a b => some (mkWord 0xA2 g (FV.enc { d := d.zeroExtend 7, a := a.zeroExtend 7, b := b.num, func := b.flag, ty := ty.code, rm := rm.code }))
  | .vfma g ty rm neg d a b c => some (mkWord 0xA3 g (FV.enc { d := d.zeroExtend 7, a := a.zeroExtend 7, b := b.zeroExtend 7, c := c.zeroExtend 7, func := neg.zeroExtend 6, ty := ty.code, rm := rm.code }))
  | .vmin g ty d a b => some (mkWord 0xA4 g (FV.enc { d := d.zeroExtend 7, a := a.zeroExtend 7, b := b.num, func := b.flag, ty := ty.code }))
  | .vmax g ty d a b => some (mkWord 0xA5 g (FV.enc { d := d.zeroExtend 7, a := a.zeroExtend 7, b := b.num, func := b.flag, ty := ty.code }))
  | .vabs g ty d a => some (mkWord 0xA6 g (FV.enc { d := d.zeroExtend 7, a := a.zeroExtend 7, ty := ty.code }))
  | .vneg g ty d a => some (mkWord 0xA7 g (FV.enc { d := d.zeroExtend 7, a := a.zeroExtend 7, ty := ty.code }))
  | .vand g ty d a b => some (mkWord 0xA8 g (FV.enc { d := d.zeroExtend 7, a := a.zeroExtend 7, b := b.num, func := b.flag, ty := ty.code }))
  | .vor g ty d a b => some (mkWord 0xA9 g (FV.enc { d := d.zeroExtend 7, a := a.zeroExtend 7, b := b.num, func := b.flag, ty := ty.code }))
  | .vxor g ty d a b => some (mkWord 0xAA g (FV.enc { d := d.zeroExtend 7, a := a.zeroExtend 7, b := b.num, func := b.flag, ty := ty.code }))
  | .vshl g ty d a b => some (mkWord 0xAB g (FV.enc { d := d.zeroExtend 7, a := a.zeroExtend 7, b := b.num, func := b.flag, ty := ty.code }))
  | .vshr g ty d a b => some (mkWord 0xAC g (FV.enc { d := d.zeroExtend 7, a := a.zeroExtend 7, b := b.num, func := b.flag, ty := ty.code }))
  | .vcmp g cc ty d a b => some (mkWord 0xAD g (FV.enc { d := d, a := a.zeroExtend 7, b := b.num, func := b.flag ||| cc.code.zeroExtend 6, ty := ty.code }))
  | .vsel g ty d c a b => some (mkWord 0xAE g (FV.enc { d := d.zeroExtend 7, a := a.zeroExtend 7, b := b.zeroExtend 7, c := c, ty := ty.code }))
  | .vcvt g ty u rm d a => some (mkWord 0xAF g (FV.enc { d := d.zeroExtend 7, a := a.zeroExtend 7, ty := ty.code, xt := u.code, rm := rm.code }))
  | .vdup g ty d a => some (mkWord 0xB0 g (FV.enc { d := d.zeroExtend 7, a := up7 a, ty := ty.code }))
  | .vins g ty d a b => some (mkWord 0xB0 g (FV.enc { d := d.zeroExtend 7, a := up7 a, b := up7 b, func := 1#6, ty := ty.code }))
  | .vext g ty d a b => some (mkWord 0xB0 g (FV.enc { d := up7 d, a := a.zeroExtend 7, b := up7 b, func := 2#6, ty := ty.code }))
  | .vexp2 g ty d a => some (mkWord 0xB1 g (FV.enc { d := d.zeroExtend 7, a := a.zeroExtend 7, ty := ty.code }))
  | .vlog2 g ty d a => some (mkWord 0xB2 g (FV.enc { d := d.zeroExtend 7, a := a.zeroExtend 7, ty := ty.code }))
  | .vrcp g ty d a => some (mkWord 0xB3 g (FV.enc { d := d.zeroExtend 7, a := a.zeroExtend 7, ty := ty.code }))
  | .vrsqrt g ty d a => some (mkWord 0xB4 g (FV.enc { d := d.zeroExtend 7, a := a.zeroExtend 7, ty := ty.code }))
  | .vrotr g d a b => some (mkWord 0xB5 g (FV.enc { d := d.zeroExtend 7, a := a.zeroExtend 7, b := up7 b }))
  | .vrotc g d a b => some (mkWord 0xB6 g (FV.enc { d := d.zeroExtend 7, a := a.zeroExtend 7, b := up7 b }))
  | .vbcr g d a b => some (mkWord 0xB7 g (FV.enc { d := d.zeroExtend 7, a := a.zeroExtend 7, b := up7 b }))
  | .vbcc g d a b => some (mkWord 0xB8 g (FV.enc { d := d.zeroExtend 7, a := a.zeroExtend 7, b := up7 b }))
  | .vredr g op ty rm d a => some (mkWord 0xB9 g (FV.enc { d := d.zeroExtend 7, a := a.zeroExtend 7, func := op.code, ty := ty.code, rm := rm.code }))
  | .vredc g op ty rm d a => some (mkWord 0xBA g (FV.enc { d := d.zeroExtend 7, a := a.zeroExtend 7, func := op.code, ty := ty.code, rm := rm.code }))
  | .vtrnr g d a => some (mkWord 0xBB g (FV.enc { d := d.zeroExtend 7, a := a.zeroExtend 7 }))
  | .vtrnc g d a => some (mkWord 0xBC g (FV.enc { d := d.zeroExtend 7, a := a.zeroExtend 7 }))
  | .vcx g dn ty d a b => some (mkWord 0xBD g (FV.enc { d := d.zeroExtend 7, a := a.zeroExtend 7, b := up7 b, func := bit6 dn, ty := ty.code }))
  | .vmac g ty u rm z d a b => some (mkWord 0xBE g (FV.enc { d := d.zeroExtend 7, a := a.zeroExtend 7, b := b.zeroExtend 7, func := bit6 z, ty := ty.code, xt := u.code, rm := rm.code }))
  | .vnarr g ty u rm d a => some (mkWord 0xBF g (FV.enc { d := d.zeroExtend 7, a := a.zeroExtend 7, ty := ty.code, xt := u.code, rm := rm.code }))
  | .qpush g q sr code => some (mkWord 0xC0 g (FE.enc { q := q, s := sr, imm := code.zeroExtend 32 }))
  | .qpop g d q => some (mkWord 0xC1 g (FE.enc { q := q, d := d }))
  | .qpeek g d q => some (mkWord 0xC2 g (FE.enc { q := q, d := d }))
  | .qstat g d q => some (mkWord 0xC3 g (FE.enc { q := q, d := d }))
  | .mclaim g d pd n => some (mkWord 0xC4 g (FE.enc { d := d, imm := (pd ++ n).zeroExtend 32 }))
  | .mtset g t d sr => some (mkWord 0xC5 g (FE.enc { d := d, s := sr, imm := t.zeroExtend 32 }))
  | .mtget g d t hf => some (mkWord 0xC6 g (FE.enc { d := d, imm := (hf ++ t).zeroExtend 32 }))
  | .qclr g q => some (mkWord 0xC7 g (FE.enc { q := q }))
  | .mld g sr imm => some (mkWord 0xD0 g (FE.enc { s := sr, imm := imm }))
  | .mldt g sr imm => some (mkWord 0xD1 g (FE.enc { s := sr, imm := imm }))
  | .mmul g sr imm => some (mkWord 0xD2 g (FE.enc { s := sr, imm := imm }))
  | .mmulZ g sr imm => some (mkWord 0xD3 g (FE.enc { s := sr, imm := imm }))
  | .mmsp g sr imm => some (mkWord 0xD4 g (FE.enc { s := sr, imm := imm }))
  | .mmspZ g sr imm => some (mkWord 0xD5 g (FE.enc { s := sr, imm := imm }))
  | .mrel g sr imm => some (mkWord 0xD6 g (FE.enc { s := sr, imm := imm }))
  | .mzero g sr imm => some (mkWord 0xD7 g (FE.enc { s := sr, imm := imm }))
  | .mst g sr imm => some (mkWord 0xD8 g (FE.enc { s := sr, imm := imm }))
  | .mfill g sr imm => some (mkWord 0xD9 g (FE.enc { s := sr, imm := imm }))
  | .gsprobe g sr imm => some (mkWord 0xE0 g (FE.enc { s := sr, imm := imm }))
  | .gsinsert g sr imm => some (mkWord 0xE1 g (FE.enc { s := sr, imm := imm }))
  | .gsclear g sr imm => some (mkWord 0xE2 g (FE.enc { s := sr, imm := imm }))
  | .gsgather g sr imm => some (mkWord 0xE3 g (FE.enc { s := sr, imm := imm }))
  | .gsscadd g sr imm => some (mkWord 0xE4 g (FE.enc { s := sr, imm := imm }))
  | .gsrules g sr imm => some (mkWord 0xE5 g (FE.enc { s := sr, imm := imm }))
  | .gssegsum g sr imm => some (mkWord 0xE6 g (FE.enc { s := sr, imm := imm }))
  | .gscompact g sr imm => some (mkWord 0xE7 g (FE.enc { s := sr, imm := imm }))
  | .sosort g sr imm => some (mkWord 0xE8 g (FE.enc { s := sr, imm := imm }))
  | .somerge g sr imm => some (mkWord 0xE9 g (FE.enc { s := sr, imm := imm }))
  | .sotopk g sr imm => some (mkWord 0xEA g (FE.enc { s := sr, imm := imm }))
  | .sothresh g sr imm => some (mkWord 0xEB g (FE.enc { s := sr, imm := imm }))
  | .sosums g sr imm => some (mkWord 0xEC g (FE.enc { s := sr, imm := imm }))
  | .sogather g sr imm => some (mkWord 0xED g (FE.enc { s := sr, imm := imm }))
  | .cpcopy g sr imm => some (mkWord 0xF0 g (FE.enc { s := sr, imm := imm }))
  | .cpset g sr imm => some (mkWord 0xF1 g (FE.enc { s := sr, imm := imm }))
  | .cpfe g sr imm => some (mkWord 0xF2 g (FE.enc { s := sr, imm := imm }))
  | .cpstride g sr imm => some (mkWord 0xF3 g (FE.enc { s := sr, imm := imm }))
  | .cpprf g sr imm => some (mkWord 0xF4 g (FE.enc { s := sr, imm := imm }))
  | .cpwb g sr imm => some (mkWord 0xF5 g (FE.enc { s := sr, imm := imm }))
  | .cpsig g sr imm => some (mkWord 0xF6 g (FE.enc { s := sr, imm := imm }))
  | .timeCompare _ _ => none
  | .feRetryAttempt _ _ => none
  | .wakeNotice _ => none
  | .forwardedAtomicFill _ => none
  | .pushAcceptance _ _ => none
  | .popDelivery _ _ => none
  | .packetDeparture _ => none
  | .handlerStart _ => none
  | .mldCommand _ => none
  | .mldtCommand _ => none
  | .mmulCommand _ => none
  | .mmulZCommand _ => none
  | .mmspCommand _ => none
  | .mmspZCommand _ => none
  | .mrelCommand _ => none
  | .mzeroCommand _ => none
  | .mstCommand _ => none
  | .mfillCommand _ => none
  | .leaseGrant _ _ => none
  | .gsprobeCommand _ => none
  | .gsinsertCommand _ => none
  | .gsclearCommand _ => none
  | .gsgatherCommand _ => none
  | .gsscaddCommand _ => none
  | .gsrulesCommand _ => none
  | .gssegsumCommand _ => none
  | .gscompactCommand _ => none
  | .sosortCommand _ => none
  | .somergeCommand _ => none
  | .sotopkCommand _ => none
  | .sothreshCommand _ => none
  | .sosumsCommand _ => none
  | .sogatherCommand _ => none
  | .cpcopyCommand _ => none
  | .cpsetCommand _ => none
  | .cpfeCommand _ => none
  | .cpstrideCommand _ => none
  | .cpprfCommand _ => none
  | .cpwbCommand _ => none
  | .cpsigCommand _ => none
  | .loaderTile _ _ => none
  | .storerTile _ _ => none
  | .entryEmission _ => none
  | .strandStart _ _ => none
  | .entryPromotion _ => none
  | .periodStart _ => none
  | .budgetExhaustion _ _ => none
  | .dlshareWindow => none
  | .powerClassSelect => none
  | .takeBack _ _ => none
  | .drainTimeout _ _ => none
  | .nodeCompletion _ => none
  | .launchEnd _ => none
  | .logicalCoreSwitch _ _ => none
  | .pageOut _ _ => none
  | .pageIn _ _ => none
  | .doorbell _ _ _ _ => none
  | .packetNop _ => none
  | .launchImage _ => none
  | .freeze _ => none
  | .writeSignal _ => none
  | .wait _ => none
  | .queueCreate _ => none
  | .queueDestroy _ => none
  | .queueReset _ => none
  | .queueQuery _ => none
  | .bufAlloc _ => none
  | .bufFree _ => none
  | .bufRevoke _ => none
  | .setDlshare _ => none
  | .waitingStepResume _ _ => none
  | .waitTimeout _ _ => none
  | .sliceExpiry _ => none
  | .frameBoundary => none
  | .auditSend _ => none
  | .creditAudit _ => none
  | .connectionSetup _ _ => none
  | .connectionTeardown _ => none
  | .circuitActive _ => none
  | .circuitDown _ => none
  | .apertureRead _ _ _ _ => none
  | .apertureWrite _ _ _ _ => none
  | .adminQueueEnable _ _ => none
  | .adminQueueDisable _ => none
  | .steeringEnable _ _ _ _ _ _ => none
  | .steeringDisable _ _ => none
  | .registerWrite _ _ _ _ => none
  | .ingressFrame _ _ _ _ => none
  | .egressSlot _ _ _ => none
  | .egressRetry _ _ _ => none
  | .ptpFrame _ _ _ _ _ => none
  | .hardwareError _ => none
  | .coreRetirement _ _ => none
  | .dieRetirement _ => none
  | .patrolScrub => none
  | .heartbeat _ => none
  | .attestationRequest => none
  | .thermalThrottle _ _ => none
  | .thermalTrip _ _ => none
  | .bringUp => none
  | .coldReset => none
  | .perstAbutment1 => none
  | .perstAbutment2 => none
  | .functionLevelReset _ => none
  | .illegalInstruction _ _ => none
  | .instructionFetchFault _ => none
  | .dirtyByteWriteBack _ _ => none
  | .trailerDiscard _ _ _ => none
  | .receivedFrameDrop _ _ _ _ => none
  | .thermalThrottleEnd _ _ => none
  | .powerClassTakesEffect => none

/-- Decoding (R126 steps 1 to 3): the instruction, or the number of the step that fails. A field that is reserved,
unused by the major or out of its codes makes the word differ from every encoding, which is step 3. -/
def decode (w : Word) : Except Nat Instr :=
  if !majorAssigned (majorOf w) then .error 1
  else if !(guardOf w).ok then .error 2
  else match parse (majorOf w) (guardOf w) (bodyOf w) with
    | some i => if i.wf && decide (encode i = some w) then .ok i else .error 3
    | none => .error 3

/-- The words in the order the code buffer holds them, low byte first (R106): the decoder reads one 64-bit word. -/
def decodeBytes (bs : List Byte) : Except Nat Instr := decode (BitVec.ofNat 64 (leNat (bs.take 8)))

/-- The instruction the decoder reads from a table word: its bytes laid out low byte first, bits above nbits zero. -/
def decodeTableWord (nbits w : Nat) : Option Instr :=
  match decodeBytes (leBytes 8 (w % 2 ^ min nbits 64)) with
  | .ok i => some i
  | .error _ => none

end Sys2Proof
end

