-- ==== Sys2Proof/Machine/Num.lean ====
section
/-! DEFINITION. Values and number formats (R73-R79), the five flags (R81), rounding (R82), conversion (R86, R87),
exact sums and products (R97, R98), microscaling blocks (R90, R91) and the exact cells (R93-R96). -/

namespace Sys2Proof.Num

/-- The five sticky flags in the bit order of FPCTL.FLAGS (R81, R116). -/
abbrev Flags := BitVec 5
def NV : Flags := 16
def DZ : Flags := 8
def OF : Flags := 4
def UF : Flags := 2
def NX : Flags := 1

/-- Rounding modes (R80). -/
inductive Mode where
  | rne | rtz | rup | rdn
  deriving DecidableEq, Repr

/-- The mode of a 2-bit code (R80). -/
def Mode.ofBits (n : Nat) : Mode :=
  match n % 4 with
  | 0 => .rne
  | 1 => .rtz
  | 2 => .rup
  | _ => .rdn

/-- The mode of an instruction's rounding code, FPCTL.RM when none (R137). -/
def Mode.ofRc (rm : Mode) : Rc → Mode
  | .none => rm
  | .rne => .rne
  | .rtz => .rtz
  | .rup => .rup
  | .rdn => .rdn

/-- A decoded value: NaN, infinity, or (-1)^neg * m * 2^e; m = 0 is the zero of that sign (R74). -/
inductive Val where
  | nan (sig : Bool)
  | inf (neg : Bool)
  | num (neg : Bool) (m : Nat) (e : Int)
  deriving DecidableEq, Repr

/-- A result code with the flags its making sets. -/
structure Res where
  code : Nat
  fl : Flags
  deriving DecidableEq, Repr

/-- Layout of a floating-point format (R73): fraction width, exponent width, bias, and whether it has infinities. -/
structure Fmt where
  m : Nat
  eb : Nat
  bias : Nat
  inf : Bool
  deriving DecidableEq, Repr

/-- The formats of R73; none for the other types. -/
def Fmt.of : Ty → Option Fmt
  | .f64 => some ⟨52, 11, 1023, true⟩
  | .f32 => some ⟨23, 8, 127, true⟩
  | .bf16 => some ⟨7, 8, 127, true⟩
  | .f16 => some ⟨10, 5, 15, true⟩
  | .e5m2 => some ⟨2, 5, 15, true⟩
  | .e4m3 => some ⟨3, 4, 7, false⟩
  | .e3m2 => some ⟨2, 3, 3, false⟩
  | .e2m3 => some ⟨3, 2, 1, false⟩
  | .e2m1 => some ⟨1, 2, 1, false⟩
  | _ => none

/-- Sign bit position. -/
def Fmt.sbit (f : Fmt) : Nat := f.m + f.eb
/-- Exponent of the smallest normal (R82). -/
def Fmt.emin (f : Fmt) : Int := 1 - (f.bias : Int)

/-- The code of the largest finite magnitude (R73, R74): E4M3 keeps its last code for NaN. -/
def Fmt.maxCode (f : Fmt) : Nat :=
  if f.inf then (2 ^ f.eb - 1) * 2 ^ f.m - 1
  else if f.m = 3 ∧ f.eb = 4 then 0x7E
  else 2 ^ f.sbit - 1

/-- The code of +infinity, where the format has one (R74). -/
def Fmt.infCode (f : Fmt) : Nat := (2 ^ f.eb - 1) * 2 ^ f.m

/-- The canonical NaN (R74); formats without NaN give the largest positive finite (R86). -/
def Fmt.nanCode (f : Fmt) : Nat :=
  if f.inf then f.infCode + 2 ^ (f.m - 1)
  else 2 ^ f.sbit - 1

/-- A format that has NaN codes (R74). -/
def Fmt.hasNan (f : Fmt) : Bool := f.inf || (f.m == 3 && f.eb == 4)

def Fmt.withSign (f : Fmt) (neg : Bool) (c : Nat) : Nat := if neg then 2 ^ f.sbit + c else c

/-- Decoding a code (R74). Only the four wide formats have signalling NaN. -/
def Fmt.decode (f : Fmt) (code : Nat) : Val :=
  let neg := code.testBit f.sbit
  let e := (code >>> f.m) % 2 ^ f.eb
  let fr := code % 2 ^ f.m
  if e = 0 then .num neg fr (f.emin - f.m)
  else if f.inf ∧ e = 2 ^ f.eb - 1 then
    if fr = 0 then .inf neg else .nan (decide (3 ≤ f.m) && !fr.testBit (f.m - 1))
  else if !f.inf ∧ f.hasNan ∧ code % 2 ^ f.sbit = 2 ^ f.sbit - 1 then .nan false
  else .num neg (2 ^ f.m + fr) ((e : Int) - f.bias - f.m)

/-- v(c) of PT8 times 2^12, for 1 ≤ c ≤ 127 (R78). -/
def pt8Scaled (c : Nat) : Nat :=
  let d := c.testBit 6
  let run := fun (i : Nat) => (c.testBit (6 - i)) == d
  let L := if !run 1 then 1 else if !run 2 then 2 else if !run 3 then 3 else if !run 4 then 4
    else if !run 5 then 5 else if !run 6 then 6 else 7
  let k : Int := if d then (L : Int) - 1 else -(L : Int)
  let rest : Int := 6 - (L : Int)
  let e : Int := if 1 ≤ rest then (if c.testBit (rest.toNat - 1) then 1 else 0) else 0
  let n : Nat := if 1 ≤ rest then rest.toNat - 1 else 0
  let f := c % 2 ^ n
  (2 ^ (2 * k + e + 12).toNat * (2 ^ n + f)) / 2 ^ n

/-- Decoding a PT8 code (R78). -/
def pt8Decode (code : Nat) : Val :=
  if code % 256 = 0 then .num false 0 0
  else if code % 256 = 0x80 then .nan false
  else .num (code.testBit 7) (pt8Scaled (code % 128)) (-12)

/-- An integer as a value. -/
def Val.ofInt (x : Int) : Val := .num (decide (x < 0)) x.natAbs 0

/-- The value a code of a type holds (R74, R76, R78). -/
def decode (t : Ty) (code : Nat) : Val :=
  match t with
  | .pt8 => pt8Decode code
  | t =>
    match Fmt.of t with
    | some f => f.decode (code % 2 ^ t.width)
    | none => .ofInt (if t.isSigned then sextN t.width code else ((code % 2 ^ t.width : Nat) : Int))

/-- An INT4 element (R76). -/
def decodeInt4 (code : Nat) : Val := .ofInt (sextN 4 code)

def Val.isNan : Val → Bool
  | .nan _ => true
  | _ => false
def Val.isSnan : Val → Bool
  | .nan s => s
  | _ => false
def Val.isInf : Val → Bool
  | .inf _ => true
  | _ => false
def Val.isZero : Val → Bool
  | .num _ m _ => m == 0
  | _ => false
def Val.neg? : Val → Bool
  | .nan _ => false
  | .inf n => n
  | .num n _ _ => n
/-- Negation flips the sign only (R168). -/
def Val.negate : Val → Val
  | .nan s => .nan s
  | .inf n => .inf (!n)
  | .num n m e => .num (!n) m e

/-- The signed integer m of a value at exponent e0 ≤ its exponent. -/
def Val.scaled (e0 : Int) : Val → Int
  | .num n m e => let x : Int := ((m * 2 ^ (e - e0).toNat : Nat) : Int); if n then -x else x
  | _ => 0

/-- Numerator and denominator of the magnitude m * 2^e. -/
def ratio (m : Nat) (e : Int) : Nat × Nat :=
  if 0 ≤ e then (m * 2 ^ e.toNat, 1) else (m, 2 ^ (-e).toNat)

/-- floor(log2(n/d)) for positive n and d. -/
def floorLog2 (n d : Nat) : Int :=
  let k : Int := (n.log2 : Int) - (d.log2 : Int)
  -- 2^(k-1) < n/d < 2^(k+1)
  if 0 ≤ k then (if d * 2 ^ k.toNat ≤ n then k else k - 1)
  else (if d ≤ n * 2 ^ (-k).toNat then k else k - 1)

/-- The choice of R82 between floor `lo` and its successor, for a remainder r of divisor d. -/
def pick (mode : Mode) (neg : Bool) (lo r d : Nat) : Nat :=
  if r = 0 then lo
  else match mode with
    | .rne => if 2 * r > d then lo + 1 else if 2 * r < d then lo else if lo % 2 = 0 then lo else lo + 1
    | .rtz => lo
    | .rup => if neg then lo else lo + 1
    | .rdn => if neg then lo + 1 else lo

/-- overflow_result of R82. -/
def Fmt.overflow (f : Fmt) (mode : Mode) (neg : Bool) : Nat :=
  let toInf := match mode with
    | .rne => true
    | .rtz => false
    | .rup => !neg
    | .rdn => neg
  f.withSign neg (if f.inf && toInf then f.infCode else f.maxCode)

/-- round(x, fmt, mode) of R82 for the non-zero magnitude n/d and sign neg. -/
def Fmt.round (f : Fmt) (mode : Mode) (neg : Bool) (n d : Nat) : Res :=
  let k := floorLog2 n d
  let e := max k f.emin
  let sh := (f.m : Int) - e
  let nn := if 0 ≤ sh then n * 2 ^ sh.toNat else n
  let dd := if 0 ≤ sh then d else d * 2 ^ (-sh).toNat
  let lo := nn / dd
  let r := nn % dd
  let i := pick mode neg lo r dd
  let c := (e - f.emin).toNat * 2 ^ f.m + i
  let fl : Flags := if r = 0 then 0 else if k < f.emin then NX ||| UF else NX
  if c > f.maxCode then ⟨f.overflow mode neg, fl ||| OF ||| NX⟩
  else ⟨f.withSign neg c, fl⟩

/-- The largest c with v(c) ≤ a, searching down from `c`; a is the magnitude n/d (R79). -/
def pt8Floor (n d : Nat) : Nat → Nat
  | 0 => 0
  | c + 1 => if pt8Scaled (c + 1) * d ≤ n * 4096 then c + 1 else pt8Floor n d c

/-- Conversion of a finite non-zero magnitude n/d into PT8 (R79). -/
def pt8Round (neg : Bool) (n d : Nat) : Res :=
  let s := if neg then 0x80 else 0
  if n > 4096 * d then ⟨s + 0x7F, OF ||| NX⟩
  else if n * 4096 < d then ⟨s + 0x01, UF ||| NX⟩
  else
    let lo := pt8Floor n d 127
    let vlo := pt8Scaled lo
    if vlo * d = n * 4096 then ⟨s + lo, 0⟩
    else
      let vhi := pt8Scaled (lo + 1)
      let two := 2 * n * 4096
      let mid := (vlo + vhi) * d
      ⟨s + (if two < mid then lo else if two > mid then lo + 1 else if lo % 2 = 0 then lo else lo + 1), NX⟩

/-- The range of an integer type (R76). -/
def intMin (t : Ty) : Int := if t.isSigned then -((2 ^ (t.width - 1) : Nat) : Int) else 0
def intMax (t : Ty) : Int := if t.isSigned then ((2 ^ (t.width - 1) : Nat) : Int) - 1 else ((2 ^ t.width : Nat) : Int) - 1

/-- An integer limited to the range of a type (R76). -/
def satInt (t : Ty) (x : Int) : Int := max (intMin t) (min (intMax t) x)

/-- Conversion of a value to an integer format (R86, R87). -/
def convInt (t : Ty) (mode : Mode) : Val → Res
  | .nan _ => ⟨0, NV⟩
  | .inf n => ⟨wrapN t.width (if n then intMin t else intMax t), NV⟩
  | .num neg m e =>
    let (n, d) := ratio m e
    let i := pick mode neg (n / d) (n % d) d
    let x : Int := if neg then -(i : Int) else i
    if intMin t ≤ x ∧ x ≤ intMax t then ⟨wrapN t.width x, if n % d = 0 then 0 else NX⟩
    else ⟨wrapN t.width (satInt t x), NV⟩

/-- Conversion of a value into type t, with the flags of R82, R86, R87 and R79. -/
def conv (t : Ty) (mode : Mode) (v : Val) : Res :=
  match t with
  | .pt8 =>
    match v with
    | .nan s => ⟨0x80, if s then NV else 0⟩
    | .inf n => ⟨if n then 0xFF else 0x7F, NV⟩
    | .num neg m e => if m = 0 then ⟨0, 0⟩ else let (n, d) := ratio m e; pt8Round neg n d
  | t =>
    match Fmt.of t with
    | none => convInt t mode v
    | some f =>
      match v with
      | .nan s => ⟨f.nanCode, if f.hasNan then (if s then NV else 0) else NV⟩
      | .inf n => if f.inf then ⟨f.withSign n f.infCode, 0⟩ else ⟨f.withSign n f.maxCode, OF ||| NX⟩
      | .num neg m e =>
        if m = 0 then ⟨f.withSign neg 0, 0⟩ else let (n, d) := ratio m e; f.round mode neg n d

/-- The sum of scaled terms. -/
def sumScaled (e0 : Int) : List Val → Int
  | [] => 0
  | v :: vs => v.scaled e0 + sumScaled e0 vs

/-- The least exponent among finite terms. -/
def minExp : List Val → Int
  | [] => 0
  | .num _ _ e :: vs => min e (minExp vs)
  | _ :: vs => minExp vs

/-- sum_exact of R97, with the NV of infinities of both signs. -/
def sumExact (mode : Mode) (ts : List Val) : Val × Flags :=
  if ts.any Val.isNan then (.nan false, 0)
  else
    let pos := ts.any fun v => v.isInf && !v.neg?
    let neg := ts.any fun v => v.isInf && v.neg?
    if pos && neg then (.nan false, NV)
    else if pos then (.inf false, 0)
    else if neg then (.inf true, 0)
    else if ts.isEmpty then (.num false 0 0, 0)
    else
      let e0 := minExp ts
      let z := sumScaled e0 ts
      if z ≠ 0 then (.num (decide (z < 0)) z.natAbs e0, 0)
      else if ts.all Val.isZero && ts.all Val.neg? then (.num true 0 0, 0)
      else (.num (decide (mode = .rdn)) 0 0, 0)

/-- The exact product of R98. -/
def prod (a b : Val) : Val :=
  match a, b with
  | .nan _, _ => .nan false
  | _, .nan _ => .nan false
  | .inf x, .inf y => .inf (x != y)
  | .inf x, .num y m _ => if m = 0 then .nan false else .inf (x != y)
  | .num x m _, .inf y => if m = 0 then .nan false else .inf (x != y)
  | .num x m e, .num y m' e' => .num (x != y) (m * m') (e + e')

/-- Flags of a signalling operand (R85). -/
def snanFl (vs : List Val) : Flags := if vs.any Val.isSnan then NV else 0

/-- The NV of 0 times infinity (R168). -/
def prodFl (a b : Val) : Flags := if (prod a b).isNan && !a.isNan && !b.isNan then NV else 0

/-- A value scaled by 2^k exactly. -/
def Val.scale2 (k : Int) : Val → Val
  | .num n m e => .num n m (e + k)
  | v => v

/-- The E8M0 scale (R77) applied to an element (R90); code 0xFF makes NaN. -/
def applyE8M0 (sc : Nat) (v : Val) : Val :=
  if sc % 256 = 0xFF then .nan false else v.scale2 ((sc % 256 : Nat) - 127)

/-- Kinds of MX block by element format (R89): emax, and whether the element is MXINT8. -/
def mxEmax : Ty → Int
  | .e4m3 => 8
  | .e5m2 => 15
  | .e3m2 => 4
  | .e2m3 => 2
  | .e2m1 => 2
  | _ => 0

/-- Compare the magnitudes of two finite values: a < b. -/
def ltAbs (m : Nat) (e : Int) (m' : Nat) (e' : Int) : Bool :=
  let e0 := min e e'
  decide (m * 2 ^ (e - e0).toNat < m' * 2 ^ (e' - e0).toNat)

/-- The greatest magnitude of a list of finite values. -/
def maxAbs : List Val → Nat × Int
  | [] => (0, 0)
  | .num _ m e :: vs => let (m', e') := maxAbs vs; if ltAbs m' e' m e then (m, e) else (m', e')
  | _ :: vs => maxAbs vs

/-- mx_encode of R91: the scale byte, the element codes and the flags. `t = i8` is MXINT8. -/
def mxEncode (t : Ty) (mode : Mode) (vs : List Val) : Nat × List Nat × Flags :=
  if vs.any fun v => v.isNan || v.isInf then (0xFF, vs.map fun _ => 0, NV)
  else
    let (am, ae) := maxAbs vs
    if am = 0 then
      (0x7F, vs.map fun v => if t = .i8 then 0 else (conv t mode v).code, 0)
    else
      let (n, d) := ratio am ae
      let x := min (max (floorLog2 n d - mxEmax t) (-127)) 127
      let el := vs.map fun v =>
        if t = .i8 then
          let r := conv .i8 mode (v.scale2 (6 - x))
          if r.code = 0x80 then ⟨0x81, (r.fl &&& ~~~NX) ||| NV⟩ else r
        else conv t mode (v.scale2 (-x))
      ((x + 127).toNat, el.map Res.code, el.foldl (fun f r => f ||| r.fl) 0)

/-- Signed order of two non-NaN values: a < b by value (R97's reals; infinities at the ends). -/
def ltVal (a b : Val) : Bool :=
  match a, b with
  | .nan _, _ | _, .nan _ => false
  | .inf x, .inf y => x && !y
  | .inf x, .num _ _ _ => x
  | .num _ _ _, .inf y => !y
  | .num x m e, .num y m' e' =>
    let e0 := min e e'
    decide ((Val.num x m e).scaled e0 < (Val.num y m' e').scaled e0)

/-- Equal by value; the two zeros are equal (R171). -/
def eqVal (a b : Val) : Bool := !a.isNan && !b.isNan && !ltVal a b && !ltVal b a

/-- The addend of an exact cell: x * 2^k as an integer (R95). -/
def cellAddend (k : Int) (v : Val) : Int := (v.scale2 k).scaled 0

/-- Rounding a cell's integer Z at weight 2^-k (R96). -/
def cellRound (t : Ty) (mode : Mode) (k : Int) (z : Int) : Res :=
  conv t mode (.num (decide (z < 0)) z.natAbs (-k))

/-- Largest r with r*r ≤ n, one bit at a time from bit `b`. -/
def isqrtFrom (n : Nat) : Nat → Nat → Nat
  | 0, r => if (r + 1) * (r + 1) ≤ n then r + 1 else r
  | b + 1, r => isqrtFrom n b (if (r + 2 ^ (b + 1)) * (r + 2 ^ (b + 1)) ≤ n then r + 2 ^ (b + 1) else r)

def isqrt (n : Nat) : Nat := isqrtFrom n (n.log2 / 2 + 1) 0

/-- round of the exact square root of m * 2^e (R168): a floor root of enough bits, and a half step when inexact. -/
def roundSqrt (f : Fmt) (mode : Mode) (m : Nat) (e : Int) : Res :=
  let e1 := if e % 2 = 0 then e else e - 1
  let m1 := if e % 2 = 0 then m else 2 * m
  let N := m1 * 2 ^ 240
  let r := isqrt N
  let e2 := e1 / 2 - 120
  if r * r = N then let (n, d) := ratio r e2; f.round mode false n d
  else let (n, d) := ratio (2 * r + 1) (e2 - 1); f.round mode false n d

end Sys2Proof.Num
end

