-- ==== Sys2Proof/Machine/State.lean ====
section
/-! DEFINITION. The state of the machine as plain data: every piece of state the spec names (INVENTORY.md, State),
the reasons a step can stop, and the state after a cold reset. Tables are sparse and canonical (`Tab`). -/

namespace Sys2Proof.Machine

/-- Why a step stops with a fault. Each names a point at which the spec gives no effect. -/
inductive Fault where
  /-- Raised by the events that name a unit of the package which does not exist (a die above 31, a port above 3,
  an Abutment other than 1 and 2, a link not of R13, a strand above 4), or the memory of a logical core that no physical core
  holds: no such step arises. Safe. -/
  | noSuchUnit
  deriving DecidableEq, Repr

/-- Why a step is refused. -/
inductive Refusal where
  /-- An arm of `exec` that has no meaning yet. Safe: nothing can be proved of it. -/
  | notModelled (mnemonic : String)
  /-- Raised by `step` for an agenda turn that names an instruction word as an event. Safe: the agenda is ill-formed. -/
  | notAnEvent
  deriving DecidableEq, Repr

/-- The place of a byte: a local store, a device buffer, host memory. -/
inductive Spot where
  | ls (c off : Nat)
  | dev (id off : Nat)
  | host (a : Nat)
  deriving DecidableEq, Repr

/-- A byte that an engine or a strand has read ahead of the rest of its access: its value, the poison of its granule, and the full/empty bit
of its word (R43, R300). -/
structure Kept where
  b : Byte
  poison : Bool
  full : Bool
  deriving DecidableEq, Repr

/-- Who makes an access of several words: a strand, or the engine of a queue of a logical core. -/
inductive Agent where
  | strand (k : Nat)
  | queue (c q : Nat)
  deriving DecidableEq, Repr

/-- Bytes of an access that are still to be written, from `spot` on, each with the bits that it writes: at the home or into the L1, or
into the version of a versioned task; and a full/empty bit that changes with them (R43, R44). -/
structure Late where
  who : Agent
  spot : Spot
  home : Bool := true
  version : Option Nat := none
  bs : List (Byte × Byte) := []
  full : Option Bool := none
  deriving DecidableEq, Repr

/-- A byte of its next access that an agent has read already (R43). -/
structure Early where
  who : Agent
  spot : Spot
  got : Kept
  deriving DecidableEq, Repr

/-- Accesses of several words that are part done (R43; log 113): what is still to arrive, in the order in which it was written, and what has
been read of accesses to come. -/
structure Apart where
  late : List Late := []
  early : List Early := []
  deriving DecidableEq, Repr

/-- Which agent moves next (log 1): a logical core issues, time passes, an L1 evicts a line or one word, an engine goes on by a number
of units, or an event of the opcode table takes place. -/
inductive Turn where
  | issue (c : Nat)
  | elapse (ns : Nat)
  | evict (c line : Nat)
  /-- A word of an L1 goes home and leaves by itself: the words of one access reach other agents one by one (R43). -/
  | word (c w : Nat)
  /-- A queue's command starts or goes on by some of its units and stops at a unit boundary (R306, R344, R380, R404); where words are named, it
  does one unit at most, and those words of it arrive later (R43; log 113). -/
  | units (c q n : Nat) (ws : List Spot)
  /-- The started command of a queue reads some words of its next unit now (R43; log 113). -/
  | ahead (c q : Nat) (ws : List Spot)
  /-- The next load of a logical core reads some of its words now; a logical core issues, and some words of the store that it issues arrive
  later (R43; log 113). -/
  | early (c : Nat) (ws : List Spot)
  | late (c : Nat) (ws : List Spot)
  /-- Some of the words that are still to arrive do (R43; log 113). -/
  | arrive (ws : List Spot)
  | event (i : Instr)
  deriving DecidableEq, Repr

/-- What a strand waits on (R103, R210-R216, R228, R230, R234, R235). `failed` counts failed attempts since the form
was issued or last woken; `ever` that it parked during this form; `word` is the word that waits. -/
inductive Wait where
  | none
  | fe (word : Instr) (off : Word) (failed : Nat) (parked ever : Bool)
  | bar (b : Nat) (failed : Nat) (parked : Bool)
  | push (word : Instr)
  | pop (word : Instr)
  | send (word : Instr)
  deriving DecidableEq, Repr

/-- A strand (R102, R107, R111-R123, R177, R227, R463). Of a pending switch, `drainAt` is the time at which it is taken by checkpoint, and
`drainFor` the newcomer of the take-back that asked for it (R416, R431, R434). -/
structure Strand where
  s : Tab Word := []
  v : Tab (BitVec 32) := []
  a : Tab Word := []
  p : Tab Pred := []
  b : Tab Cap := []
  q : Tab Stream := []
  lc : Tab Word := []
  pc : Word := 0
  status : Word := 0
  trapCause : Word := 0
  trapPc : Word := 0
  trapVal : Word := 0
  trapStat : Word := 0
  fpctl : Word := 0
  fectl : Word := 0x0040_0000
  feBudget : Word := 0x0001_0000_0001_0000
  prio : Word := 0
  timeCmp : Word := 0xFFFF_FFFF_FFFF_FFFF
  scratch0 : Word := 0
  scratch1 : Word := 0
  ticket : Option (Nat × Nat) := none
  node : Option Nat := none
  iter : Option Nat := none
  stopped : Bool := false
  wait : Wait := .none
  switchPending : Bool := false
  drainAt : Option Nat := none
  drainFor : Option Nat := none
  startedAt : Nat := 0
  active : Bool := false
  deriving DecidableEq, Repr

/-- A queued or captured engine command (R154, R298, R325, R360, R387): its code, sequence number, entry, and what
the push captured: capabilities, stream registers, the template, the pushing strand's DL and LEVEL. -/
structure Cmd where
  code : Nat := 0
  seq : Nat := 0
  entry : Word := 0
  caps : List Cap := []
  streams : List Stream := []
  tmpl : Template := 0
  prio : Nat := 0
  deriving DecidableEq, Repr

/-- Where a command of queue 4 or 5 stands between two units (R380, R404): the next element or row, the position within it, RESULT and
the flags so far, the pair counts of gsrules, and of the segment at work of gssegsum the exact sum as a cell, what kind of
value it is, and the first poisoned element. -/
structure Progress where
  unit : Nat := 0
  pos : Nat := 0
  res : Nat := 0
  flags : Nat := 0
  counts : List Nat := []
  sumKind : Nat := 0
  sum : Nat := 0
  poisoned : Option Nat := none
  deriving DecidableEq, Repr

/-- One engine queue (R27-R31): unstarted commands, responses, the started command with its progress, the granules it
has poisoned, the transfer offset of the first (R303), and the descriptor it read when it started (R299). `more` counts the
granules poisoned before a resume from an image that are not listed, and `relist` says that the list is still to be made again
(log 117). `held` is the source of a transfer that overlaps itself, by transfer offset (R300), or what a command of queue 4 has replaced, by position (R374),
between two turns of the engine. -/
structure Queue where
  cmds : List Cmd := []
  resp : List Word := []
  nextSeq : Nat := 1
  doneSeq : Word := 0
  fault : Bool := false
  stall : Bool := false
  started : Option Cmd := none
  prog : Nat := 0
  bad : List (Nat × Nat) := []
  firstBad : Option Nat := none
  desc : List Word := []
  more : Nat := 0
  relist : Bool := false
  held : Tab (Option Kept) := []
  mark : Progress := {}
  deriving DecidableEq, Repr

/-- A message packet (R62, R229-R231): whether its closing store released (R52), the strand that closed it, and its place in
the closing order of its sender. -/
structure Packet where
  sender : Nat
  dest : Nat
  words : List Word
  rel : Bool := false
  closer : Option Nat := none
  no : Nat := 0
  deriving DecidableEq, Repr

/-- State of a slot by its virtual number (R313, R314): a number the core does not hold is FREE. -/
inductive SlotSt where
  | free | claimed | full
  deriving DecidableEq, Repr

/-- A slot by its virtual number (R313, R314, R317): its state, its 16 KiB of contents, the poison of its granules, and,
for the head of a run, KIND, EFMT, SKIND, BLK and COUNT. -/
structure Slot where
  st : SlotSt := .free
  data : Tab Byte := []
  poison : Tab Bool := []
  info : List Nat := []
  deriving DecidableEq, Repr

/-- The matrix state of a logical core (R313-R320); its journal lies in the local store (R341). -/
structure Matrix where
  slots : Tab Slot := []
  region : Tab Byte := []
  groups : Tab Bool := []
  rflags : BitVec 5 := 0
  regionPoison : Tab Bool := []
  deriving DecidableEq, Repr

/-- A byte the L1 holds (R55). -/
structure L1Byte where
  b : Byte
  dirty : Bool
  deriving DecidableEq, Repr

/-- A logical core (R110, R120, R122, R229-R232, R463). `wrote` holds, for a line of the L1 with dirty bytes, 1 + the device time
of the oldest (R51), and `owed` lists lines that an engine has left dirty there (R57, R61); `closings` counts the packets it has closed (R62); `handTo` is the logical core to which a take-back has
promised the physical core, while strands still drain (R431); `backing` counts the pages of its backing area (R470). -/
structure LCore where
  templates : Tab Template := []
  queues : Tab Queue := []
  ls : Tab Byte := []
  lsFe : Tab Bool := []
  lsPoison : Tab Bool := []
  window : List Packet := []
  sendBuf : List Word := []
  closed : Option Packet := none
  closings : Nat := 0
  handler : Word := 0
  trapVec : Word := 0
  msgInfo : Word := 0
  mx : Matrix := {}
  l1 : Tab (Option L1Byte) := []
  roc : Tab Bool := []
  wrote : Tab Nat := []
  owed : List Nat := []
  lastIssued : Nat := 3
  die : Nat := 0
  pos : Nat := 0
  resident : Bool := false
  lastResident : Nat := 0
  turnStart : Nat := 0
  handTo : Option Nat := none
  backing : Nat := 0
  deriving DecidableEq, Repr

/-- A loader or storer subscription at work (R292-R297): its kind, the task, the stream image, capability and control
words, the next tile, and whether it has stopped. -/
structure Sub where
  loader : Bool
  task : Nat
  lcore : Nat
  stream : Stream
  cap : Cap
  ctl : List Word
  next : Nat
  stopped : Bool
  deriving DecidableEq, Repr

/-- Context states (R457). -/
inductive CtxSt where
  | absent | restoring | running | freezing
  deriving DecidableEq, Repr

/-- A context (R457-R467). `backBuf` is the pinned backing buffer of its logical cores (R470); `freezer` is the queue and index of the
FREEZE that has stopped it, and `imageLen` the length of the image that this FREEZE has still to write (R455, R461). -/
structure Ctx where
  st : CtxSt := .absent
  secure : Bool := false
  lineage : Nat := 0
  seq : Nat := 0
  lcount : Nat := 0
  jbase : Nat := 0x7A000
  code : Cap := 0
  bufIds : List (Nat × Nat × Bool) := []
  codeIdx : Nat := 0
  logIdx : Nat := 0
  logOff : Nat := 0
  launchQ : Nat := 0
  launchIdx : Nat := 0
  vdies : Tab Word := []
  groups : Tab Word := []
  lcTable : Tab Word := []
  rcbs : Tab Word := []
  nrcb : Nat := 0
  graphs : List Nat := []
  classes : Tab Nat := []
  barriers : Tab Word := []
  park : Tab Word := []
  faultLog : Tab Word := []
  faultHead : Nat := 0
  inFlight : List Packet := []
  slotTables : Tab Word := []
  restoredAt : Nat := 0
  periodNo : Nat := 0
  deck : Tab Word := []
  backBuf : Nat := 0
  imageLen : Nat := 0
  freezer : Option (Nat × Nat) := none
  deriving DecidableEq, Repr

/-- States of a task-table entry (R419). -/
inductive TaskSt where
  | free | waiting | ready | running | done | failed
  deriving DecidableEq, Repr

/-- A participant of a task (R422, R429, R510). -/
structure Part where
  core : Nat
  next : Nat
  end_ : Nat
  starts : Nat
  active : Nat
  deriving DecidableEq, Repr

/-- The version of a versioned task (R287-R290): written device bytes by {buffer, offset}, written local-store bytes,
packets closed, children reserved. -/
structure Version where
  dev : Tab (Option Byte) := []
  ls : Tab (Option Byte) := []
  packets : List Packet := []
  spawns : List Nat := []
  deriving DecidableEq, Repr

/-- A task-table entry (R415, R418-R420, R425, R510). -/
structure Task where
  gen : Nat := 0
  st : TaskSt := .free
  ctx : Nat := 0
  ident : Nat := 0
  graph : Nat := 0
  node : Nat := 0
  spawned : Bool := false
  spawner : Nat := 0
  level : Nat := 0
  dl : Bool := false
  readyAt : Nat := 0
  promoAt : Nat := 0
  absDl : Nat := 0
  pending : Nat := 0
  emitted : Bool := false
  emissionNo : Nat := 0
  lastDone : Nat := 0
  chain : List Nat := []
  fdom : Nat := 0
  est : Nat := 0
  drainThr : Nat := 0
  power : Nat := 1
  relDl : Nat := 0
  versioned : Bool := false
  noKill : Bool := false
  begun : Bool := false
  vlines : Nat := 0
  startedAt : Nat := 0
  ver : Version := {}
  parts : List Part := []
  deriving DecidableEq, Repr

/-- Where a dispatch entry stands (R427). -/
inductive QLevel where
  | keystone | die | cluster | core
  deriving DecidableEq, Repr

/-- A dispatch entry (R422, R423): task, logical core, starts left, emission; a strand number for an entry made by a
checkpoint or drain (R435). -/
structure Entry where
  task : Nat
  lcore : Nat
  starts : Nat
  emission : Nat
  place : QLevel
  resume : Option Nat
  deriving DecidableEq, Repr

/-- A buffer record (R278). `own` says that the Keystone itself holds the buffer: its logs, an admin ring, a backing buffer (R470, R487,
R499). `images` lists the context images that FREEZE has written into it: the offset of each, and the buffers that its IMPORT entries
name (R280, R463). -/
structure Buf where
  gen : Nat := 0
  maxRights : Nat := 0
  size : Nat := 0
  refCnt : Nat := 0
  context : Nat := 0
  driver : Bool := false
  host : Bool := false
  secure : Bool := false
  freeing : Bool := false
  valid : Bool := false
  pmap : Word := 0
  resident : Nat := 0
  dirtyCnt : Nat := 0
  retired : Bool := false
  own : Bool := false
  images : List (Nat × List Nat) := []
  deriving DecidableEq, Repr

/-- A page-out record (R284). -/
structure PageRec where
  data : Tab Byte := []
  fe : Tab Bool := []
  park : Tab Bool := []
  poison : Tab Bool := []
  deriving DecidableEq, Repr

/-- A forwarded-atomic fill in flight (R63, R225): the strand whose atomic sent it, its target, and the Pier that it comes from. -/
structure Fill where
  src : Nat
  lcore : Nat
  off : Nat
  value : Word
  pier : Nat
  deriving DecidableEq, Repr

/-- A wake notice in flight from a Pier to the Keystone (R214): the word of a buffer, the bit it now has, and the Pier. -/
structure Notice where
  buf : Nat
  word : Nat
  full : Bool
  pier : Nat
  deriving DecidableEq, Repr

/-- A region of an edge whose source has completed and whose dependant has not (R65, R66): the dependant's record, the source's
logical core, and the bytes. -/
structure Region where
  ctx : Nat
  graph : Nat
  node : Nat
  src : Nat
  id : Nat
  off : Nat
  len : Nat
  deriving DecidableEq, Repr

/-- A die of the package (R12-R18, R498, R502, R506): enabled core positions and arrays, retirement, world, throttling. -/
structure Die where
  cores : BitVec 16 := 0
  arrays : BitVec 4 := 0
  inService : Bool := false
  retired : Bool := false
  secure : Bool := false
  throttled : Bool := false
  corrected : Tab (List Nat) := []
  failing : Tab Bool := []
  routerBad : Bool := false
  deriving DecidableEq, Repr

/-- The array lease of a cluster (R327): holder, commands started, grant time, and the position of the last holder. -/
structure Lease where
  holder : Option Nat := none
  started : Nat := 0
  since : Nat := 0
  last : Nat := 3
  deriving DecidableEq, Repr

/-- A queue record of R448. `lastRun` is the time at which the queue last had a step to run (R449), `waits` the time at which each WAIT
started (R456), and `owed` STATUS + 1 + 256 × DETAIL with which a packet is to complete once its pages are in memory (R455). -/
structure QRec where
  valid : Bool := false
  st : Nat := 0
  secure : Bool := false
  admin : Bool := false
  func : Nat := 0
  dl : Bool := false
  level : Nat := 0
  rsize : Nat := 0
  ringId : Nat := 0
  ringGen : Nat := 0
  ringOff : Nat := 0
  wptr : Nat := 0
  rptr : Nat := 0
  cptr : Nat := 0
  doneMask : BitVec 8 := 0
  steps : Word := 0
  cqptr : Nat := 0
  errStat : Nat := 0
  errIdx : Nat := 0
  lastRun : Nat := 0
  waits : Tab Nat := []
  owed : Tab Nat := []
  deriving DecidableEq, Repr

/-- A retirement that is being written into the tables (R18, R498): the die, the position (16: the whole die), the die as its entry
still shows it, and the writes made so far: 1 the remap tables, 2 CHANGES odd, 3 the entries. -/
structure Change where
  die : Nat
  pos : Nat
  old : Die
  made : Nat
  deriving DecidableEq, Repr

/-- The package: dies, discovery state, power class, reset and fatal state (R12-R18, R33-R35, R501, R506-R508). -/
structure Package where
  dies : Tab Die := []
  changes : BitVec 8 := 0
  changing : Option Change := none
  ready : Bool := false
  stage : Nat := 0
  dead : Bool := false
  fatal : Option Nat := none
  powerMem : Bool := false
  powerNext : Option Bool := none
  powerTick : Nat := 0
  measure : List (BitVec 384) := [0, 0, 0, 0, 0]
  fnSecure : List Bool := []
  deriving DecidableEq, Repr

/-- The Keystone: deadline share, leases, command processors, error log, heartbeats (R327, R426, R448-R453, R499-R501). `beatDue`
holds the device time before which a firmware core's next beat is not due. -/
structure Keystone where
  dlShare : Nat := 16
  dlWindow : Nat := 0
  dlUsed : Nat := 0
  leases : Tab Lease := []
  qrecs : Tab QRec := []
  hwSlots : Tab (Option Nat) := []
  logHead : Nat := 0
  lastErr : Tab (Option (Nat × Nat)) := []
  beats : Tab Nat := []
  beatSeen : Tab Nat := []
  beatDue : Tab Nat := []
  missed : Tab Nat := []
  msix : List (Nat × Nat) := []
  served : Tab (Option Nat) := []
  sliceOver : Tab Bool := []
  deriving DecidableEq, Repr

/-- A fabric link direction (R476, R480): credits per virtual channel, RET and GOT. -/
structure Link where
  credits : Tab Nat := []
  ret : Tab (BitVec 32) := []
  got : Tab (BitVec 32) := []
  audits : List (List (BitVec 32)) := []
  auditAt : Nat := 0
  faulted : Bool := false
  deriving DecidableEq, Repr

/-- The fabric and the Trestle (R475-R483). -/
structure Fabric where
  frame : Nat := 0
  links : Tab Link := []
  quotas : Tab Nat := []
  conns : Tab Word := []
  connTime : Tab Word := []
  connSt : Tab Nat := []
  deriving DecidableEq, Repr

/-- A steering entry of an Abutment (R492-R494): its four words, the slot pointer, the frame count, its drops. -/
structure Steer where
  w0 : Word := 0
  w1 : Word := 0
  w2 : Word := 0
  w3 : Word := 0
  next : Nat := 0
  seq : BitVec 32 := 0
  drops : Nat := 0
  deriving DecidableEq, Repr

/-- A frame that left the module: its Abutment and port, its bytes, and the FCS sent after them (R494). -/
structure Frame where
  abut : Nat
  port : Nat
  bytes : List Byte
  fcs : BitVec 32
  deriving DecidableEq, Repr

/-- Host and network interface of the Abutments (R70, R482, R486-R494). -/
structure HostIf where
  adminBase : Tab Word := []
  adminEn : Tab Bool := []
  adminReady : Tab Bool := []
  adminSize : Tab Nat := []
  adminIndex : Tab Word := []
  adminClosing : Tab Bool := []
  aperture : Tab Word := []
  msixAddr : Tab Word := []
  msixData : Tab Word := []
  pba : Tab Word := []
  posted : Tab Nat := []
  steer : Tab Steer := []
  portDrops : Tab Nat := []
  portEnd : Tab Nat := []
  locked : Bool := false
  ptpOffset : BitVec 32 := 0
  ptpPort : Nat := 0
  completions : List (List Byte × Nat) := []
  sent : List Frame := []
  deriving DecidableEq, Repr

/-- The machine. -/
structure State where
  /-- Which agents move next; empty: the focused strand issues (log 1). The model's own. -/
  agenda : List Turn := []
  /-- The strand that issued last, (context × 320 + logical core) × 5 + strand; its core issues when the agenda is empty (log 1).
  The model's own. -/
  cur : Nat := 0
  /-- Accesses of several words that are part done (log 113). The model's own. -/
  apart : Apart := {}
  /-- Advances with each free value drawn (log 12). The model's own. -/
  freeCtr : Nat := 0
  /-- The next free choices, where named; empty: the opaque free values (log 12). The model's own. -/
  hints : List Nat := []
  strands : Tab Strand := []
  lcores : Tab LCore := []
  ctxs : Tab Ctx := []
  tasks : Tab Task := []
  entries : List Entry := []
  emission : Nat := 0
  /-- Strands saved by a checkpoint or drain, by number (R435). -/
  saved : Tab Strand := []
  subs : List Sub := []
  mem : List Host.Cell := []
  fe : Tab Bool := []
  poison : Tab Bool := []
  park : Tab Bool := []
  bufs : Tab Buf := []
  pages : Tab Word := []
  frames : Tab Bool := []
  backing : Tab PageRec := []
  /-- The RCBs, beside the context RCB, that a page counts against (R416). -/
  pageFor : Tab (List Nat) := []
  hostMem : List Host.Cell := []
  hostPoison : Tab Bool := []
  fills : List Fill := []
  regions : List Region := []
  notices : List Notice := []
  devTime : Word := 0
  pkg : Package := {}
  ks : Keystone := {}
  fab : Fabric := {}
  io : HostIf := {}
  deriving DecidableEq, Repr

/-- The dies as manufactured (R12, R14): a full population (log 6). -/
def dieTable : Tab Die :=
  (List.range 32).map fun d =>
    (d, { cores := if 3 ≤ d ∧ d ≤ 22 then 0xFFFF else 0, arrays := if 3 ≤ d ∧ d ≤ 10 then 0xF else 0,
          inService := true })

/-- The machine right after a cold reset: bring-up has not begun, nothing is loaded, every context ABSENT (R107, R448,
R457, R504, R507); log 3 names the values the spec does not state. -/
def State.reset : State :=
  { pkg := { dies := dieTable, fnSecure := List.replicate 17 false } }

end Sys2Proof.Machine
end

