-- ==== Sys2Proof/Machine/Mem.lean ====
section
/-! DEFINITION. Reading and writing state: strands, logical cores and contexts by number; capabilities (R202);
device memory by buffer, page map and physical address (R272, R282); full/empty bits and wakes (R214, R215);
poison (R277); the L1 (R55-R57); host memory (R69). -/

namespace Sys2Proof

-- Capabilities (R202).

def Cap.id (c : Cap) : Nat := (c.extractLsb' 104 24).toNat
def Cap.gen (c : Cap) : Nat := (c.extractLsb' 88 16).toNat
def Cap.rights (c : Cap) : Nat := (c.extractLsb' 80 8).toNat
def Cap.r (c : Cap) : Bool := c.getLsbD 87
def Cap.w (c : Cap) : Bool := c.getLsbD 86
def Cap.f (c : Cap) : Bool := c.getLsbD 85
def Cap.a (c : Cap) : Bool := c.getLsbD 84
def Cap.t (c : Cap) : Bool := c.getLsbD 83
def Cap.sec (c : Cap) : Bool := c.getLsbD 82
def Cap.roc (c : Cap) : Bool := c.getLsbD 81
def Cap.host (c : Cap) : Bool := c.getLsbD 80
def Cap.length (c : Cap) : Nat := (c.extractLsb' 40 40).toNat
def Cap.base (c : Cap) : Nat := (c.extractLsb' 0 40).toNat
/-- A capability from its fields. -/
def Cap.make (id gen rights length base : Nat) : Cap :=
  BitVec.ofNat 24 id ++ BitVec.ofNat 16 gen ++ BitVec.ofNat 8 rights ++ BitVec.ofNat 40 length ++ BitVec.ofNat 40 base

end Sys2Proof

namespace Sys2Proof.Machine

/-- One outcome of a meaning. -/
abbrev Out := Host.Outcome State Fault Refusal

-- Strands, logical cores, contexts.

def State.strand (s : State) (k : Nat) : Strand := s.strands.get {} k
def State.setStrand (s : State) (k : Nat) (x : Strand) : State := { s with strands := s.strands.set {} k x }
def State.lcore (s : State) (c : Nat) : LCore := s.lcores.get {} c
def State.setLcore (s : State) (c : Nat) (x : LCore) : State := { s with lcores := s.lcores.set {} c x }
def State.modLcore (s : State) (c : Nat) (f : LCore → LCore) : State := s.setLcore c (f (s.lcore c))
def State.modStrand (s : State) (k : Nat) (f : Strand → Strand) : State := s.setStrand k (f (s.strand k))
def State.ctx (s : State) (x : Nat) : Ctx := s.ctxs.get {} x
def State.setCtx (s : State) (x : Nat) (c : Ctx) : State := { s with ctxs := s.ctxs.set {} x c }
def State.modCtx (s : State) (x : Nat) (f : Ctx → Ctx) : State := s.setCtx x (f (s.ctx x))
def State.task (s : State) (t : Nat) : Task := s.tasks.get {} t
def State.setTask (s : State) (t : Nat) (x : Task) : State := { s with tasks := s.tasks.set {} t x }
def State.modTask (s : State) (t : Nat) (f : Task → Task) : State := s.setTask t (f (s.task t))
def State.buf (s : State) (i : Nat) : Buf := s.bufs.get {} i
def State.setBuf (s : State) (i : Nat) (b : Buf) : State := { s with bufs := s.bufs.set {} i b }
def State.modBuf (s : State) (i : Nat) (f : Buf → Buf) : State := s.setBuf i (f (s.buf i))
def State.now (s : State) : Nat := s.devTime.toNat

/-- The logical core of a strand, its context, and its number within the context. -/
def lcOf (k : Nat) : Nat := k / 5
def numOf (k : Nat) : Nat := k % 5
def ctxOfLc (c : Nat) : Nat := c / 320
def coreOfLc (c : Nat) : Nat := c % 320
def ctxOf (k : Nat) : Nat := ctxOfLc (lcOf k)
def mkLc (ctx core : Nat) : Nat := ctx * 320 + core
def mkStrand (c k : Nat) : Nat := c * 5 + k

def LCore.queue (l : LCore) (q : Nat) : Queue := l.queues.get {} q
def LCore.setQueue (l : LCore) (q : Nat) (x : Queue) : LCore := { l with queues := l.queues.set {} q x }

-- STATUS fields (R112).

def Strand.super (t : Strand) : Bool := t.status.getLsbD 11
def Strand.inTrap (t : Strand) : Bool := t.status.getLsbD 10
def Strand.secure (t : Strand) : Bool := t.status.getLsbD 12
def Strand.versioned (t : Strand) : Bool := t.status.getLsbD 9
/-- A handler strand, by its number (R102). -/
def isHandler (k : Nat) : Bool := numOf k == 4

/-- Rights an access needs (R203). -/
structure Need where
  r : Bool := false
  w : Bool := false
  f : Bool := false
  a : Bool := false
  deriving DecidableEq, Repr

/-- The checks of R204 on a capability, in order: the DETAIL of the first that fails. A buffer of the secure world is
refused to non-secure code at the Pier too (R503). Null, which fails at its rights, is the capability of 128 zero bits (R107); one of ID 0
with another bit set is not null here (log 141: the model's choice). -/
def capCheck (s : State) (secure : Bool) (c : Cap) (hostSpace : Bool) (n : Need) (o size : Nat) : Option Nat :=
  if c ≠ 0 ∧ (c.sec ∨ (s.buf c.id).secure) ∧ !secure then some 0x01
  else if c ≠ 0 ∧ c.host ≠ hostSpace then some 0x02
  else if c ≠ 0 ∧ c.gen ≠ (s.buf c.id).gen then some 0x03
  else if n.r ∧ !c.r then some 0x04
  else if n.w ∧ (!c.w ∨ c.roc) then some 0x05
  else if n.f ∧ !c.f then some 0x06
  else if n.a ∧ !c.a then some 0x07
  else if c.length < o + size then some 0x08
  else none

-- Device memory (R272, R282).

/-- Key of a page of a buffer, and of a byte of it. -/
def pageKey (id page : Nat) : Nat := id * 2 ^ 24 + page
def byteKey (id off : Nat) : Nat := id * 2 ^ 40 + off
def State.page (s : State) (id off : Nat) : Word := s.pages.get 0 (pageKey id (off / 65536))
def pageValid (e : Word) : Bool := e.getLsbD 63
def pageRes (e : Word) : Bool := e.getLsbD 62
def pageDirty (e : Word) : Bool := e.getLsbD 61
def pagePinned (e : Word) : Bool := e.getLsbD 60
/-- The device physical address of a byte of a resident page (R272). -/
def physOf (e : Word) (off : Nat) : Nat := e.bits 50 48 * 2 ^ 36 + e.bits 19 0 * 65536 + off % 65536
def State.pa (s : State) (id off : Nat) : Nat := physOf (s.page id off) off
/-- A page entry for a resident page. -/
def pageEntry (dirty pinned : Bool) (frame : Nat) : Word :=
  BitVec.ofNat 64 (2 ^ 63 + 2 ^ 62 + (if dirty then 2 ^ 61 else 0) + (if pinned then 2 ^ 60 else 0)
    + (frame / 2 ^ 20 % 8) * 2 ^ 48 + frame % 2 ^ 20)

/-- The cause of page not present for a byte, if any (R285). -/
def pageFault (s : State) (id off : Nat) : Option Nat :=
  let e := s.page id off
  if !pageValid e then some 0x02 else if !pageRes e then some 0x01 else none

/-- The first byte of a range whose page is not present: its offset and DETAIL. -/
def pageFaultIn (s : State) (id off n : Nat) : Option (Nat × Nat) :=
  match pageFault s id off with
  | some d => some (off, d)
  | none =>
    let last := off + n - 1
    if n = 0 ∨ off / 65536 = last / 65536 then none
    else match pageFault s id (last / 65536 * 65536) with
      | some d => some (last / 65536 * 65536, d)
      | none => none

/-- DIRTY is set, and DIRTYCNT counted, at the first write to a page (R286). -/
def State.touch (s : State) (id off : Nat) : State :=
  let e := s.page id off
  if pageDirty e then s
  else { (s.modBuf id fun b => { b with dirtyCnt := b.dirtyCnt + 1 }) with
         pages := s.pages.set 0 (pageKey id (off / 65536)) (e ||| BitVec.ofNat 64 (2 ^ 61)) }

/-- A byte at its home (R39). -/
def State.homeByte (s : State) (id off : Nat) : Byte := Tab.get 0 s.mem (s.pa id off)
def State.homeBytes (s : State) (id off : Nat) : Nat → List Byte
  | 0 => []
  | n + 1 => s.homeByte id off :: s.homeBytes id (off + 1) n
/-- A little-endian value at its home (R4). -/
def State.homeNat (s : State) (id off n : Nat) : Nat := leNat (s.homeBytes id off n)
def State.setHomeByte (s : State) (id off : Nat) (b : Byte) : State :=
  let s := s.touch id off
  { s with mem := Tab.set 0 s.mem (s.pa id off) b }
def State.setHome (s : State) (id off : Nat) : List Byte → State
  | [] => s
  | b :: bs => (s.setHomeByte id off b).setHome id (off + 1) bs
def State.setHomeNat (s : State) (id off n x : Nat) : State := s.setHome id off (leBytes n x)

/-- The full/empty bit of the word that holds a byte (R44, R274). -/
def State.feAt (s : State) (id off : Nat) : Bool := s.fe.get true (s.pa id off / 8)
def State.parkedAt (s : State) (id off : Nat) : Bool := s.park.get false (s.pa id off / 32)
/-- Setting a full/empty bit; a change in a sector with its parked bit set sends a wake notice (R214). -/
def State.setFeAt (s : State) (id off : Nat) (full : Bool) : State :=
  if s.feAt id off = full then s
  else
    let s := s.touch id off
    let s := { s with fe := s.fe.set true (s.pa id off / 8) full }
    if s.parkedAt id off then { s with notices := s.notices ++ [⟨id, off / 8, full, s.pa id off / 2 ^ 36⟩] } else s

/-- The first poisoned granule of a range, as its offset in the buffer (R277). -/
def State.poisonIn (s : State) (id off : Nat) : Nat → Option Nat
  | 0 => none
  | n + 1 => if s.poison.get false (s.pa id off / 32) then some (off / 32 * 32) else s.poisonIn id (off + 1) n
def State.poisonAt (s : State) (id off : Nat) : Bool := s.poison.get false (s.pa id off / 32)
def State.setPoison (s : State) (id off : Nat) (p : Bool) : State :=
  let s := s.touch id off
  { s with poison := s.poison.set false (s.pa id off / 32) p }

-- The L1 (R55-R57).

/-- The home's byte of a byte key. -/
def State.homeKey (s : State) (k : Nat) : Byte := s.homeByte (k / 2 ^ 40) (k % 2 ^ 40)
/-- The clean bytes that an L1 holds of a list of byte keys take their home's values: a word's clean bytes are always of one
write (R42). -/
def State.renew (s : State) (c : Nat) (ks : List Nat) : State :=
  ks.foldl (fun s k =>
    match (s.lcore c).l1.get none k with
    | some ⟨_, false⟩ => s.modLcore c fun l => { l with l1 := l.l1.set none k (some ⟨s.homeKey k, false⟩) }
    | _ => s) s
/-- The byte keys of the word that holds one. -/
def wordKeys (k : Nat) : List Nat := (List.range 8).map (k / 8 * 8 + ·)

/-- Write back the dirty bytes of a list of byte keys; the rest of their words is renewed. -/
def State.flushKeys (s : State) (c : Nat) : List Nat → State
  | [] => s
  | k :: ks =>
    match (s.lcore c).l1.get none k with
    | some ⟨b, true⟩ =>
      let s := s.setHomeByte (k / 2 ^ 40) (k % 2 ^ 40) b
      ((s.modLcore c fun l => { l with l1 := l.l1.set none k (some ⟨b, false⟩) }).renew c (wordKeys k)).flushKeys c ks
    | _ => s.flushKeys c ks

/-- Every dirty byte of the L1 arrives at its home (R55). -/
def State.writeBackAll (s : State) (c : Nat) : State :=
  (s.flushKeys c ((s.lcore c).l1.filterMap fun e => match e.2 with
    | some ⟨_, true⟩ => some e.1
    | _ => none)).modLcore c fun l => { l with wrote := [] }
/-- The dirty bytes of one 64-byte line (R51, R56). -/
def State.writeBackLine (s : State) (c line : Nat) : State :=
  (s.flushKeys c ((List.range 64).map fun i => line * 64 + i)).modLcore c fun l => { l with wrote := l.wrote.set 0 line 0 }
/-- Bytes leave the L1 but for those of `t`: a line of which none is left has left it, and its next load is a first one (R57). -/
def LCore.leave (l : LCore) (t : Tab (Option L1Byte)) : LCore :=
  { l with l1 := t, roc := l.roc.filter fun e => t.any fun b => b.1 / 64 == e.1 }
/-- Clean lines leave the L1, but for read-only-cacheable ones (R55, R57). Dirty bytes stay. -/
def LCore.invalidate (l : LCore) : LCore :=
  l.leave (l.l1.filter fun e => match e.2 with
    | some ⟨_, d⟩ => d || l.roc.get false (e.1 / 64)
    | none => false)
/-- Drop a range of bytes of a buffer from an L1. -/
def LCore.dropRange (l : LCore) (id off n : Nat) : LCore :=
  l.leave (l.l1.clear (byteKey id off) (byteKey id off + n))
/-- Drop a line whole, after its dirty bytes have gone home together (log 7). -/
def State.evictLine (s : State) (c line : Nat) : State :=
  (s.writeBackLine c line).modLcore c fun l => l.leave (l.l1.clear (line * 64) (line * 64 + 64))

/-- One word of an L1 goes home where it is dirty, and leaves (R43, R51). -/
def State.evictWord (s : State) (c w : Nat) : State :=
  (s.flushKeys c (wordKeys (8 * w))).modLcore c fun l => l.leave (l.l1.clear (8 * w) (8 * w + 8))

/-- Lines a range of byte keys touches. -/
def linesOf (key n : Nat) : List Nat := (List.range ((key + n - 1) / 64 + 1 - key / 64)).map (key / 64 + ·)
/-- Write back the lines of a range (R56, R300). -/
def State.writeBackRange (s : State) (c id off n : Nat) : State :=
  if n = 0 then s else (linesOf (byteKey id off) n).foldl (fun s l => s.writeBackLine c l) s
/-- Before an operation at the home: the lines' dirty bytes go home (R56); after it the words' clean copies go, and what it
writes stands at the home (log 120). -/
def State.atHome (s : State) (c id off n : Nat) : State :=
  let lo := off / 8 * 8
  let hi := (off + n + 7) / 8 * 8
  (s.writeBackRange c id off n).modLcore c fun l => l.dropRange id lo (hi - lo)

/-- The L1 holds every byte of a range. -/
def l1Holds (l : LCore) (key : Nat) : Nat → Bool
  | 0 => true
  | n + 1 => (l.l1.get none key).isSome && l1Holds l (key + 1) n
/-- Fetch the bytes of a line that the L1 does not hold, by whole words: a word that it holds in part keeps its dirty bytes only
(R42, R55). -/
def State.fetchLine (s : State) (c line : Nat) : State :=
  (List.range 8).foldl (fun s w =>
    let k := line * 64 + 8 * w
    if l1Holds (s.lcore c) k 8 then s
    else (wordKeys k).foldl (fun s k =>
      match (s.lcore c).l1.get none k with
      | some ⟨_, true⟩ => s
      | _ => s.modLcore c fun l => { l with l1 := l.l1.set none k (some ⟨s.homeKey k, false⟩) }) s) s
/-- Lines that are ordinary from now on (R57). -/
def LCore.ordinary (l : LCore) (lines : List Nat) : LCore := { l with roc := lines.foldl (fun t x => t.set false x false) l.roc }
/-- Lines held as read-only-cacheable (R57). -/
def LCore.markRoc (l : LCore) (lines : List Nat) : LCore := { l with roc := lines.foldl (fun t x => t.set false x true) l.roc }
def l1Bytes (l : LCore) (key : Nat) : Nat → List Byte
  | 0 => []
  | n + 1 => (match l.l1.get none key with
      | some x => x.b
      | none => 0) :: l1Bytes l (key + 1) n

/-- A plain read through the L1 (R50, R55): a miss fetches the lines; lines read with the read-only-cacheable right are marked
(R57). -/
def State.l1Read (s : State) (c id off n : Nat) (roc : Bool) : List Byte × State :=
  let k := byteKey id off
  let s := if l1Holds (s.lcore c) k n then s else (linesOf k n).foldl (fun s l => s.fetchLine c l) s
  let s := if roc then s.modLcore c fun l => l.markRoc (linesOf k n) else s
  (l1Bytes (s.lcore c) k n, s)

/-- A byte of the L1 becomes dirty: its line is an ordinary one (R57), and its first dirty byte is timed (R51). -/
def LCore.dirty (l : LCore) (now k : Nat) (b : Byte) : LCore :=
  { l with
    l1 := l.l1.set none k (some ⟨b, true⟩)
    roc := l.roc.set false (k / 64) false
    wrote := if l.wrote.get 0 (k / 64) = 0 then l.wrote.set 0 (k / 64) (now + 1) else l.wrote }
/-- A plain write into the L1. -/
def State.l1Write (s : State) (c id off : Nat) : List Byte → State
  | [] => s
  | b :: bs => (s.modLcore c fun l => l.dirty s.now (byteKey id off) b).l1Write c id (off + 1) bs

/-- The deferred write-backs of the regions of a node on one logical core (R66). -/
def State.regionsOf (s : State) (x g n c : Nat) : List Region :=
  s.regions.filter fun r => r.ctx == x && r.graph == g && r.node == n && r.src == c
/-- The dirty bytes of the regions that a strand's node depends on go home from the strand's own core: its first push (R66). -/
def State.regionsHome (s : State) (k : Nat) : State :=
  match (s.strand k).node with
  | none => s
  | some t =>
    let x := s.task t
    if x.spawned then s
    else (s.regionsOf x.ctx x.graph x.node (lcOf k)).foldl (fun s r => s.writeBackRange r.src r.id r.off r.len) s

/-- Bytes that have been dirty for 10.24 µs (16,384 cycles) at a device time arrive at their homes (R51). -/
def State.writeBackAged (s : State) (now : Nat) : State :=
  s.lcores.foldl (fun s e => e.2.wrote.foldl (fun s x => if x.2 + 10_239 ≤ now then s.writeBackLine e.1 x.1 else s) s) s

/-- Every logical core with its number. -/
def State.lcKeys (s : State) : List Nat := s.lcores.map Prod.fst
/-- Drop a page of a buffer from every L1, dirty bytes first going home (R283). -/
def State.flushPage (s : State) (id page : Nat) : State :=
  s.lcKeys.foldl (fun s c =>
    let lo := byteKey id (page * 65536)
    let ks := (s.lcore c).l1.filterMap fun e => if lo ≤ e.1 ∧ e.1 < lo + 65536 then some e.1 else none
    (s.flushKeys c ks).modLcore c fun l => l.dropRange id (page * 65536) 65536) s
/-- Read-only-cacheable lines of a buffer leave every L1 (R57, R279); dirty bytes of such a line stay until they go home. -/
def State.dropRoc (s : State) (id : Nat) : State :=
  s.lcKeys.foldl (fun s c => s.modLcore c fun l =>
    { l with l1 := l.l1.filter (fun e => match e.2 with
                | some ⟨_, true⟩ => true
                | _ => !(e.1 / 2 ^ 40 == id && l.roc.get false (e.1 / 64)))
             roc := l.roc.filter fun e => !(e.1 / 2 ^ 34 == id) }) s

/-- What a release of a scope writes back (R55): core scope does nothing. -/
def State.release (s : State) (c : Nat) (sc : Scope) : State := if sc = .core then s else s.writeBackAll c
/-- An acquire of a scope (R55). -/
def State.acquire (s : State) (c : Nat) (sc : Scope) : State :=
  if sc = .core then s else s.modLcore c LCore.invalidate

-- The local store (R110, R210, R215, R277).

def lsSize : Nat := 0x80000
def LCore.lsBytes (l : LCore) (off n : Nat) : List Byte := Tab.getList 0 l.ls off n
def LCore.lsNat (l : LCore) (off n : Nat) : Nat := leNat (l.lsBytes off n)
def LCore.setLs (l : LCore) (off : Nat) (bs : List Byte) : LCore := { l with ls := l.ls.setList 0 off bs }
def LCore.lsFull (l : LCore) (off : Nat) : Bool := l.lsFe.get true (off / 8)
/-- The first poisoned granule of a local-store range. -/
def LCore.lsPoisonIn (l : LCore) (off : Nat) : Nat → Option Nat
  | 0 => none
  | n + 1 => if l.lsPoison.get false (off / 32) then some (off / 32 * 32) else l.lsPoisonIn (off + 1) n

/-- A waiting form the new bit could satisfy (R214). -/
def Wait.wants (w : Wait) (full : Bool) : Bool :=
  match w with
  | .fe (.ld _ _ _ _ _ _ _) _ _ _ _ => full
  | .fe (.st _ _ _ _ _ _ _) _ _ _ _ => !full
  | _ => false

/-- The space a waiting form accesses. -/
def Wait.isLs (w : Wait) : Bool :=
  match w with
  | .fe (.ld _ _ _ _ _ _ m) _ _ _ _ => m.sp = .ls
  | .fe (.st _ _ _ _ _ _ m) _ _ _ _ => m.sp = .ls
  | _ => false
def Wait.offset : Wait → Nat
  | .fe _ o _ _ _ => o.toNat
  | _ => 0
/-- Readying a strand: one attempt falls due (R211, R214). -/
def Wait.ready : Wait → Wait
  | .fe i o _ _ e => .fe i o 0 false e
  | w => w
/-- A strand that is parked: it makes no attempt until it is woken (R211, R228). -/
def Wait.isParked : Wait → Bool
  | .fe _ _ _ parked _ => parked
  | .bar _ _ parked => parked
  | _ => false

/-- LOCAL_STORE_WAKE: the core's strands that are parked on a word whose bit has changed are readied (R215). -/
def State.wakeLs (s : State) (c word : Nat) (full : Bool) : State :=
  (List.range 5).foldl (fun s k =>
    let w := (s.strand (mkStrand c k)).wait
    if w.isParked && w.isLs && w.offset / 8 == word && w.wants full
    then s.modStrand (mkStrand c k) fun t => { t with wait := t.wait.ready } else s) s

/-- Setting a local-store bit wakes the core's waiters on a change (R215). -/
def State.setLsFe (s : State) (c off : Nat) (full : Bool) : State :=
  if (s.lcore c).lsFull off = full then s
  else (s.modLcore c fun l => { l with lsFe := l.lsFe.set true (off / 8) full }).wakeLs c (off / 8) full

/-- An unconditional fill of a local-store word (R63, R225). -/
def State.fillLs (s : State) (c off : Nat) (v : Nat) : State :=
  (s.modLcore c fun l => l.setLs off (leBytes 8 v)).setLsFe c off true

-- Host memory (R69).

def State.hostBytes (s : State) (a n : Nat) : List Byte := Tab.getList 0 s.hostMem a n
def State.setHost (s : State) (a : Nat) (bs : List Byte) : State := { s with hostMem := Tab.setList 0 s.hostMem a bs }

-- Wide words held as lists.

/-- Word j of a value held little-endian. -/
def wordAt (x j : Nat) : Nat := x / 2 ^ (64 * j) % 2 ^ 64

end Sys2Proof.Machine
end

