-- ==== Sys2Proof/Machine/Failure.lean ====
section
/-! DEFINITION. What the Keystone does under other operations: physical pages and paging (R275, R284), park records
(R213, R216), the graph records it reads (R409-R415), the fault log (R441) and the failure of a node (R439). -/

namespace Sys2Proof.Machine

-- Free choices (log 12).

/-- The next free choice: the one that the state names, else an opaque value. -/
def State.draw (s : State) : Nat × State :=
  match s.hints with
  | [] => ((Config.freeValue s.freeCtr).toNat, { s with freeCtr := s.freeCtr + 1 })
  | h :: t => (h, { s with hints := t })

-- Physical pages (R272, R275, R284).

/-- The lowest key from `n` on that a table of used keys does not list. -/
def lowestFree (t : Tab Bool) (n : Nat) : Nat :=
  match t with
  | [] => n
  | (k, _) :: t => if k = n then lowestFree t (n + 1) else if k < n then lowestFree t n else n

/-- A key of the backing store for a page. -/
def State.pageFrame (s : State) (id off : Nat) : Nat := s.pa id off / 65536

/-- Physical pages that remain (R272): 8 Piers of 2^20, less those in use. -/
def State.framesLeft (s : State) : Nat := 2 ^ 23 - s.frames.length
/-- A physical page is in use. -/
def State.takeFrame (s : State) (f : Nat) : State := { s with frames := s.frames.set false f true }
/-- Allocating a physical page: every byte 0, every bit full, no park mark, no poison (R275). A free choice names it (log 10). -/
def State.newFrame (s : State) : Nat × State :=
  let (r, s) := s.draw
  let r := r % 2 ^ 23
  let f := if s.frames.get false r then lowestFree s.frames 0 else r
  (f, s.takeFrame f)

/-- A freed page keeps nothing (R275). -/
def State.dropFrame (s : State) (f : Nat) : State :=
  { s with
    frames := s.frames.set false f false
    mem := Tab.clear s.mem (f * 65536) (f * 65536 + 65536)
    fe := s.fe.clear (f * 8192) (f * 8192 + 8192)
    poison := s.poison.clear (f * 2048) (f * 2048 + 2048)
    park := s.park.clear (f * 2048) (f * 2048 + 2048) }

/-- The page map entry of a page. -/
def State.setPage (s : State) (id page : Nat) (e : Word) : State := { s with pages := s.pages.set 0 (pageKey id page) e }

/-- A page of a buffer stands at a physical page. -/
def State.mapPage (s : State) (id page : Nat) (pinned : Bool) (f : Nat) : State :=
  (s.modBuf id fun b => { b with resident := b.resident + 1 }).setPage id page (pageEntry false pinned f)
/-- Allocate a page of a buffer (R275). -/
def State.allocPage (s : State) (id page : Nat) (pinned : Bool) : State :=
  let (f, s) := s.newFrame
  s.mapPage id page pinned f

/-- Allocate the pages `first` to `first + n - 1`. -/
def State.allocPages (s : State) (id : Nat) (pinned : Bool) : Nat → Nat → State
  | _, 0 => s
  | first, n + 1 => (s.allocPage id first pinned).allocPages id pinned (first + 1) n

/-- Shift a slice of a table to start at 0. -/
def slice {α : Type} (t : Tab α) (lo n : Nat) : Tab α :=
  (t.filter fun e => decide (lo ≤ e.1) && decide (e.1 < lo + n)).map fun e => (e.1 - lo, e.2)
def unslice {α : Type} [DecidableEq α] (d : α) (t : Tab α) (lo : Nat) (x : Tab α) : Tab α :=
  x.foldl (fun t e => t.set d (lo + e.1) e.2) t

/-- The page-out record of a resident page (R284). -/
def State.pageRec (s : State) (f : Nat) : PageRec :=
  { data := slice s.mem (f * 65536) 65536, fe := slice s.fe (f * 8192) 8192,
    park := slice s.park (f * 2048) 2048, poison := slice s.poison (f * 2048) 2048 }
/-- Restore a page-out record into a fresh physical page. -/
def State.putRec (s : State) (f : Nat) (r : PageRec) : State :=
  { s with
    mem := unslice 0 s.mem (f * 65536) r.data
    fe := unslice true s.fe (f * 8192) r.fe
    park := unslice false s.park (f * 2048) r.park
    poison := unslice false s.poison (f * 2048) r.poison }

-- RCBs (R414) and the pages a context holds (R416; log 58).

def Ctx.rcb (c : Ctx) (k w : Nat) : Word := c.rcbs.get 0 (k * 8 + w)
def Ctx.setRcb (c : Ctx) (k w : Nat) (v : Word) : Ctx := { c with rcbs := c.rcbs.set 0 (k * 8 + w) v }
/-- PAGESUSED of some RCBs of a context changes by one page (R416). -/
def Ctx.pagesUsed (c : Ctx) (rs : List Nat) (f : Nat → Nat) : Ctx :=
  rs.foldl (fun c r => c.setRcb r 5 ((c.rcb r 5).put 31 0 (f ((c.rcb r 5).bits 31 0)))) c
/-- PAGESUSED of the context RCB, and of the other RCBs that a page counts against, follows the pages that a context's buffers hold
(R416). -/
def State.pagesUsed (s : State) (id : Nat) (rs : List Nat) (f : Nat → Nat) : State :=
  let b := s.buf id
  if b.driver || b.own then s else s.modCtx b.context fun c => c.pagesUsed (0 :: rs) f

/-- A page of a buffer can be brought in: a physical page is free, and PAGESUSED stays within PAGES in the context RCB and in the other
RCBs that it would count against (R416). -/
def State.pageRoom (s : State) (id : Nat) (rs : List Nat) : Bool :=
  let b := s.buf id
  let c := s.ctx b.context
  decide (0 < s.framesLeft) &&
    (b.driver || b.own || (0 :: rs).all fun r => decide ((c.rcb r 5).bits 31 0 < (c.rcb r 1).bits 31 0))

/-- Page a page out (R284): accesses are flushed, RESIDENT clears, the record goes to the backing store. FRAME then holds the buffer ID
and the page number as the record's index (log 92). -/
def State.pageOut (s : State) (id page : Nat) : State :=
  let e := s.page id (page * 65536)
  if pageValid e ∧ pageRes e ∧ !pagePinned e then
    let s := s.flushPage id page
    let e := s.page id (page * 65536)
    let f := s.pa id (page * 65536) / 65536
    let r := s.pageRec f
    let key := pageKey id page
    let e' := BitVec.ofNat 64 (2 ^ 63 + (if pageDirty e then 2 ^ 61 else 0) + key % 2 ^ 48)
    let s := { s with backing := s.backing.set {} key r }
    let rs := s.pageFor.get [] key
    let s := { s with pageFor := s.pageFor.set [] key [] }
    (((s.dropFrame f).modBuf id fun b => { b with resident := b.resident - 1 }).setPage id page e').pagesUsed id rs (· - 1)
  else s

/-- Page a page in (R284), counted against the context RCB and `rs` (R416). -/
def State.pageIn (s : State) (id page : Nat) (rs : List Nat) : State :=
  let e := s.page id (page * 65536)
  if pageValid e ∧ !pageRes e then
    let r := s.backing.get {} (pageKey id page)
    let (f, s) := s.newFrame
    let s := (s.putRec f r)
    let s := { s with backing := s.backing.set {} (pageKey id page) {}, pageFor := s.pageFor.set [] (pageKey id page) rs }
    ((s.modBuf id fun b => { b with resident := b.resident + 1 }).setPage id page
      (pageEntry (pageDirty e) (pagePinned e) f)).pagesUsed id rs (· + 1)
  else s

-- What the Keystone itself reads and writes: at the home, in host memory, or, of a page that is out, in its record (R284, R455; log 58).

/-- One byte of a buffer. -/
def State.fwByte (s : State) (id off : Nat) : Byte :=
  let e := s.page id off
  if pageRes e then Tab.get 0 s.mem (physOf e off)
  else if pageValid e then (s.backing.get {} (pageKey id (off / 65536))).data.get 0 (off % 65536) else 0
/-- The host address of a byte of a buffer in host memory (R278). -/
def State.fwHost (s : State) (id off : Nat) : Nat := ((s.buf id).pmap.toNat + off) % 2 ^ 64
/-- A little-endian value. -/
def State.fwNat (s : State) (id off n : Nat) : Nat :=
  leNat (if (s.buf id).host then s.hostBytes (s.fwHost id off) n else (List.range n).map fun i => s.fwByte id (off + i))
def State.fwWord (s : State) (id off : Nat) : Word := BitVec.ofNat 64 (s.fwNat id off 8)
/-- Writing one byte of a device buffer; its page becomes dirty (R286). -/
def State.fwSetByte (s : State) (id off : Nat) (b : Byte) : State :=
  let e := s.page id off
  if pageRes e then s.setHomeByte id off b
  else if pageValid e then
    let s := s.touch id off
    let key := pageKey id (off / 65536)
    let r := s.backing.get {} key
    { s with backing := s.backing.set {} key { r with data := r.data.set 0 (off % 65536) b } }
  else s
def State.fwSetDev (s : State) (id off : Nat) : List Byte → State
  | [] => s
  | b :: bs => (s.fwSetByte id off b).fwSetDev id (off + 1) bs
def State.fwSet (s : State) (id off : Nat) (bs : List Byte) : State :=
  if (s.buf id).host then s.setHost (s.fwHost id off) bs else s.fwSetDev id off bs
def State.fwSetNat (s : State) (id off n x : Nat) : State := s.fwSet id off (leBytes n x)

/-- Release a page of a buffer that is being freed. -/
def State.freePage (s : State) (id page : Nat) : State :=
  let e := s.page id (page * 65536)
  let s := if pageValid e && pageRes e then s.dropFrame (s.pa id (page * 65536) / 65536) else s
  { s with pages := s.pages.set 0 (pageKey id page) 0, backing := s.backing.set {} (pageKey id page) {},
           pageFor := s.pageFor.set [] (pageKey id page) [] }

-- Park records (R213, R216).

/-- Record index of a strand in its context's park table: 5 × L + k (R213). -/
def parkIdx (k : Nat) : Nat := coreOfLc (lcOf k) * 5 + numOf k
/-- NEXT at the end of a list (R213). -/
def noNext : Nat := 0xFFFF_FFFF
/-- What a stored word of a park record is offset by: NEXT of a record that nothing has written reads 0xFFFF_FFFF (R213). -/
def parkReset (w : Nat) : Word := if w = 1 then 0xFFFF_FFFF_0000_0000 else 0
def Ctx.parkWord (c : Ctx) (j w : Nat) : Word := c.park.get 0 (j * 4 + w) ^^^ parkReset w
def Ctx.setParkWord (c : Ctx) (j w : Nat) (v : Word) : Ctx := { c with park := c.park.set 0 (j * 4 + w) (v ^^^ parkReset w) }
def Ctx.parkValid (c : Ctx) (j : Nat) : Bool := (c.parkWord j 0).getLsbD 0
/-- Two park records of one sector (32 bytes of one buffer). -/
def sameSector (a b : Word) : Bool := a.bits 63 40 == b.bits 63 40 && a.bits 39 5 == b.bits 39 5
/-- Valid record numbers of a context's park table, in order. -/
def Ctx.parked (c : Ctx) : List Nat :=
  (c.park.filter fun e => e.1 % 4 == 0 && e.2.getLsbD 0).map fun e => e.1 / 4


/-- Unlink a record from its sector's list and write VALID 0 (R214); its NEXT says the end, and its other words stay (log 140). -/
def Ctx.unlink (c : Ctx) (j : Nat) : Ctx :=
  let nx := (c.parkWord j 1).bits 63 32
  let c := c.parked.foldl (fun c i =>
    if (c.parkWord i 1).bits 63 32 = j ∧ i ≠ j then c.setParkWord i 1 ((c.parkWord i 1).put 63 32 nx) else c) c
  (c.setParkWord j 0 ((c.parkWord j 0).put 0 0 0)).setParkWord j 1 ((c.parkWord j 1).put 63 32 noNext)

/-- Does any context hold a park record in a sector? -/
def State.sectorParked (s : State) (w0 : Word) : Bool :=
  s.ctxs.any fun e => e.2.parked.any fun j => sameSector (e.2.parkWord j 0) w0

/-- The parked bit of a sector: it lies with its page, resident or in the backing store (R274, R284). -/
def State.setParkBit (s : State) (id off : Nat) (b : Bool) : State :=
  let e := s.page id off
  if pageValid e && !pageRes e then
    let key := pageKey id (off / 65536)
    let r := s.backing.get {} key
    { s with backing := s.backing.set {} key { r with park := r.park.set false (off % 65536 / 32) b } }
  else { s with park := s.park.set false (s.pa id off / 32) b }

/-- Unlink a strand's park record, clearing the sector's parked bit once its list is empty (R214, R216). -/
def State.unpark (s : State) (k : Nat) : State :=
  let x := ctxOf k
  let j := parkIdx k
  if (s.ctx x).parkValid j then
    let w0 := (s.ctx x).parkWord j 0
    let s := s.modCtx x fun c => c.unlink j
    if s.sectorParked w0 then s
    else s.setParkBit (w0.bits 63 40) (w0.bits 39 3 * 8) false
  else s

/-- Park a strand on a word of a buffer (R213): its record, linked at the end of the sector's list (log 140: the model's choice), and the
sector's parked bit. -/
def State.parkStrand (s : State) (k id off form mask : Nat) (data : Nat) : State :=
  let x := ctxOf k
  let j := parkIdx k
  let w0 := BitVec.ofNat 64 (id * 2 ^ 40 + off / 8 % 2 ^ 37 * 8 + form * 2 + 1)
  let w1 := BitVec.ofNat 64 (noNext * 2 ^ 32 + mask * 2 ^ 24 + numOf k * 2 ^ 16 + coreOfLc (lcOf k))
  let s := s.unpark k
  let s := s.modCtx x fun c =>
    let c := c.parked.foldl (fun c i =>
      if sameSector (c.parkWord i 0) w0 ∧ (c.parkWord i 1).bits 63 32 = noNext
      then c.setParkWord i 1 ((c.parkWord i 1).put 63 32 j) else c) c
    (((c.setParkWord j 0 w0).setParkWord j 1 w1).setParkWord j 2 s.devTime).setParkWord j 3 (BitVec.ofNat 64 data)
  s.setParkBit id off true

/-- A freeze, a pre-emption or a switch abandons the word a strand waits on (R216). -/
def State.abandon (s : State) (k : Nat) : State := (s.unpark k).modStrand k fun t => { t with wait := .none }
/-- Stores that waited for the send buffer of logical core c issue again (R230). -/
def State.readySenders (s : State) (c : Nat) : State :=
  (List.range 5).foldl (fun s k =>
    match (s.strand (mkStrand c k)).wait with
    | .send _ => s.modStrand (mkStrand c k) fun t => { t with wait := .none }
    | _ => s) s
/-- What an agent has read early is taken up, or forgotten. -/
def State.forget (s : State) (a : Agent) : State :=
  if s.apart.early = [] then s else { s with apart := { s.apart with early := s.apart.early.filter fun x => x.who != a } }
/-- A strand leaves its node and becomes idle. -/
def State.idleStrand (s : State) (k : Nat) : State :=
  ((s.abandon k).forget (.strand k)).modStrand k fun t =>
    { t with node := none, iter := none, switchPending := false, drainAt := none, drainFor := none }

-- Graph records (R409, R410, R412, R414).

/-- The module buffer ID of a buffer index of a context (R464). -/
def Ctx.bufOf (c : Ctx) (idx : Nat) : Nat :=
  match c.bufIds[idx - 1]? with
  | some (id, _, _) => if idx = 0 then 0 else id
  | none => 0
def State.graphBuf (s : State) (x g : Nat) : Nat := (s.ctx x).bufOf ((s.ctx x).graphs.getD g 0)
def State.graphWord (s : State) (x g off : Nat) : Word := s.fwWord (s.graphBuf x g) off
/-- NNODES (R409). -/
def State.nnodes (s : State) (x g : Nat) : Nat := (s.graphWord x g 0).bits 63 32
/-- Word w of node record n (R409, R410). -/
def State.nodeWord (s : State) (x g n w : Nat) : Word := s.graphWord x g ((s.graphWord x g 8).toNat + 128 * n + 8 * w)
/-- Words of out-edge i of a node (R412). -/
def State.edgeWord (s : State) (x g n i : Nat) : Word := s.graphWord x g ((s.nodeWord x g n 5).bits 31 0 + 16 * i)
def State.nout (s : State) (x g n : Nat) : Nat := (s.nodeWord x g n 5).bits 47 32
/-- The dependants of a node (R412). -/
def State.dsts (s : State) (x g n : Nat) : List Nat :=
  (List.range (s.nout x g n)).map fun i => (s.edgeWord x g n i).bits 63 48

/-- Offset of a node's buffer list in its graph buffer, and its entries (R410). -/
def State.bufOff (s : State) (x g n j : Nat) : Nat := (s.nodeWord x g n 4).bits 63 32 + 16 * j
def State.nbuf (s : State) (x g n : Nat) : Nat := (s.nodeWord x g n 0).bits 52 48
def State.bufEntry (s : State) (x g n j : Nat) : Cap :=
  if j < s.nbuf x g n then BitVec.ofNat 128 (s.fwNat (s.graphBuf x g) (s.bufOff x g n j) 16) else 0
def State.setBufEntry (s : State) (x g n j : Nat) (c : Cap) : State :=
  s.fwSetNat (s.graphBuf x g) (s.bufOff x g n j) 16 c.toNat
/-- Subscription record i of a node: its stream image, control words and capability (R292). -/
def State.subRecord (s : State) (x g n i : Nat) : Stream × List Word :=
  let o := (s.nodeWord x g n 4).bits 31 0 + 64 * i
  (BitVec.ofNat 256 (s.fwNat (s.graphBuf x g) o 32),
   (List.range 4).map fun j => s.graphWord x g (o + 32 + 8 * j))

/-- Every node of a context, by graph and number. -/
def State.graphNodes (s : State) (x : Nat) : List (Nat × Nat) :=
  (List.range (s.ctx x).graphs.length).flatMap fun g => (List.range (s.nnodes x g)).map fun n => (g, n)
def dedup {α : Type} [BEq α] (l : List α) : List α := l.foldl (fun acc x => if acc.contains x then acc else acc ++ [x]) []
/-- The places of the buffer-list entries of a context, each once however many nodes share it: buffer and offset (R410). -/
def State.listPlaces (s : State) (x : Nat) : List (Nat × Nat) :=
  dedup ((s.graphNodes x).flatMap fun e =>
    (List.range (s.nbuf x e.1 e.2)).map fun j => (s.graphBuf x e.1, s.bufOff x e.1 e.2 j))

-- References (R280; log 52).

/-- The copies of a buffer's {ID, GEN} in the context images that FREEZE has written into other buffers (R280, R463). -/
def State.imageRefs (s : State) (id : Nat) : Nat :=
  ((s.bufs.filter fun e => e.1 != id).map fun e => ((e.2.images.flatMap Prod.snd).filter (· == id)).length).sum
/-- REFCNT of a buffer (R280): the driver's reference, or the Keystone's own; the context images that name it; and of each context the
entries of its launch record, the capability copies in its node buffer lists, and its subscriptions. -/
def State.refCount (s : State) (id : Nat) : Nat :=
  (if (s.buf id).driver then 1 else 0) + (if (s.buf id).own then 1 else 0) + s.imageRefs id + (s.ctxs.map fun e =>
    match (e.2.bufIds.filter fun b => b.1 == id).length with
    | 0 => 0
    | n => n + ((s.listPlaces e.1).filter fun p => Cap.id (BitVec.ofNat 128 (s.fwNat p.1 p.2 16)) == id).length
        + (s.subs.filter fun (u : Sub) => ctxOfLc u.lcore == e.1 && u.cap.id == id).length).sum
/-- REFCNT of the buffers of a context follows what holds them. -/
def State.recount (s : State) (x : Nat) : State :=
  (s.ctx x).bufIds.foldl (fun s b => s.modBuf b.1 fun r => { r with refCnt := s.refCount b.1 }) s

-- The fault log (R441).

/-- Write a fault-log record whole and then advance the head count: in the context's ring, and in the fault-log buffer when
the image names one. -/
def State.logFault (s : State) (t reason core detail : Nat) : State :=
  let k := s.task t
  let c := s.ctx k.ctx
  let ws : List Word :=
    [BitVec.ofNat 64 (k.ident % 2 ^ 32 * 2 ^ 32 + k.node % 65536 * 65536 + reason * 256 + k.graph % 256),
     BitVec.ofNat 64 (k.fdom % 65536 * 2 ^ 48 + core % 512 * 2 ^ 32 + detail % 2 ^ 32), s.devTime, 0]
  let j := c.faultHead % 256
  let c' := { c with faultLog := c.faultLog.setList 0 (j * 4) ws, faultHead := (c.faultHead + 1) % 2 ^ 64 }
  let s := s.setCtx k.ctx c'
  if c.logIdx = 0 then s
  else
    let id := c.bufOf c.logIdx
    let s := s.fwSet id (c.logOff + 32 * j) (ws.flatMap fun w => leBytes 8 w.toNat)
    s.fwSetNat id (c.logOff + 8192) 8 (c.faultHead + 1)

-- Failure (R439).

/-- The tasks of a context. -/
def State.tasksOf (s : State) (x : Nat) : List Nat :=
  (s.tasks.filter fun e => e.2.ctx == x && e.2.st != .free).map Prod.fst
def TaskSt.live : TaskSt → Bool
  | .waiting | .ready | .running => true
  | _ => false
/-- The strands that hold a task. -/
def State.holders (s : State) (t : Nat) : List Nat :=
  (s.strands.filter fun e => e.2.node == some t).map Prod.fst

/-- Freeing an entry advances its generation (R418). -/
def State.freeTask (s : State) (t : Nat) : State := s.modTask t fun k => { gen := (k.gen + 1) % 65536 }

/-- Mark a task FAILED: its strands stop, its entries and subscriptions cease, its version is dropped, and the entries that the
version reserved for children are free again (R185). -/
def State.markFailed (s : State) (t : Nat) : State :=
  let s := (s.task t).ver.spawns.foldl (fun s u => s.freeTask u) s
  let s := (s.holders t).foldl (fun s k => s.idleStrand k) s
  let s := { s with
    entries := s.entries.filter fun e => e.task != t
    saved := s.saved.filter fun e => e.2.node != some t
    regions := s.regions.filter fun (r : Region) =>
      (s.task t).spawned || !(r.ctx == (s.task t).ctx && r.graph == (s.task t).graph && r.node == (s.task t).node)
    subs := s.subs.map fun (u : Sub) => if u.task == t then { u with stopped := true } else u }
  s.modTask t fun k => { k with st := .failed, ver := {}, parts := k.parts.map fun p => { p with active := 0, starts := 0 } }

/-- Tasks that depend directly on one of a list of tasks and are not yet in it. -/
def State.dependants (s : State) (x : Nat) (failed : List Nat) : List Nat :=
  (s.tasksOf x).filter fun u =>
    let k := s.task u
    !failed.contains u && k.st.live && !k.spawned &&
      failed.any fun f => let m := s.task f; !m.spawned && m.graph == k.graph && (s.dsts x m.graph m.node).contains k.node
/-- Close a list of failed tasks under dependence; the number of tasks bounds the rounds. -/
def State.closeFailed (s : State) (x : Nat) : Nat → List Nat → List Nat
  | 0, l => l
  | n + 1, l =>
    match s.dependants x l with
    | [] => l
    | more => s.closeFailed x n (l ++ more)

/-- An entry that a versioned task has reserved for a child, which is no task before the commit (R185). -/
def Task.reserved (k : Task) : Bool := k.spawned && k.st == .waiting

/-- NODE_FAILURE (R439): the failing task, every task of its fault domain and every dependant fail, with one record each. -/
def State.failNode (s : State) (t reason core detail : Nat) : State :=
  let k := s.task t
  let same := (s.tasksOf k.ctx).filter fun u =>
    u != t && (s.task u).fdom == k.fdom && (s.task u).st.live && !(s.task u).reserved
  let all := s.closeFailed k.ctx s.tasks.length (t :: same)
  let s := s.markFailed t
  let s := s.logFault t reason core detail
  (all.filter (· != t)).foldl (fun s u => (s.markFailed u).logFault u 0x06 core k.ident) s

end Sys2Proof.Machine
end

