-- ==== Sys2Proof/Machine/Ops.lean ====
section
/-! DEFINITION. The named operations every instruction is built from: registers (R108, R109), the end check and
retirement (R179), taking a trap and returning from one (R195, R198, R199), and the checks before a word's own
effect (R125, R126). -/

namespace Sys2Proof.Machine

-- Registers (R107-R109).

/-- s0 reads 0 (R108). -/
def Strand.rsN (t : Strand) (r : Nat) : Word := if r = 0 then 0 else t.s.get 0 r
def Strand.rs (t : Strand) (r : SR) : Word := t.rsN r.toNat
/-- A write to s0 is discarded (R108). -/
def Strand.wsN (t : Strand) (r : Nat) (v : Word) : Strand := if r = 0 then t else { t with s := t.s.set 0 r v }
def Strand.ws (t : Strand) (r : SR) (v : Word) : Strand := t.wsN r.toNat v
/-- One bit of a predicate; p0 reads all ones (R108). -/
def Strand.rpBit (t : Strand) (p : PR) (e : Nat) : Bool :=
  if p = 0 then true else (t.p.get 0 p.toNat).getLsbD e
def allOnes : Pred := BitVec.allOnes 1024
def Strand.rp (t : Strand) (p : PR) : Pred := if p = 0 then allOnes else t.p.get 0 p.toNat
/-- A write to p0 is discarded (R108). -/
def Strand.wp (t : Strand) (p : PR) (v : Pred) : Strand :=
  if p = 0 then t else { t with p := t.p.set 0 p.toNat v }
/-- All ones or all zeros (R162). -/
def splat (b : Bool) : Pred := if b then allOnes else 0
/-- A narrow value: bits w-1:0, the rest zero (R109). -/
def low (w : Nat) (x : Word) : Nat := x.toNat % 2 ^ w
def Strand.lcGet (t : Strand) (n : Nat) : Word := t.lc.get 0 n
def Strand.lcSet (t : Strand) (n : Nat) (v : Word) : Strand := { t with lc := t.lc.set 0 n v }
def Strand.cap (t : Strand) (b : BitVec 4) : Cap := t.b.get 0 b.toNat

-- Vector and accumulator elements (R109).

def Strand.rv (t : Strand) (r e : Nat) : BitVec 32 := t.v.get 0 (r * 1024 + e)
def Strand.wv (t : Strand) (r e : Nat) (x : BitVec 32) : Strand := { t with v := t.v.set 0 (r * 1024 + e) x }
/-- Element e of type `ty`: its w bits, from a pair when w is 64 (R109). -/
def Strand.elem (t : Strand) (ty : Ty) (r : VR) (e : Nat) : Nat :=
  if ty.is64 then (t.rv r.toNat e).toNat + 2 ^ 32 * (t.rv (r.toNat + 1) e).toNat
  else (t.rv r.toNat e).toNat % 2 ^ ty.width
/-- Writing element e of type `ty`, bits 31:w zero (R109). -/
def Strand.setElem (t : Strand) (ty : Ty) (r : VR) (e x : Nat) : Strand :=
  if ty.is64 then (t.wv r.toNat e (BitVec.ofNat 32 x)).wv (r.toNat + 1) e (BitVec.ofNat 32 (x / 2 ^ 32))
  else t.wv r.toNat e (BitVec.ofNat 32 (x % 2 ^ ty.width))
def Strand.acc (t : Strand) (r : AR) (e : Nat) : Word := t.a.get 0 (r.toNat * 1024 + e)
def Strand.setAcc (t : Strand) (r : AR) (e : Nat) (x : Word) : Strand :=
  { t with a := t.a.set 0 (r.toNat * 1024 + e) x }

-- The zero-overhead loops (R177-R179).

def lcLen (w : Word) : Nat := w.bits 63 56
def lcStart (w : Word) : Nat := w.bits 55 32
def lcCount (w : Word) : Nat := w.bits 31 0
/-- A counter whose body ends at word index w (R179). -/
def lcHit (x : Word) (w : Nat) : Bool := decide (lcCount x ≠ 0) && decide (lcStart x + lcLen x = w)

/-- LOOP_END_CHECK for one counter that hits (R179). -/
def Strand.loopBack (t : Strand) (n : Nat) : Strand :=
  let x := t.lcGet n
  if 1 < lcCount x then { t.lcSet n (x - 1) with pc := BitVec.ofNat 64 (lcStart x * 8) }
  else { t.lcSet n (x.put 31 0 0) with pc := t.pc + 8 }

/-- The end check of R179, after a word that leaves the next offset at its own plus 8. -/
def Strand.advance (t : Strand) : Strand :=
  let w := t.pc.toNat / 8
  if lcHit (t.lcGet 0) w then t.loopBack 0
  else if lcHit (t.lcGet 1) w then t.loopBack 1
  else if lcHit (t.lcGet 2) w then t.loopBack 2
  else { t with pc := t.pc + 8 }

/-- The word retires: the strand's new registers, the end check, the next offset. -/
def State.retire (s : State) (t : Strand) : Out := .next (s.setStrand s.cur { t with wait := .none }.advance)
/-- The word retires at an offset of its own, with no end check (R179). -/
def State.retireTo (s : State) (t : Strand) (pc : Word) : Out :=
  .next (s.setStrand s.cur { t with wait := .none, pc := pc })
/-- The word waits: it has had no effect and stands at its offset (R103). -/
def State.waitOn (s : State) (w : Wait) : Out := .next (s.modStrand s.cur fun t => { t with wait := w })

-- Traps (R195, R198, R199).

/-- DOUBLE_TRAP (R198): the strand stops, and the Keystone ends its node; no trap register changes. -/
def State.doubleTrap (s : State) (k code : Nat) : State :=
  let t := s.strand k
  let s := (s.abandon k).modStrand k fun t => { t with stopped := true }
  match t.node with
  | some n => s.failNode n 0x01 (coreOfLc (lcOf k)) code
  | none => s

/-- TRAP_ENTRY (R195) on strand k: the trap registers, supervisor privilege, the offset in TRAPVEC. -/
def State.takeTrap (s : State) (k code detail : Nat) (pcv val : Word) : State :=
  let t := s.strand k
  if t.inTrap then s.doubleTrap k code
  else
    (s.unpark k).setStrand k
      { t with
        wait := .none
        trapCause := BitVec.ofNat 64 (detail % 256 * 256 + code % 256)
        trapPc := pcv
        trapVal := val
        trapStat := t.status
        status := t.status ||| 0xC00
        pc := (s.lcore (lcOf k)).trapVec }

/-- The issuing strand's word traps (R196): it has had no effect. -/
def State.raise (s : State) (code detail : Nat) (val : Word) : Out :=
  .next (s.takeTrap s.cur code detail (s.strand s.cur).pc val)

-- The checks before a word's own effect (R125, R126).

/-- The guard of a word that is not element-wise: bit 0 of p[G] XOR N (R125). -/
def Strand.guard (t : Strand) (g : Guard) : Bool := t.rpBit g.p 0 != g.n
/-- The elements a V word acts on: p[G] XOR N (R125). -/
def Strand.mask (t : Strand) (g : Guard) : Pred := if g.n then ~~~(t.rp g.p) else t.rp g.p

/-- Which strands may run a major (R126 step 4). -/
inductive Who where
  | any | task | handler
  deriving DecidableEq, Repr

def Who.ok (w : Who) (k : Nat) : Bool :=
  match w with
  | .any => true
  | .task => !isHandler k
  | .handler => isHandler k

/-- The instruction's own word, for TRAPVAL (R114). -/
def wordOf (i : Instr) : Word := (encode i).getD 0

/-- R126 steps 4 and 5 for a word with the whole-instruction guard, then its own effect. -/
def State.run (s : State) (i : Instr) (g : Guard) (who : Who) (body : Strand → Out) : Out :=
  if !who.ok s.cur then s.raise 0x01 4 (wordOf i)
  else if !(s.strand s.cur).guard g then s.retire (s.strand s.cur)
  else body (s.strand s.cur)

/-- R126 steps 4 and 5 for a word whose elements the guard selects. -/
def State.runV (s : State) (i : Instr) (g : Guard) (body : Strand → Pred → Out) : Out :=
  if isHandler s.cur then s.raise 0x01 4 (wordOf i)
  else
    let m := (s.strand s.cur).mask g
    if m = 0 then s.retire (s.strand s.cur) else body (s.strand s.cur) m

/-- A scalar word whose only effect is on its strand's registers. -/
def State.pure (s : State) (i : Instr) (g : Guard) (who : Who) (f : Strand → Strand) : Out :=
  s.run i g who fun t => s.retire (f t)

/-- The versioned task a strand runs, if any (R287). -/
def Strand.version (t : Strand) : Option Nat := if t.versioned then t.node else none

end Sys2Proof.Machine
end

