-- ==== Sys2Proof/Machine/Flags.lean ====
section
/-! DEFINITION. Conditions (R140) and the floating-point flags of a strand (R81, R116, R167). -/

namespace Sys2Proof.Machine

/-- The integer conditions of R140 on two 64-bit values. -/
def Cond.holdsInt (c : Cond) (a b : Word) : Bool :=
  match c with
  | .eq => a == b
  | .ne => a != b
  | .lt => a.slt b
  | .le => a.sle b
  | .gt => b.slt a
  | .ge => b.sle a
  | .ltu => a.ult b
  | .leu => a.ule b
  | .gtu => b.ult a
  | .geu => b.ule a
  | _ => false

/-- The conditions of the F field: signed for cmpi, unsigned for cmpiu (R140). -/
def CondI.toCond (signed : Bool) : CondI → Cond
  | .eq => .eq
  | .ne => .ne
  | .lt => if signed then .lt else .ltu
  | .le => if signed then .le else .leu
  | .gt => if signed then .gt else .gtu
  | .ge => if signed then .ge else .geu

/-- The floating-point conditions of R140 with the NV of R171. -/
def Cond.holdsFp (c : Cond) (a b : Num.Val) : Bool × Num.Flags :=
  let un := a.isNan || b.isNan
  let sn := Num.snanFl [a, b]
  let qn : Num.Flags := if un then Num.NV else 0
  match c with
  | .feq => (Num.eqVal a b, sn)
  | .fne => (!Num.eqVal a b, sn)
  | .flt => (Num.ltVal a b, qn)
  | .fle => (Num.ltVal a b || Num.eqVal a b, qn)
  | .fgt => (Num.ltVal b a, qn)
  | .fge => (Num.ltVal b a || Num.eqVal a b, qn)
  | .fun_ => (un, sn)
  | .for_ => (!un, sn)
  | _ => (false, 0)

/-- Conditions on integer elements, signed or unsigned as the type says (R251). -/
def Cond.holdsElem (c : Cond) (a b : Int) : Bool :=
  match c with
  | .eq => a == b
  | .ne => a != b
  | .lt => decide (a < b)
  | .le => decide (a ≤ b)
  | .gt => decide (b < a)
  | .ge => decide (b ≤ a)
  | _ => false

/-- FPCTL fields (R116). -/
def Strand.rm (t : Strand) : Num.Mode := Num.Mode.ofBits (t.fpctl.bits 13 12)
def Strand.en (t : Strand) : Num.Flags := t.fpctl.extractLsb' 5 5
def Strand.orFlags (t : Strand) (f : Num.Flags) : Strand := { t with fpctl := t.fpctl ||| f.zeroExtend 64 }
/-- The mode of an instruction (R137). -/
def Strand.mode (t : Strand) (rc : Rc) : Num.Mode := Num.Mode.ofRc t.rm rc

/-- Delivering a floating-point result: an enabled flag raises FP exception (0x07) and nothing is written; otherwise the
flags gather in FPCTL.FLAGS (R81, R167). -/
def State.deliver (s : State) (t : Strand) (w : Word) (fl : Num.Flags) (f : Strand → Strand) : Out :=
  if fl &&& t.en ≠ 0 then s.raise 0x07 (fl &&& t.en).toNat w
  else s.retire ((f t).orFlags fl)

end Sys2Proof.Machine
end

