-- ==== Sys2Proof/Machine/Operands.lean ====
section
/-! DEFINITION. Operand forms: the effective offset (R201), the place of an access and the checks it passes (R203-R206,
R232, R341), and the element operands of vector words (R142, R248). -/

namespace Sys2Proof.Machine

/-- The effective offset of an M word (R131, R201). -/
def Strand.offset (t : Strand) (m : MemOp) : Word := (t.rs m.idx <<< m.sc.toNat) + m.disp.signExtend 64

/-- What an access reaches once its checks have passed. -/
inductive Place where
  | dev (id off : Nat) (roc : Bool)
  | ls (off : Nat)
  | rx (off : Nat)
  | host (addr : Nat)
  deriving DecidableEq, Repr

/-- A trap: code, DETAIL, TRAPVAL. -/
structure Trap where
  code : Nat
  detail : Nat
  val : Word
  deriving DecidableEq, Repr

def State.raiseT (s : State) (x : Trap) : Out := s.raise x.code x.detail x.val

/-- The journal range of a logical core whose queues 1 to 3 are present (R341). -/
def State.inJournal (s : State) (c off n : Nat) : Bool :=
  let jb := (s.ctx (ctxOfLc c)).jbase
  decide (off < jb + 0x6000) && decide (jb < off + n)

/-- Presence of a queue on the core that hosts a logical core (R16, R27). -/
def State.queuePresent (s : State) (c q : Nat) : Bool :=
  let l := s.lcore c
  let d := s.pkg.dies.get {} l.die
  match q with
  | 0 => true
  | 1 | 2 | 3 =>
    decide (3 ≤ l.die) && decide (l.die ≤ 10) && d.arrays.getLsbD (l.pos / 4)
  | 4 => l.die == 19 || l.die == 20
  | 5 => l.die == 21 || l.die == 22
  | _ => false

/-- The receive range (R232): the handler strand's plain loads of its current packet. -/
def State.rxOk (s : State) (k o size : Nat) (need : Need) : Bool :=
  isHandler k && (s.strand k).active && decide (lsSize ≤ o) && decide (o + size ≤ lsSize + 0x1000)
    && decide (need = { r := true })
    && decide (o + size ≤ lsSize + 8 * ((s.lcore (lcOf k)).msgInfo.bits 9 0))

/-- The first word of a range of a buffer that meets a page with no physical page, or, in a read, a poisoned granule
(R197, R206, R277, R285); `fuel` bounds the words. -/
def State.badWord (s : State) (id : Nat) (read : Bool) : Nat → Nat → Nat → Option Trap
  | 0, _, _ => none
  | fuel + 1, off, n =>
    if n = 0 then none
    else
      let k := min 8 n
      match pageFaultIn s id off k with
      | some (a, d) => some ⟨0x03, d, BitVec.ofNat 64 a⟩
      | none =>
        match if read then s.poisonIn id off k else none with
        | some g => some ⟨0x06, 0x01, BitVec.ofNat 64 g⟩
        | none => s.badWord id read fuel (off + k) (n - k)

/-- The checks of an access of `size` bytes at offset o, in the order of R197: capability (R204), alignment (R205), page
(R206, R285), poison (R277; for host memory, log 112). A write alone does not read its granule. That the offset alone is tested for
alignment, whatever BASE is, is the model's choice (log 122). -/
def State.locate (s : State) (k : Nat) (t : Strand) (m : MemOp) (o : Word) (size align : Nat) (need : Need) :
    Except Trap Place :=
  let c := lcOf k
  let on := o.toNat
  let mis : Bool := decide (on % align ≠ 0)
  match m.sp with
  | .dev =>
    let cap := t.cap m.buf
    match capCheck s t.secure cap false need on size with
    | some d => .error ⟨0x02, d, o⟩
    | none =>
      if mis then .error ⟨0x04, 0, o⟩
      else
        let off := cap.base + on
        match s.badWord cap.id (need.r || need.a) (size / 8 + 1) off size with
        | some x => .error x
        | none => .ok (.dev cap.id off cap.roc)
  | .ls =>
    if lsSize < on + size then
      if s.rxOk k on size need then
        if mis then .error ⟨0x04, 0, o⟩
        else match (s.lcore c).lsPoisonIn on size with
          | some g => .error ⟨0x06, 0x02, BitVec.ofNat 64 g⟩
          | none => .ok (.rx on)
      else .error ⟨0x02, 0x09, o⟩
    else if need.w && s.queuePresent c 1 && s.inJournal c on size then .error ⟨0x02, 0x09, o⟩
    else if mis then .error ⟨0x04, 0, o⟩
    else
      match if need.r || need.a then (s.lcore c).lsPoisonIn on size else none with
      | some g => .error ⟨0x06, 0x02, BitVec.ofNat 64 g⟩
      | none => .ok (.ls on)
  | .host =>
    let cap := t.cap m.buf
    match capCheck s t.secure cap true need on size with
    | some d => .error ⟨0x02, d, o⟩
    | none =>
      if mis then .error ⟨0x04, 0, o⟩
      else
        let a := ((s.buf cap.id).pmap.toNat + cap.base + on) % 2 ^ 64
        if need.r && (List.range size).any fun i => s.hostPoison.get false ((a + i) / 32)
        then .error ⟨0x06, 0x03, BitVec.ofNat 64 (on / 32 * 32)⟩ else .ok (.host a)
  | .mw => .error ⟨0x02, 0x0A, o⟩

/-- The packet word i that the handler reads (R232). -/
def State.rxBytes (s : State) (c off n : Nat) : List Byte :=
  let ws := match (s.lcore c).window with
    | [] => []
    | p :: _ => p.words
  (List.range n).map fun i =>
    let j := off - lsSize + i
    BitVec.ofNat 8 ((ws.getD (j / 8) 0).toNat / 2 ^ (8 * (j % 8)))

-- Versions (R287, R289, R290).

/-- The version's byte where the task has written it. -/
def overlay (t : Tab (Option Byte)) (k : Nat) (b : Byte) : Byte := (t.get none k).getD b

/-- Distinct values of a function over the keys of a table (keys rise, so equal values of a monotone function are
adjacent). -/
def groupKeys (f : Nat → Nat) : List (Nat × Option Byte) → List Nat
  | [] => []
  | [e] => [f e.1]
  | e :: e' :: t => if f e.1 = f e'.1 then groupKeys f (e' :: t) else f e.1 :: groupKeys f (e' :: t)

/-- Version lines of the L2 (256 bytes) and of the L1 (64 bytes) a version holds (R287, R289). -/
def Version.l2Lines (v : Version) : List Nat := groupKeys (· / 256) v.dev
def Version.l1Lines (v : Version) : List Nat := groupKeys (· / 64) v.ls

/-- The L2 set of a version line: the Pier and the line number modulo 8,192 (log 8). -/
def State.l2Set (s : State) (line : Nat) : Nat :=
  let pa := s.pa (line * 256 / 2 ^ 40) (line * 256 % 2 ^ 40)
  pa / 2 ^ 36 * 8192 + pa / 256 % 8192

/-- A list holds some value more than four times. -/
def overFour (l : List Nat) : Bool := l.any fun x => decide (4 < l.count x)

/-- A version that needs more lines than VLINES, or more than four ways of a set of the L2 or the L1 (R290). -/
def State.overflows (s : State) (t : Nat) : Bool :=
  let v := (s.task t).ver
  decide ((s.task t).vlines < v.l2Lines.length + v.l1Lines.length)
    || overFour ((s.tasks.flatMap fun e => e.2.ver.l2Lines).map s.l2Set)
    || overFour ((s.tasks.flatMap fun e => e.2.ver.l1Lines).map fun l => l / 8192 * 1024 + l % 1024)

-- Vector operands (R142, R248).

/-- Element e of the B operand: a vector element, or s[B] broadcast. -/
def Strand.velem (t : Strand) (ty : Ty) (b : VB) (e : Nat) : Nat :=
  match b with
  | .v r => t.elem ty r e
  | .s r => low ty.width (t.rs r)

/-- The value of element e read as a type. -/
def Strand.val (t : Strand) (ty : Ty) (r : VR) (e : Nat) : Num.Val := Num.decode ty (t.elem ty r e)

/-- The active elements of a mask, in order. -/
def active (m : Pred) : List Nat := (List.range 1024).filter fun e => m.getLsbD e

/-- The signed or unsigned reading of an element as its type says. -/
def elemInt (ty : Ty) (x : Nat) : Int := if ty.isSigned then sextN ty.width x else ((x % 2 ^ ty.width : Nat) : Int)

end Sys2Proof.Machine
end

