-- ==== Sys2Proof/Machine/Fetch.lean ====
section
/-! DEFINITION. Which strand may issue (R103, R462), the fetch of its next word (R106), and the placing of a word where the
next step fetches it. -/

namespace Sys2Proof.Machine

/-- What a fetch finds (R106): a word, an offset beyond the code buffer, or a page or granule that cannot be read. -/
inductive Fetched where
  | word (w : Word)
  | beyond
  | bad (x : Trap)
  deriving DecidableEq, Repr

/-- Fetching the word at an offset of the code buffer, as it stands at its home (R106, R284, R277, R503; log 107). -/
def State.fetch (s : State) (x : Nat) (pc : Word) : Fetched :=
  let c := (s.ctx x).code
  if c.length < pc.toNat + 8 then .beyond
  else if (s.buf c.id).secure && !(s.ctx x).secure then .bad ⟨0x02, 0x01, pc⟩
  else
    let off := c.base + pc.toNat
    match pageFault s c.id off with
    | some d => .bad ⟨0x03, d, BitVec.ofNat 64 off⟩
    | none =>
      if s.poisonAt c.id off then .bad ⟨0x06, 0x01, BitVec.ofNat 64 (off / 32 * 32)⟩
      else .word (BitVec.ofNat 64 (s.homeNat c.id off 8))

/-- The module runs: not dead, not fatal (R501, R504). -/
def State.alive (s : State) : Bool := !s.pkg.dead && s.pkg.fatal.isNone

/-- A strand that may issue (R102, R103, R198): its context runs, its core is resident, it has work and waits on nothing. -/
def State.canIssue (s : State) (k : Nat) : Bool :=
  let t := s.strand k
  s.alive && decide ((s.ctx (ctxOf k)).st = .running) && (s.lcore (lcOf k)).resident && !t.stopped
    && decide (t.wait = .none) && (if isHandler k then t.active else t.node.isSome)

/-- The strand that a logical core issues next (R103): a ready handler strand first, else the next ready task strand after the one
that issued last, in rotating order. -/
def State.chooseStrand (s : State) (c : Nat) : Option Nat :=
  let last := (s.lcore c).lastIssued
  ([4, (last + 1) % 4, (last + 2) % 4, (last + 3) % 4, last % 4].map fun n => mkStrand c n).find? s.canIssue
/-- The strand issues: the focus, and for a task strand the core's rotation, move to it. -/
def State.focus (s : State) (k : Nat) : State :=
  let s := { s with cur := k }
  if isHandler k then s else s.modLcore (lcOf k) fun l => { l with lastIssued := numOf k }

/-- Time-compare falls due (R121, R189): the reset value never matches. -/
def State.timeDue (s : State) (k : Nat) : Bool :=
  let t := s.strand k
  !t.inTrap && decide (t.timeCmp ≠ 0xFFFF_FFFF_FFFF_FFFF) && t.timeCmp.ule s.devTime

/-- A program placed from outside (log 16): context 0 runs with one logical core whose strand 0 holds a node, and a code
buffer whose first word is `w`. -/
def State.placeWord (s : State) (w : Word) : State :=
  let s := { s with agenda := [], cur := 0, apart := {}, pkg := { s.pkg with ready := true, dead := false, fatal := none } }
  let s := s.setBuf 1 { size := 65536, maxRights := 0x80, refCnt := 1, valid := true }
  let s := (s.takeFrame (lowestFree s.frames 0)).mapPage 1 0 false (lowestFree s.frames 0)
  let s := s.setHome 1 0 (leBytes 8 w.toNat)
  let s := s.setCtx 0 { st := .running, lcount := 1, code := Cap.make 1 0 0x80 65536 0, codeIdx := 1, bufIds := [(1, 0, false)] }
  let s := s.setTask 0 { st := .running, emitted := true, begun := true, parts := [⟨0, 1, 0, 0, 1⟩] }
  let s := s.setLcore 0 { die := 3, resident := true }
  s.setStrand 0 { node := some 0 }

end Sys2Proof.Machine
end

