-- ==== Sys2Proof/Machine/Graph.lean ====
section
/-! DEFINITION. Tasks as the Keystone makes and ranks them: RCB chains (R414, R415), table entries (R418), participants
(R422), readiness (R420), and the taking of a strand (R435). -/

namespace Sys2Proof.Machine

-- RCB chains (R414, R415).

/-- An RCB and its PARENT chain. -/
def Ctx.chainFrom (c : Ctx) : Nat → Nat → List Nat
  | 0, _ => []
  | n + 1, k => if k = 0xFFFF then [] else k :: c.chainFrom n ((c.rcb k 0).bits 31 16)
/-- The chain of a node of a graph (R415): its own RCB, or its graph's. -/
def State.nodeChain (s : State) (x g n : Nat) : List Nat :=
  let own := (s.nodeWord x g n 0).bits 47 32
  let grcb := (s.graphWord x g 0).bits 31 16
  (s.ctx x).chainFrom 9 (if own = 0xFFFF then grcb else own)
/-- The chain of a spawned child: its own RCB, if any, then the spawner's chain (R415). -/
def State.childChain (s : State) (x g n : Nat) (sp : List Nat) : List Nat :=
  let own := (s.nodeWord x g n 0).bits 47 32
  if own = 0xFFFF then sp else own :: sp
/-- The first RCB of a chain that sets a field group (R414, R415). -/
def Ctx.setter (c : Ctx) (chain : List Nat) (bit : Nat) : Nat :=
  (chain.find? fun k => (c.rcb k 0).getLsbD bit).getD 0
/-- POWER: the first value of the chain that is not inherit (R25, R34). -/
def Ctx.power (c : Ctx) (chain : List Nat) : Nat :=
  ((chain.map fun k => (c.rcb k 0).bits 49 48).find? fun p => p != 0).getD 1
/-- The RCBs a node is charged to (R416); the first is its charging RCB. -/
def Ctx.charged (c : Ctx) (chain : List Nat) : List Nat := chain.filter fun k => (c.rcb k 0).getLsbD 56
def Ctx.charging (c : Ctx) (chain : List Nat) : Nat := ((c.charged chain).head?).getD 0

/-- The values of a chain, as a task carries them (R415). -/
def Task.fromChain (c : Ctx) (chain : List Nat) (t : Task) : Task :=
  let pr := c.setter chain 57
  let w3 := c.rcb pr 3
  { t with
    chain := chain
    level := w3.bits 3 0
    dl := w3.getLsbD 4
    relDl := (c.rcb pr 2).bits 31 0
    fdom := (c.rcb (c.setter chain 58) 3).bits 63 48
    est := (c.rcb (c.setter chain 59) 4).bits 63 32
    drainThr := (c.rcb (c.setter chain 59) 4).bits 31 16
    power := c.power chain }

/-- TOKMAX of an RCB: its own, or that of the first RCB of its PARENT chain that sets the tokens (R25, R414, R415; log 89). -/
def Ctx.tokMax (c : Ctx) (r : Nat) : Nat := (c.rcb (c.setter (c.chainFrom 9 r) 60) 3).bits 47 40
/-- A period opens (R416): USED 0 and TOKLEFT at TOKMAX in every RCB. -/
def Ctx.newPeriod (c : Ctx) : Ctx :=
  (List.range c.nrcb).foldl (fun c r => (c.setRcb r 5 ((c.rcb r 5).put 63 32 0)).setRcb r 6 ((c.rcb r 6).put 63 56 (c.tokMax r))) c

/-- Tokens of a task: TOKLEFT of its charging RCB (R417). -/
def State.tokens (s : State) (t : Nat) : Nat :=
  let k := s.task t
  let c := s.ctx k.ctx
  (c.rcb (c.charging k.chain) 6).bits 63 56

-- Task-table entries (R418).

/-- The lowest free entry from n on. -/
def State.lowFree (s : State) (n : Nat) : Nat → Option Nat
  | 0 => none
  | f + 1 => if (s.task n).st = .free then some n else s.lowFree (n + 1) f
/-- A free entry: the free value's choice when that entry is free, else the lowest free one (log 11). -/
def State.freeEntry (s : State) : Option Nat × State :=
  let (r, s') := s.draw
  let r := r % 65536
  if (s.task r).st = .free then (some r, s') else (s.lowFree 0 65536, s')
def taskIdent (gen idx : Nat) : Nat := gen * 65536 + idx

-- Placement (R421, R422).

/-- Does the core that hosts a logical core offer a class (R19)? -/
def State.offers (s : State) (c cls : Nat) : Bool :=
  match cls with
  | 1 => true
  | 2 => s.queuePresent c 1
  | 3 => s.queuePresent c 4
  | 4 => s.queuePresent c 5
  | _ => false

/-- The placed logical cores of a node, each counted once (R421). -/
def State.placed (s : State) (x g n : Nat) : List Nat :=
  let w := s.nodeWord x g n 0
  dedup ((List.range (w.bits 15 0)).map fun i => ((s.ctx x).groups.get 0 (w.bits 31 16 + i)).bits 8 0)
/-- Class code and entry offset of list position i (R410). -/
def State.entryClass (s : State) (x g n i : Nat) : Nat :=
  match i with
  | 0 => (s.nodeWord x g n 1).bits 63 60
  | 1 => (s.nodeWord x g n 1).bits 31 28
  | _ => (s.nodeWord x g n 2).bits 63 60
def State.entryPoint (s : State) (x g n i : Nat) : Nat :=
  match i with
  | 0 => (s.nodeWord x g n 1).bits 55 32
  | 1 => (s.nodeWord x g n 1).bits 23 0
  | _ => (s.nodeWord x g n 2).bits 55 32
/-- The list position a node was resolved to at restore (R21). -/
def Ctx.resolved (c : Ctx) (g n : Nat) : Nat := c.classes.get 0 (g * 65536 + n)
/-- The participants of a node (R422), each with STRANDS + 1 starts and an empty interval. -/
def State.participants (s : State) (x g n : Nat) : List Part :=
  let cls := s.entryClass x g n ((s.ctx x).resolved g n)
  let starts := (s.nodeWord x g n 0).bits 59 58 + 1
  ((s.placed x g n).filter fun c => s.offers (mkLc x c) cls).map fun c => ⟨c, 1, 0, starts, 0⟩

/-- A new task of a node, WAITING (R418, R420). -/
def State.newTask (s : State) (t x g n : Nat) (spawned : Bool) (spawner : Nat) (chain : List Nat) : State :=
  let w0 := s.nodeWord x g n 0
  let gen := (s.task t).gen
  let k : Task :=
    { gen := gen, st := .waiting, ctx := x, ident := taskIdent gen t, graph := g, node := n, spawned := spawned,
      spawner := spawner, pending := if spawned then 0 else (s.nodeWord x g n 5).bits 63 48,
      versioned := w0.getLsbD 61, vlines := (s.nodeWord x g n 2).bits 12 0, parts := s.participants x g n }
  s.setTask t (k.fromChain (s.ctx x) chain)

/-- A node becomes READY: its chain's values are fixed, and its clocks start (R415, R420, R425). -/
def State.readyTask (s : State) (t : Nat) : State :=
  s.modTask t fun k =>
    let chain := if k.spawned then k.chain else s.nodeChain k.ctx k.graph k.node
    let k := k.fromChain (s.ctx k.ctx) chain
    { k with st := .ready, readyAt := s.now, promoAt := s.now, absDl := s.now + k.relDl * 1000, emitted := false }

-- Participants (R429).

def Task.part (k : Task) (core : Nat) : Option Part := k.parts.find? fun p => p.core == core
def Task.modPart (k : Task) (core : Nat) (f : Part → Part) : Task :=
  { k with parts := k.parts.map fun p => if p.core == core then f p else p }

/-- The donor of a split: the largest interval of at least 2, ties to the lower logical core (R429). -/
def donor (asker : Nat) (ps : List Part) : Option Part :=
  ps.foldl (fun best p =>
    let r := p.end_ + 1 - p.next
    if p.core == asker || decide (r < 2) then best
    else match best with
      | none => some p
      | some b =>
        let rb := b.end_ + 1 - b.next
        if rb < r ∨ (rb = r ∧ p.core < b.core) then some p else best) none

/-- The next iteration for a logical core's strand: from its interval, or by RANGE_SPLIT (R429). -/
def Task.handOut (k : Task) (core : Nat) : Option Nat × Task :=
  match k.part core with
  | none => (none, k)
  | some p =>
    if p.next ≤ p.end_ then (some p.next, k.modPart core fun p => { p with next := p.next + 1 })
    else match donor core k.parts with
      | none => (none, k)
      | some d =>
        let r := d.end_ + 1 - d.next
        let keep := (r + 1) / 2
        let lo := d.next + keep
        let k := k.modPart d.core fun q => { q with end_ := d.next + keep - 1 }
        (some lo, k.modPart core fun q => { q with next := lo + 1, end_ := d.end_ })

/-- A stop request meets a matrix queue (R344): a command of the load stage or an mst in progress stands at the head of its queue
again, beside as many as 32 entries that wait (log 138: the model's choice); a waiting head is left in place. -/
def Queue.giveBack (x : Queue) : Queue :=
  match x.started with
  | none => x
  | some cmd =>
    if x.stall then x
    else { x with started := none, prog := 0, bad := [], firstBad := none, desc := [], more := 0, relist := false, held := [], mark := {},
                  cmds := cmd :: x.cmds }

/-- The matrix queues of a logical core stop, and its lease of an array ends (R344, R347). -/
def State.stopArrays (s : State) (c : Nat) : State :=
  let s := s.modLcore c fun l => (l.setQueue 1 (l.queue 1).giveBack).setQueue 3 (l.queue 3).giveBack
  let ls := s.ks.leases.map fun e => if e.2.holder = some c then (e.1, { e.2 with holder := none }) else e
  { s with ks := { s.ks with leases := ls } }

/-- Every engine of a logical core stops, for a freeze, a switch or the end of its context (R306, R344): a transfer that overlaps itself
reads its source as it stands when it goes on (R300). -/
def State.stopEngines (s : State) (c : Nat) : State :=
  (s.stopArrays c).modLcore c fun l => l.setQueue 0 { l.queue 0 with held := [] }

/-- CHECKPOINT or a drained strand (R434, R435): the core's matrix queues stop (R344, R347), the strand's registers are saved, an entry with one start re-enters the queues at
the node's rank, and the strand is free. -/
def State.saveStrand (s : State) (k : Nat) : State :=
  match (s.strand k).node with
  | none => s
  | some n =>
    let s := (s.abandon k).stopArrays (lcOf k)
    let t := { s.strand k with switchPending := false, drainAt := none, drainFor := none }
    let id := s.emission
    { s.setStrand k { status := t.status &&& 0xFFFF_FFFF_FFFF_F000 } with
      emission := id + 1
      saved := s.saved.set {} id t
      entries := s.entries ++ [⟨n, lcOf k, 1, (s.task n).emissionNo, .keystone, some id⟩] }

/-- A run of a versioned task is discarded (R290, R433): its version is dropped, the identifiers it spawned are freed, its
strands stop, every start and iteration returns, and the node is READY again with its ready time. Words of a packet that the run has not
closed stay in the send buffer (log 109), and stores that waited for a packet of the run issue again (R230). -/
def State.discardRun (s : State) (t : Nat) : State :=
  let s := (s.task t).ver.packets.foldl (fun s p => s.readySenders (mkLc (s.task t).ctx p.sender)) s
  let s := (s.task t).ver.spawns.foldl (fun s u => s.freeTask u) s
  let s := (s.holders t).foldl (fun s k => s.idleStrand k) s
  let s := { s with
    entries := s.entries.filter fun e => e.task != t
    saved := s.saved.filter fun e => e.2.node != some t
    subs := s.subs.filter fun (u : Sub) => u.task != t }
  (s.modTask t fun k =>
    { k with st := .ready, ver := {}, begun := false, emitted := false, parts := s.participants k.ctx k.graph k.node }).recount
      (s.task t).ctx

/-- VERSION_OVERFLOW (R290): logged with VLINES, re-run unversioned, never killed again. -/
def State.versionOverflow (s : State) (t core : Nat) : State :=
  ((s.discardRun t).modTask t fun k => { k with versioned := false, noKill := true }).logFault t 0x03 core (s.task t).vlines

/-- A word that may have written into a version retires, unless the version overflows (R290). -/
def State.retireV (s : State) (t : Strand) : Out :=
  match t.version with
  | some n => if s.overflows n then .next (s.versionOverflow n (coreOfLc (lcOf s.cur))) else s.retire t
  | none => s.retire t

end Sys2Proof.Machine
end

