-- ==== Sys2Proof/Machine/Places.lean ====
section
/-! DEFINITION. Reading and writing a place (R38, R39, R50, R57, R287, R289, R300), and the words of an access that arrive later than others
or are read before them (R43, R246; log 113). -/

namespace Sys2Proof.Machine

-- Reading and writing a place (R38, R39, R50, R55, R287, R289).

/-- Key of a local-store byte in a version. -/
def lsKey (c off : Nat) : Nat := c * lsSize + off

/-- Bytes as a task sees them: the version's where written (R287, R289). -/
def seen (ver : Tab (Option Byte)) (k : Nat) : List Byte → List Byte
  | [] => []
  | b :: bs => overlay ver k b :: seen ver (k + 1) bs
/-- Bytes written into a version. -/
def overwrite (ver : Tab (Option Byte)) (k : Nat) : List Byte → Tab (Option Byte)
  | [] => ver
  | b :: bs => overwrite (ver.set none k (some b)) (k + 1) bs

/-- The bytes of a place at its home, as the strand sees them. -/
def State.homeRead (s : State) (t : Strand) (c : Nat) (pl : Place) (n : Nat) : List Byte :=
  match pl with
  | .dev id off _ =>
    let bs := s.homeBytes id off n
    match t.version with
    | some v => seen (s.task v).ver.dev (byteKey id off) bs
    | none => bs
  | .ls off =>
    let bs := (s.lcore c).lsBytes off n
    match t.version with
    | some v => seen (s.task v).ver.ls (lsKey c off) bs
    | none => bs
  | .rx off => s.rxBytes c off n
  | .host a => s.hostBytes a n

/-- Writing bytes of a place: a versioned task writes its version (R287, R289); `home` writes device memory at its home
and not into the L1, and the line is an ordinary one from then on (R57). Host memory takes the bytes at once (log 110). -/
def State.writePlace (s : State) (t : Strand) (c : Nat) (pl : Place) (home : Bool) (bs : List Byte) : State :=
  match t.version, pl with
  | some v, .dev id off _ =>
    s.modTask v fun k => { k with ver := { k.ver with dev := overwrite k.ver.dev (byteKey id off) bs } }
  | some v, .ls off => s.modTask v fun k => { k with ver := { k.ver with ls := overwrite k.ver.ls (lsKey c off) bs } }
  | none, .dev id off _ =>
    if home then (s.setHome id off bs).modLcore c fun l => l.ordinary (linesOf (byteKey id off) bs.length)
    else s.l1Write c id off bs
  | none, .ls off => s.modLcore c fun l => l.setLs off bs
  | _, .rx _ => s
  | _, .host a => s.setHost a bs

/-- What precedes an operation at the home of device memory (R56). -/
def State.prepHome (s : State) (c : Nat) (pl : Place) (n : Nat) : State :=
  match pl with
  | .dev id off _ => s.atHome c id off n
  | _ => s

/-- The bytes that an engine writes to lines which its core holds as read-only-cacheable stand dirty in these lines, which are ordinary
ones from then on (R57), until they go home, at the latest when the command ends (R61). -/
def LCore.ownWrite (l : LCore) (now key : Nat) (held : List Nat) (bs : List Byte) : LCore :=
  let l := bs.zipIdx.foldl (fun l e => if held.contains ((key + e.2) / 64) then l.dirty now (key + e.2) e.1 else l) l
  { l with owed := l.owed ++ held }
/-- The bytes of a range that lie in none of these lines, written at the home. -/
def State.setHomeBut (s : State) (id p : Nat) (held : List Nat) (bs : List Byte) : State :=
  bs.zipIdx.foldl (fun s e => if held.contains (byteKey id (p + e.2) / 64) then s else s.setHomeByte id (p + e.2) e.1) s
/-- An engine writing device memory: the lines' dirty bytes go home and the lines leave the engine's own L1, then it writes at the home (R300);
to lines that the L1 holds as read-only-cacheable it writes there (R57). -/
def State.engineWriteDev (s : State) (c id p : Nat) (bs : List Byte) : State :=
  let key := byteKey id p
  let lines := linesOf key bs.length
  let held := lines.filter fun x => (s.lcore c).roc.get false x
  let s := (lines.filter fun x => !held.contains x).foldl (fun s x => s.evictLine c x) s
  if held = [] then s.setHome id p bs else (s.setHomeBut id p held bs).modLcore c fun l => l.ownWrite s.now key held bs
/-- What an engine has left dirty in the L1 goes home, before its command ends (R57, R61). -/
def State.payLines (s : State) (c : Nat) : State :=
  if (s.lcore c).owed = [] then s
  else ((s.lcore c).owed.foldl (fun s x => s.writeBackLine c x) s).modLcore c fun l => { l with owed := [] }

-- Accesses of several words (R43, R246).

/-- The byte i bytes on. -/
def Spot.plus (p : Spot) (i : Nat) : Spot :=
  match p with
  | .ls c o => .ls c (o + i)
  | .dev id o => .dev id (o + i)
  | .host a => .host ((a + i) % 2 ^ 64)
/-- The word of a byte, by its first byte. -/
def Spot.word : Spot → Spot
  | .ls c o => .ls c (o / 8 * 8)
  | .dev id o => .dev id (o / 8 * 8)
  | .host a => .host (a / 8 * 8)
/-- A byte lies in one of the words that are named. -/
def Spot.named (ws : List Spot) (p : Spot) : Bool := ws.any fun w => w.word == p.word
/-- A place as an access of a strand of logical core c has it, and back. -/
def Place.spot (c : Nat) : Place → Spot
  | .dev id o _ => .dev id o
  | .ls o => .ls c o
  | .rx o => .ls c o
  | .host a => .host a
def Spot.place : Spot → Place
  | .dev id o => .dev id o false
  | .ls _ o => .ls o
  | .host a => .host a

/-- A byte of which a write covers some bits. -/
def mixByte (old : Byte) (e : Byte × Byte) : Byte := (old &&& ~~~e.2) ||| (e.1 &&& e.2)
/-- Bytes of which a write covers some bits, given those that stand there. -/
def mixBytes : List Byte → List (Byte × Byte) → List Byte
  | b :: bs, e :: es => mixByte b e :: mixBytes bs es
  | _, _ => []
/-- Bytes that a write covers whole. -/
def wholly (bs : List Byte) : List (Byte × Byte) := bs.map fun b => (b, 0xFF)

/-- Writing the bits that a write covers: at the home of device memory on what stands there after the core's own bytes (R56). -/
def State.writeBitsAt (s : State) (t : Strand) (c : Nat) (pl : Place) (home : Bool) (bs : List (Byte × Byte)) : State :=
  if home then
    let s := s.prepHome c pl bs.length
    s.writePlace t c pl true (mixBytes (s.homeRead t c pl bs.length) bs)
  else s.writePlace t c pl false (bs.map Prod.fst)
/-- Bytes of a store of strand k, of which those in named words are written later. -/
def State.writeApart (s : State) (ws : List Spot) (k : Nat) (t : Strand) (pl : Place) (home : Bool) (bs : List (Byte × Byte)) : State :=
  bs.zipIdx.foldl (fun s e =>
    let p := (pl.spot (lcOf k)).plus e.2
    if p.named ws then
      { s with apart := { s.apart with late := s.apart.late ++ [⟨.strand k, p, home, t.version, [e.1], none⟩] } }
    else s.writeBitsAt t (lcOf k) p.place home [e.1]) s

/-- Whole bytes of a store of the issuing strand, of which those in named words are written later. -/
def State.writeWords (s : State) (ws : List Spot) (t : Strand) (pl : Place) (bs : List Byte) : State :=
  if ws = [] then s.writePlace t (lcOf s.cur) pl false bs else s.writeApart ws s.cur t pl false (wholly bs)

/-- What was still to be written is written. A version that is no more takes nothing (R67). -/
def State.landOne (s : State) (x : Late) : State :=
  match x.who with
  | .strand k =>
    match x.version with
    | none => s.writeBitsAt {} (lcOf k) x.spot.place x.home x.bs
    | v => if (s.strand k).version = v then s.writeBitsAt (s.strand k) (lcOf k) x.spot.place x.home x.bs else s
  | .queue c _ =>
    let bs := x.bs.map Prod.fst
    match x.spot with
    | .dev id o =>
      let s := if bs = [] then s else s.engineWriteDev c id o bs
      match x.full with
      | some b => (s.payLines c).setFeAt id o b
      | none => s
    | .ls k o =>
      let s := s.modLcore k fun l => l.setLs o bs
      match x.full with
      | some b => s.setLsFe k o b
      | none => s
    | .host a => s.setHost a bs
/-- Of the writes that are still to arrive, those that `p` names do, in their order. -/
def State.landWhere (s : State) (p : Late → Bool) : State :=
  if s.apart.late = [] then s
  else (s.apart.late.filter p).foldl State.landOne { s with apart := { s.apart with late := s.apart.late.filter fun x => !p x } }
/-- The words of an agent's own last access arrive before it goes on. -/
def State.landFor (s : State) (a : Agent) : State := s.landWhere fun x => x.who == a
/-- No access is part done any more: its words arrive, and words that have been read early are forgotten, so that they are read again. -/
def State.whole (s : State) : State := if s.apart = {} then s else { s.landWhere (fun _ => true) with apart := {} }

/-- What an agent has read early of its next access. -/
def State.readBy (s : State) (a : Agent) : List Early := s.apart.early.filter fun x => x.who == a
/-- A byte that has been read early. -/
def Early.at_ (es : List Early) (p : Spot) : Option Kept := (es.find? fun x => x.spot == p).map Early.got
/-- Bytes of an access, where some have been read early. -/
def Early.over (es : List Early) (p : Spot) (bs : List Byte) : List Byte :=
  if es = [] then bs else bs.zipIdx.map fun e => ((Early.at_ es (p.plus e.2)).map Kept.b).getD e.1
/-- Bytes of an access, each with the poison of its granule, where some have been read early. -/
def Early.marked (es : List Early) (p : Spot) (bs : List (Byte × Bool)) : List (Byte × Bool) :=
  if es = [] then bs else bs.zipIdx.map fun e => ((Early.at_ es (p.plus e.2)).map fun k => (k.b, k.poison)).getD e.1

/-- A byte as logical core c reads it: through its L1, or at the home; with the poison of its granule and the bit of its word. -/
def State.spotKept (s : State) (c : Nat) (home : Bool) : Spot → Kept
  | .dev id o =>
    let b := match if home then none else (s.lcore c).l1.get none (byteKey id o) with
      | some x => x.b
      | none => s.homeByte id o
    ⟨b, s.poisonAt id o, s.feAt id o⟩
  | .ls d o => ⟨(s.lcore d).ls.get 0 o, (s.lcore d).lsPoison.get false (o / 32), (s.lcore d).lsFull o⟩
  | .host a => ⟨Tab.get 0 s.hostMem a, s.hostPoison.get false (a / 32), true⟩
/-- A byte that can be read: its page is resident, and it lies within its local store. -/
def State.spotThere (s : State) : Spot → Bool
  | .dev id o => (pageFault s id o).isNone
  | .ls _ o => decide (o < lsSize)
  | .host _ => true
/-- An agent reads a word of its next access now, once: at the home after the write-back of R56, or through the L1. -/
def State.readWord (s : State) (a : Agent) (c : Nat) (home : Bool) (see : Spot → Byte → Byte) (w : Spot) : State :=
  let w := w.word
  if !s.spotThere w || (s.readBy a).any (fun x => x.spot == w) then s
  else
    let s := if home then s.prepHome c w.place 8 else s
    { s with apart := { s.apart with early := s.apart.early ++ (List.range 8).map fun i =>
        let p := w.plus i
        let g := s.spotKept c home p
        ⟨a, p, { g with b := see p g.b }⟩ } }

end Sys2Proof.Machine
end

