-- ==== Sys2Proof/Machine/Messages.lean ====
section
/-! DEFINITION. Packets between logical cores (R62, R229-R231), and what a release of a strand waits for (R48, R55). -/

namespace Sys2Proof.Machine

/-- Words the receive window holds. -/
def LCore.windowWords (l : LCore) : Nat := (l.window.map fun p => p.words.length).sum

/-- A packet enters its receiver's window, when all its words fit (R230, R231). -/
def State.deliverPacket (s : State) (x : Nat) (p : Packet) : Option State :=
  let d := mkLc x p.dest
  if (s.lcore d).windowWords + p.words.length ≤ 512 then some (s.modLcore d fun l => { l with window := l.window ++ [p] }) else none

/-- The packets of a logical core that have not left: those in flight, and the closed one (R230). -/
def State.unsent (s : State) (c : Nat) : List Packet :=
  ((s.ctx (ctxOfLc c)).inFlight.filter fun p => p.sender == coreOfLc c) ++ (s.lcore c).closed.toList
/-- The packets of a logical core that versioned tasks hold (R230). -/
def State.heldPackets (s : State) (c : Nat) : List Packet :=
  s.tasks.flatMap fun e => if e.2.ctx = ctxOfLc c then e.2.ver.packets.filter fun p => p.sender == coreOfLc c else []
/-- Closed packets of a logical core for which the next store to its send buffer waits: those that have not left, also of a versioned task
before its commit (R230). -/
def State.closedPackets (s : State) (c : Nat) : List Packet := s.unsent c ++ s.heldPackets c
/-- No packet that the core closed earlier toward the same destination has yet to arrive (R62). -/
def State.inTurn (s : State) (c : Nat) (p : Packet) : Bool :=
  !((s.closedPackets c).any fun q => q.dest == p.dest && decide (q.no < p.no))

/-- An unsent packet leaves its core, when its turn has come and its receiver has room (R62, R230). -/
def State.depart (s : State) (c : Nat) (p : Packet) : Option State :=
  if s.inTurn c p then
    (s.deliverPacket (ctxOfLc c) p).map fun s =>
      let s := s.modCtx (ctxOfLc c) fun x => { x with inFlight := x.inFlight.erase p }
      (s.modLcore c fun l => { l with closed := if l.closed = some p then none else l.closed }).readySenders c
  else none

/-- PACKET_DEPARTURE (R62, R230): an unsent packet whose turn has come and whose receiver has room leaves; a free choice names it
where several could. -/
def execPacketDeparture (c : Nat) (s : State) : Out :=
  if !(s.alive && decide ((s.ctx (ctxOfLc c)).st = .running)) then .next s
  else match (s.unsent c).filterMap fun p => (s.depart c p).map fun _ => p with
    | [] => .next s
    | [p] => .next ((s.depart c p).getD s)
    | ps =>
      let (r, s) := s.draw
      .next (match ps[r % ps.length]? with
        | some p => (s.depart c p).getD s
        | none => s)

-- Releases (R48, R52, R55).

/-- The compute virtual die of a logical core (R40, R421). -/
def State.vdieOf (s : State) (c : Nat) : Nat := ((s.ctx (ctxOfLc c)).lcTable.get 0 (coreOfLc c)).bits 4 0
/-- A release of a scope by a strand of c waits for its writes in the local store of d: those of its own virtual die, or all (R55). -/
def State.awaits (s : State) (sc : Scope) (c d : Nat) : Bool :=
  match sc with
  | .core => false
  | .die => s.vdieOf c == s.vdieOf d
  | _ => true

/-- The packets that the issuing strand has closed and a release of a scope waits for. -/
def State.ownPackets (s : State) (sc : Scope) : List Packet :=
  let c := lcOf s.cur
  (s.unsent c).filter fun p => p.closer == some s.cur && s.awaits sc c (mkLc (ctxOfLc c) p.dest)
/-- The forwarded-atomic fills of the issuing strand that a release of a scope waits for. -/
def State.ownFills (s : State) (sc : Scope) : List Fill :=
  s.fills.filter fun f => f.src == s.cur && s.awaits sc (lcOf s.cur) f.lcore
/-- Fills of one Pier and one die arrive in the order in which they were sent (R477). -/
def State.oneStream (s : State) (f g : Fill) : Bool := f.pier == g.pier && (s.lcore f.lcore).die == (s.lcore g.lcore).die
/-- The fills of a list that have arrived once those that `p` names have, and the rest. -/
def State.arrivals (s : State) (p : Fill → Bool) : List Fill → List Fill × List Fill
  | [] => ([], [])
  | f :: fs =>
    let (a, b) := s.arrivals p fs
    if p f || fs.any (fun g => p g && s.oneStream f g) then (f :: a, b) else (a, f :: b)
/-- The fills that `p` names arrive, each behind those of its stream (R63, R225, R477). -/
def State.landFills (s : State) (p : Fill → Bool) : State :=
  let (a, b) := s.arrivals p s.fills
  a.foldl (fun s f => s.fillLs f.lcore f.off f.value.toNat) { s with fills := b }
/-- Those fills arrive (R63). -/
def State.fillOwn (s : State) (sc : Scope) : State :=
  s.landFills fun f => (s.ownFills sc).contains f
/-- Words that the copy engine of the issuing strand's logical core has still to bring to their places, and that a release of a scope waits
for (R55). -/
def State.ownCopies (s : State) (sc : Scope) (x : Late) : Bool :=
  x.who == .queue (lcOf s.cur) 0 && match x.spot with
    | .ls d _ => s.awaits sc (lcOf s.cur) d
    | _ => true
/-- Every write of the issuing strand before the point of a release has arrived there, and what it caused in the local stores that the release
waits for (R48, R55). -/
def State.relPoint (s : State) (sc : Scope) : State :=
  let s := s.landWhere (s.ownCopies sc)
  (s.fillOwn sc).release (lcOf s.cur) sc

/-- A word that releases: with a packet of the strand still to leave, that packet leaves now or the word waits as `w`; then the
release's point, and the word's own effect. -/
def State.releasingAs (s : State) (w : Wait) (rel : Bool) (sc : Scope) (f : State → Out) : Out :=
  if !rel || decide (sc = .core) then f s
  else
    let s' := (s.ownPackets sc).foldl (fun s p => (s.depart (lcOf s.cur) p).getD s) s
    if s'.ownPackets sc = [] then f (s'.relPoint sc) else s.waitOn w
/-- A releasing word that waits as one whose packet is unsent. -/
def State.releasing (s : State) (i : Instr) (rel : Bool) (sc : Scope) (f : State → Out) : Out :=
  s.releasingAs (.send i) rel sc f

end Sys2Proof.Machine
end

