-- ==== Sys2Proof/Machine/System.lean ====
section
/-! DEFINITION. System instructions: traps and returns (R194-R200), control registers (R111-R123, R190), fences (R192),
identity and time (R187, R188), and the traps a strand meets before a word issues (R106, R126, R189). -/

namespace Sys2Proof.Machine

/-- The rights of R111: user read, user write, supervisor write. -/
def Cr.userRead (c : Cr) : Bool :=
  match c with
  | .trapCause | .trapPc | .trapVal | .trapStat | .trapVec | .scratch0 | .scratch1 => false
  | _ => true
def Cr.userWrite (c : Cr) : Bool :=
  match c with
  | .fpctl | .fectl | .timeCmp | .handler => true
  | _ => false

/-- The RW fields of a control register (R111-R123). -/
def Cr.rwMask (c : Cr) : Word :=
  match c with
  | .status | .prio | .logCore | .msgInfo => 0
  | .trapCause => 0xFFFF
  | .trapPc | .trapVec => 0xFFFF_FFFF_FFFF_FFF8
  | .trapStat => 0xC00
  | .fpctl => 0x33FF
  | .fectl => 0xFFFF_0002
  | .handler => 0xFFFF_FFFF_FFFF_FFF9
  | .trapVal | .feBudget | .timeCmp | .scratch0 | .scratch1 => 0xFFFF_FFFF_FFFF_FFFF

/-- The fields of a control register; its other bits are reserved and read 0 (R3, R111-R123). -/
def Cr.fields (c : Cr) : Word :=
  match c with
  | .status | .trapStat => 0xFE00
  | .trapCause => 0xFFFF
  | .trapPc | .trapVec => 0xFFFF_FFFF_FFFF_FFF8
  | .fpctl => 0x33FF
  | .fectl => 0xFFFF_0002
  | .prio => 0xFF1F
  | .logCore => 0x1F_01FF
  | .handler => 0xFFFF_FFFF_FFFF_FFF9
  | .msgInfo => 0x1FF_0000_03FF
  | .trapVal | .feBudget | .timeCmp | .scratch0 | .scratch1 => 0xFFFF_FFFF_FFFF_FFFF

/-- LOGCORE: the compute virtual die and the logical core number (R120, R421). -/
def State.logCore (s : State) (c : Nat) : Word :=
  BitVec.ofNat 64 ((((s.ctx (ctxOfLc c)).lcTable.get 0 (coreOfLc c)).toNat % 32) * 65536 + coreOfLc c)

/-- What a control register holds. -/
def State.crHeld (s : State) (k : Nat) (c : Cr) : Word :=
  let t := s.strand k
  let l := s.lcore (lcOf k)
  match c with
  | .status => t.status
  | .trapCause => t.trapCause
  | .trapPc => t.trapPc
  | .trapVal => t.trapVal
  | .trapStat => t.trapStat
  | .trapVec => l.trapVec
  | .fpctl => t.fpctl
  | .fectl => t.fectl
  | .feBudget => t.feBudget
  | .prio => t.prio
  | .logCore => s.logCore (lcOf k)
  | .timeCmp => t.timeCmp
  | .handler => l.handler
  | .msgInfo => if isHandler k then l.msgInfo else 0
  | .scratch0 => t.scratch0
  | .scratch1 => t.scratch1

/-- Reading a control register (R3, R111, R123). -/
def State.crRead (s : State) (k : Nat) (c : Cr) : Word := s.crHeld k c &&& Cr.fields c

/-- Storing a control register whole; a register that reads alone keeps its value. -/
def State.crStore (s : State) (k : Nat) (c : Cr) (v : Word) : State :=
  match c with
  | .status => s.modStrand k fun t => { t with status := v }
  | .trapCause => s.modStrand k fun t => { t with trapCause := v }
  | .trapPc => s.modStrand k fun t => { t with trapPc := v }
  | .trapVal => s.modStrand k fun t => { t with trapVal := v }
  | .trapStat => s.modStrand k fun t => { t with trapStat := v }
  | .trapVec => s.modLcore (lcOf k) fun l => { l with trapVec := v }
  | .fpctl => s.modStrand k fun t => { t with fpctl := v }
  | .fectl => s.modStrand k fun t => { t with fectl := v }
  | .feBudget => s.modStrand k fun t => { t with feBudget := v }
  | .timeCmp => s.modStrand k fun t => { t with timeCmp := v }
  | .handler => s.modLcore (lcOf k) fun l => { l with handler := v }
  | .scratch0 => s.modStrand k fun t => { t with scratch0 := v }
  | .scratch1 => s.modStrand k fun t => { t with scratch1 := v }
  | .prio | .logCore | .msgInfo => s

/-- A write reaches the RW fields alone (R2, R190). -/
def State.crWrite (s : State) (k : Nat) (c : Cr) (v : Word) : State :=
  s.crStore k c ((s.crRead k c &&& ~~~Cr.rwMask c) ||| (v &&& Cr.rwMask c))

/-- The shared form of cwr, crset and crclr: the rights of R111, the new value, retirement. -/
def State.crUpdate (s : State) (i : Instr) (g : Guard) (c : Cr) (f : Strand → Word → Word) : Out :=
  s.run i g .any fun t =>
    if !t.super && !Cr.userWrite c then s.raise 0x0A 2 (wordOf i)
    else
      let s := s.crWrite s.cur c (f t (s.crRead s.cur c))
      s.retire (s.strand s.cur)

/-- nop does nothing (R192). -/
def execNop (g : Guard) (s : State) : Out := s.pure (.nop g) g .any id

/-- trap raises environment call with TRAPPC at the word after it (R194, R196). -/
def execTrap (g : Guard) (imm : BitVec 16) (s : State) : Out :=
  s.run (.trap g imm) g .any fun t => .next (s.takeTrap s.cur 0x0C 0 (t.pc + 8) (imm.zeroExtend 64))

/-- brk raises breakpoint (R194). -/
def execBrk (g : Guard) (imm : BitVec 16) (s : State) : Out :=
  s.run (.brk g imm) g .any fun _ => s.raise 0x0B 0 (imm.zeroExtend 64)

/-- tret returns from a trap; at user privilege it raises privileged operation (R199). -/
def execTret (g : Guard) (s : State) : Out :=
  s.run (.tret g) g .any fun t =>
    if !t.super then s.raise 0x0A 1 (wordOf (.tret g))
    else s.retireTo { t with status := (t.status &&& ~~~0xC00) ||| (t.trapStat &&& 0xC00) } t.trapPc

/-- The handler strand starts on the oldest packet, when HANDLER.EN is 1, it is idle and a packet is present (R231). The start is the
acquire of a packet whose closing store released (R52). -/
def State.startHandler (s : State) (c : Nat) : State :=
  let l := s.lcore c
  let k := mkStrand c 4
  let t := s.strand k
  match l.window with
  | [] => s
  | p :: _ =>
    if l.handler.getLsbD 0 && !t.active && !t.stopped then
      let s := (s.setLcore c { l with msgInfo := BitVec.ofNat 64 (p.sender * 2 ^ 32 + p.words.length) }).setStrand k
        { t with active := true, wait := .none, status := (t.status &&& ~~~0xC00), pc := l.handler &&& ~~~7 }
      if p.rel then s.acquire c .pkg else s
    else s

/-- The oldest packet's words are freed, with the poison of the receive range (R200, R277). -/
def LCore.freePacket (l : LCore) : LCore :=
  { l with window := l.window.tail, lsPoison := l.lsPoison.clear (lsSize / 32) (lsSize / 32 + 128) }

/-- hret ends the packet, frees its words, and starts the next one when it waits (R200). -/
def execHret (g : Guard) (s : State) : Out :=
  s.run (.hret g) g .handler fun t =>
    let c := lcOf s.cur
    let s := s.setStrand s.cur { t with active := false, wait := .none }
    .next ((s.modLcore c LCore.freePacket).startHandler c)

/-- crd reads a control register (R190). -/
def execCrd (g : Guard) (d : SR) (cr : Cr) (s : State) : Out :=
  s.run (.crd g d cr) g .any fun t =>
    if !t.super && !Cr.userRead cr then s.raise 0x0A 2 (wordOf (.crd g d cr))
    else s.retire (t.ws d (s.crRead s.cur cr))

/-- cwr writes s[A] (R190). -/
def execCwr (g : Guard) (cr : Cr) (a : SR) (s : State) : Out :=
  s.crUpdate (.cwr g cr a) g cr fun t _ => t.rs a

/-- crset sets the bits that are 1 in s[A] (R190). -/
def execCrset (g : Guard) (cr : Cr) (a : SR) (s : State) : Out :=
  s.crUpdate (.crset g cr a) g cr fun t old => old ||| t.rs a

/-- crclr clears the bits that are 1 in s[A] (R190). -/
def execCrclr (g : Guard) (cr : Cr) (a : SR) (s : State) : Out :=
  s.crUpdate (.crclr g cr a) g cr fun t old => old &&& ~~~(t.rs a)

def Ord.hasRel : Ord → Bool
  | .rel | .acqRel => true
  | _ => false
def Ord.hasAcq : Ord → Bool
  | .acq | .acqRel => true
  | _ => false

/-- The L1 action of an acquire after an access (R55). -/
def State.acqIf (s : State) (c : Nat) (o : Ord) (sc : Scope) : State := if Ord.hasAcq o then s.acquire c sc else s

/-- fence (R54, R55, R192). -/
def execFence (g : Guard) (ord : Ord) (sc : Scope) (s : State) : Out :=
  s.run (.fence g ord sc) g .any fun t =>
    s.releasing (.fence g ord sc) (Ord.hasRel ord) sc fun s => (s.acqIf (lcOf s.cur) ord sc).retire t

/-- time reads device time (R188). -/
def execTime (g : Guard) (d : SR) (s : State) : Out := s.pure (.time g d) g .any fun t => t.ws d s.devTime

/-- cid writes the logical core number (R187). -/
def execCid (g : Guard) (d : SR) (s : State) : Out :=
  s.pure (.cid g d) g .any fun t => t.ws d (BitVec.ofNat 64 (coreOfLc (lcOf s.cur)))

/-- Mesh position (row, column) of a die; none for the Trestle (R12). -/
def diePos (d : Nat) : Option (Nat × Nat) :=
  if d = 0 then some (4, 3) else if d = 1 then some (4, 1) else if d = 2 then some (4, 5)
  else if d ≤ 6 then some (d - 3, 1) else if d ≤ 10 then some (d - 7, 5)
  else if d ≤ 14 then some (d - 11, 2) else if d ≤ 18 then some (d - 15, 4)
  else if d = 19 then some (0, 3) else if d = 20 then some (3, 3)
  else if d = 21 then some (1, 3) else if d = 22 then some (2, 3)
  else if d ≤ 26 then some (d - 23, 0) else if d ≤ 30 then some (d - 27, 6) else none

def absDiff (a b : Nat) : Nat := (a - b) + (b - a)

/-- The hop distance of R13. A row-4 die joins the mesh through the row-3 die of its column. -/
def hops (a b : Nat) : Nat :=
  match diePos a, diePos b with
  | some (ra, ca), some (rb, cb) =>
    if a = b then 0
    else (if ra = 4 then 1 else 0) + (if rb = 4 then 1 else 0) + absDiff (min ra 3) (min rb 3) + absDiff ca cb
  | _, _ => 0

/-- The hop distance between virtual dies (R23). -/
def State.vhops (s : State) (x : Nat) (a b : Word) : Word :=
  let ea := (s.ctx x).vdies.get 0 a.toNat
  let eb := (s.ctx x).vdies.get 0 b.toNat
  if 27 < a.toNat ∨ 27 < b.toNat ∨ !ea.getLsbD 15 ∨ !eb.getLsbD 15 then 0xFFFF_FFFF_FFFF_FFFF
  else BitVec.ofNat 64 (hops (ea.bits 4 0) (eb.bits 4 0))

/-- dhops (R187). -/
def execDhops (g : Guard) (d a b : SR) (s : State) : Out :=
  s.pure (.dhops g d a b) g .any fun t => t.ws d (s.vhops (ctxOf s.cur) (t.rs a) (t.rs b))

/-- A strand that may take time-compare: it runs work, waiting or not (R189). -/
def State.inWork (s : State) (k : Nat) : Bool :=
  let t := s.strand k
  s.alive && decide ((s.ctx (ctxOf k)).st = .running) && (s.lcore (lcOf k)).resident && !t.stopped
    && (if isHandler k then t.active else t.node.isSome)

/-- Time-compare (R189): taken in place of issuing, TRAPVAL the device time, TIMECMP back to its reset value; a waiting word is
abandoned. -/
def execTimeCompare (c k : Nat) (s : State) : Out :=
  if 4 < k then .fault .noSuchUnit
  else
    let j := mkStrand c k
    if s.inWork j && s.timeDue j then
      .next ((s.takeTrap j 0x0D 0 (s.strand j).pc s.devTime).modStrand j
        fun t => { t with timeCmp := 0xFFFF_FFFF_FFFF_FFFF })
    else .next s

/-- A word that fails step 1, 2 or 3 of R126. -/
def execIllegalInstruction (n : Nat) (w : Word) (s : State) : Out := s.raise 0x01 n w

/-- A fetch at or beyond the code buffer's length (R106): TRAPPC and TRAPVAL equal the offset. -/
def execInstructionFetchFault (off : Word) (s : State) : Out := .next (s.takeTrap s.cur 0x02 0x0D off off)

end Sys2Proof.Machine
end

