-- ==== Sys2Proof/Machine/TaskOps.lean ====
section
/-! DEFINITION. Task instructions (R183-R186) and virtual barriers (R226-R228). -/

namespace Sys2Proof.Machine

/-- tnext retires the current iteration; a pending switch is taken before any hand-out; then the next iteration, or none (R183,
R429, R434). -/
def execTnext (g : Guard) (d : SR) (pa : PR) (s : State) : Out :=
  s.run (.tnext g d pa) g .task fun t =>
    match t.node with
    | none => s.retire ((t.ws d 0).wp pa 0)
    | some n =>
      if t.switchPending then .next ((s.setStrand s.cur { t with iter := none }).saveStrand s.cur)
      else
        let (r, k) := (s.task n).handOut (coreOfLc (lcOf s.cur))
        let s := s.setTask n k
        match r with
        | some i => s.retire (({ t with iter := some i }.ws d (BitVec.ofNat 64 i)).wp pa allOnes)
        | none => s.retire (({ t with iter := none }.ws d 0).wp pa 0)

/-- tdone ends the strand's part in its node; with INTRAP 1 the node fails with ABORTED (R184, R440). -/
def execTdone (g : Guard) (s : State) : Out :=
  s.run (.tdone g) g .task fun t =>
    let core := coreOfLc (lcOf s.cur)
    match t.node with
    | none => s.retire t
    | some n =>
      let s := s.modTask n fun k => { k.modPart core fun p => { p with active := p.active - 1 } with lastDone := core }
      let s := s.setStrand s.cur { t with pc := t.pc + 8 }
      let s := s.idleStrand s.cur
      if t.inTrap then .next (s.failNode n 0x02 core (t.trapCause.bits 7 0)) else .next s

/-- tspawn creates a child of node record s[A]; in a versioned task the child waits for the commit (R185, R415). -/
def execTspawn (g : Guard) (d a : SR) (s : State) : Out :=
  s.run (.tspawn g d a) g .task fun t =>
    match t.node with
    | none => s.retire (t.ws d 0xFFFF_FFFF_FFFF_FFFF)
    | some n =>
      let k := s.task n
      let rec_ := (t.rs a).toNat
      if s.nnodes k.ctx k.graph ≤ rec_ then s.raise 0x02 0x0E (t.rs a)
      else s.releasing (.tspawn g d a) true .pkg fun s =>
        match s.freeEntry with
        | (none, s) => s.retire (t.ws d 0xFFFF_FFFF_FFFF_FFFF)
        | (some e, s) =>
          let s := s.newTask e k.ctx k.graph rec_ true k.ident (s.childChain k.ctx k.graph rec_ k.chain)
          let s := if t.versioned then s.modTask n fun k => { k with ver := { k.ver with spawns := k.ver.spawns ++ [e] } }
            else s.readyTask e
          s.retire (t.ws d (BitVec.ofNat 64 (s.task e).ident))

/-- tyield: a pending switch is taken, and the strand goes on after the tyield when it runs again (R186). -/
def execTyield (g : Guard) (s : State) : Out :=
  s.run (.tyield g) g .task fun t =>
    let s' := s.setStrand s.cur t.advance
    if t.switchPending then .next (s'.saveStrand s.cur) else .next s'

/-- Fields of a virtual barrier entry (R226). -/
def barPhase (w : Word) : Nat := w.bits 63 32
def barArrived (w : Word) : Nat := w.bits 31 16
def barCount (w : Word) : Nat := w.bits 15 0
def barMake (phase arrived count : Nat) : Word := BitVec.ofNat 64 (phase * 2 ^ 32 + arrived * 65536 + count)

/-- The barrier a barv or barw names (R226). -/
def Strand.barrier (t : Strand) (a : SR) (imm : BitVec 16) : Word := t.rs a + imm.zeroExtend 64
def State.barrierOk (s : State) (x : Nat) (b : Word) : Bool :=
  decide (b.toNat ≤ 4095) && decide (barCount ((s.ctx x).barriers.get 0 b.toNat) ≠ 0)

/-- Every strand that waits on a barrier of a context issues its barw again (R227). -/
def State.wakeBarrier (s : State) (x b : Nat) : State :=
  { s with strands := s.strands.map fun e =>
      match e.2.wait with
      | .bar b' _ _ => if b' = b ∧ ctxOf e.1 = x then (e.1, { e.2 with wait := .none }) else e
      | _ => e }

/-- barv arrives, takes the ticket, and completes the phase when COUNT is reached (R227). It is a package-scope release. -/
def execBarv (g : Guard) (a : SR) (imm : BitVec 16) (s : State) : Out :=
  s.run (.barv g a imm) g .any fun t =>
    let x := ctxOf s.cur
    let b := t.barrier a imm
    if t.versioned then s.raise 0x09 0x05 (wordOf (.barv g a imm))
    else if !s.barrierOk x b then s.raise 0x02 0x0C b
    else s.releasing (.barv g a imm) true .pkg fun s =>
      let w := (s.ctx x).barriers.get 0 b.toNat
      let t := { t with ticket := some (b.toNat, barPhase w) }
      if barArrived w + 1 = barCount w then
        let s := s.modCtx x fun c =>
          { c with barriers := c.barriers.set 0 b.toNat (barMake ((barPhase w + 1) % 2 ^ 32) 0 (barCount w)) }
        (s.wakeBarrier x b.toNat).retire t
      else
        let s := s.modCtx x fun c =>
          { c with barriers := c.barriers.set 0 b.toNat (barMake (barPhase w) (barArrived w + 1) (barCount w)) }
        s.retire t

/-- FECTL fields (R117). -/
def Strand.spin (t : Strand) : Nat := t.fectl.bits 31 16
def Strand.noPark (t : Strand) : Bool := t.fectl.getLsbD 1

/-- A barw wait goes on: one more failed attempt, and the strand parks under FECTL (R211, R228). -/
def Strand.barWait (t : Strand) (b failed : Nat) : Wait := .bar b failed (!t.noPark && decide (t.spin < failed))

/-- barw waits until the barrier's PHASE differs from the ticket's; its completion is a package-scope acquire (R228). -/
def execBarw (g : Guard) (a : SR) (imm : BitVec 16) (s : State) : Out :=
  s.run (.barw g a imm) g .any fun t =>
    let x := ctxOf s.cur
    let b := t.barrier a imm
    if t.versioned then s.raise 0x09 0x05 (wordOf (.barw g a imm))
    else if !s.barrierOk x b then s.raise 0x02 0x0C b
    else match t.ticket with
      | none => s.raise 0x01 7 (wordOf (.barw g a imm))
      | some (n, ph) =>
        if n ≠ b.toNat then s.raise 0x01 7 (wordOf (.barw g a imm))
        else if barPhase ((s.ctx x).barriers.get 0 n) ≠ ph then (s.acquire (lcOf s.cur) .pkg).retire t
        else s.waitOn (t.barWait n 1)

end Sys2Proof.Machine
end

