-- ==== Sys2Proof/Machine/MemAccess.lean ====
section
/-! DEFINITION. Loads and stores (R207-R209), full/empty forms with their attempts, budget and parking (R210-R213), the
send buffer (R229, R230), and stream register moves (R243). -/

namespace Sys2Proof.Machine

-- Loading a place (R47, R50, R55).

/-- A load that is performed at the home: with .acq of die scope or wider (R47). A core-scope acquire is a plain load of the L1 (R55). -/
def loadsHome (ord : Ord) (sc : Scope) : Bool := Ord.hasAcq ord && decide (sc ≠ .core)

/-- A load of n bytes: through the L1 when plain (R50, R55), at the home with .acq (R47, R48, R56; log 100). -/
def State.loadPlace (s : State) (t : Strand) (c : Nat) (pl : Place) (n : Nat) (ord : Ord) (sc : Scope) :
    List Byte × State :=
  if loadsHome ord sc then
    let s := s.prepHome c pl n
    (s.homeRead t c pl n, s.acquire c sc)
  else match pl with
    | .dev id off roc =>
      let (bs, s) := s.l1Read c id off n roc
      match t.version with
      | some v => (seen (s.task v).ver.dev (byteKey id off) bs, s)
      | none => (bs, s)
    | pl => (s.homeRead t c pl n, s)

/-- A load of a part of an access, of which some words have been read early (R43). -/
def State.loadPart (s : State) (es : List Early) (t : Strand) (c : Nat) (pl : Place) (n : Nat) (ord : Ord) (sc : Scope) :
    List Byte × State :=
  let (bs, s) := s.loadPlace t c pl n ord sc
  (Early.over es (pl.spot c) bs, s)

/-- Host space in a versioned task raises versioned-task violation (R291). -/
def versionedHost (t : Strand) (m : MemOp) : Bool := t.versioned && decide (m.sp = .host)

/-- The full/empty bit of a place. -/
def State.placeFull (s : State) (c : Nat) (pl : Place) : Bool :=
  match pl with
  | .dev id off _ => s.feAt id off
  | .ls off => (s.lcore c).lsFull off
  | _ => true
def State.setPlaceFull (s : State) (c : Nat) (pl : Place) (full : Bool) : State :=
  match pl with
  | .dev id off _ => s.setFeAt id off full
  | .ls off => s.setLsFe c off full
  | _ => s

-- Waiting (R210-R213).

/-- LEFT of FEBUDGET (R118). -/
def Strand.feLeft (t : Strand) : Nat := t.feBudget.bits 31 0
def Strand.withLeft (t : Strand) (n : Nat) : Strand := { t with feBudget := t.feBudget.put 31 0 n }
/-- LEFT := LIMIT (R211 step 1). -/
def Strand.refill (t : Strand) : Strand := t.withLeft (t.feBudget.bits 63 32)

/-- The counters a waiting word has reached: failed attempts since it was issued or woken, and whether it has parked. -/
def Wait.failed : Wait → Nat
  | .fe _ _ f _ _ => f
  | _ => 0
def Wait.ever : Wait → Bool
  | .fe _ _ _ _ e => e
  | _ => false

/-- A failed attempt of the issuing strand (R211 steps 2 to 4, R212, R213). `mask` and `data` are those of the park
record. -/
def State.failAttempt (s : State) (i : Instr) (m : MemOp) (fe : Fe) (o : Word) (pl : Place) (mask data : Nat) : Out :=
  let t := s.strand s.cur
  let ever := t.wait.ever
  if t.feLeft = 0 then s.raise 0x05 ((if ever then 32 else 0) + m.sp.code.toNat * 8 + fe.code.toNat) o
  else
    let t := t.withLeft (t.feLeft - 1)
    let f := t.wait.failed + 1
    let park : Bool := !t.noPark && (ever || decide (t.spin < f))
    let s := s.setStrand s.cur { t with wait := .fe i o f park (ever || park) }
    match park, pl with
    | true, .dev id off _ => .next (s.parkStrand s.cur id off fe.code.toNat mask data)
    | _, _ => .next s

-- The send buffer (R229, R230).

/-- A store to [mw + o] of some words; what a discarded version leaves of a packet that it has not closed stays (log 109). -/
def State.sendStore (s : State) (i : Instr) (narrow : Bool) (o : Word) (ws : List Word) (ord : Ord) (sc : Scope) : Out :=
  let t := s.strand s.cur
  let c := lcOf s.cur
  let l := s.lcore c
  let d := o.bits 11 3
  if 0x1FFF < o.toNat then s.raise 0x02 0x0A o
  else if decide (s.closedPackets c = []) && decide (512 < l.sendBuf.length + ws.length) then s.raise 0x02 0x0A o
  else if o.getLsbD 12 && decide ((s.ctx (ctxOfLc c)).lcount ≤ d) then s.raise 0x02 0x0B (BitVec.ofNat 64 d)
  else if o.toNat % 8 ≠ 0 then s.raise 0x04 0 o
  else if narrow then s.raise 0x01 7 (wordOf i)
  else if s.closedPackets c ≠ [] then s.waitOn (.send i)
  else s.releasing i (Ord.hasRel ord) sc fun s =>
    let l := s.lcore c
    let words := l.sendBuf ++ ws
    if !o.getLsbD 12 then (s.modLcore c fun l => { l with sendBuf := words }).retire t
    else
      let p : Packet := ⟨coreOfLc c, d, words, Ord.hasRel ord && decide (sc ≠ .core), some s.cur, l.closings⟩
      match t.version with
      | some n =>
        let s := s.modLcore c fun l => { l with sendBuf := [], closings := l.closings + 1 }
        (s.modTask n fun k => { k with ver := { k.ver with packets := k.ver.packets ++ [p] } }).retire t
      | none => (s.modLcore c fun l => { l with sendBuf := [], closings := l.closings + 1, closed := some p }).retire t

-- Loads and stores.

/-- Bytes of a type (R207). -/
def tyBytes (ty : Ty) : Nat := ty.width / 8
/-- Rights of a load form and of a store form (R203). -/
def ldNeed (fe : Fe) : Need :=
  match fe with
  | .wt => { r := true, f := true }
  | .cn => { r := true, w := true, f := true }
  | _ => { r := true }
def stNeed (fe : Fe) : Need :=
  match fe with
  | .fl | .fu => { w := true, f := true }
  | _ => { w := true }

/-- ld once its checks before the word's own effect have passed (R207, R58, R211). -/
def State.loadWord (s : State) (i : Instr) (ty : Ty) (fe : Fe) (ord : Ord) (sc : Scope) (d : SR) (m : MemOp) : Out :=
  let t := s.strand s.cur
  let c := lcOf s.cur
  let n := tyBytes ty
  let o := t.offset m
  if versionedHost t m then s.raise 0x09 0x03 (wordOf i)
  else if t.versioned && fe.code != 0 then s.raise 0x09 0x01 (wordOf i)
  else match s.locate s.cur t m o n n (ldNeed fe) with
    | .error x => s.raiseT x
    | .ok pl =>
      if fe = .plain then
        let (bs, s) := s.loadPlace t c pl n ord sc
        s.retire (t.ws d (BitVec.ofNat 64 (leNat bs)))
      else
        let s := s.prepHome c pl n
        if s.placeFull c pl then
          let v := BitVec.ofNat 64 (leNat (s.homeRead t c pl n))
          let s := s.setStrand s.cur { t with wait := .none }
          let s := if fe = .cn then s.setPlaceFull c pl false else s
          (s.acquire c .pkg).retire (t.refill.ws d v)
        else s.failAttempt i m fe o pl 0 0

/-- How a full/empty store waits for its strand's own packets: a .fl keeps its counters (R211, R212). -/
def Strand.feSend (t : Strand) (i : Instr) (fe : Fe) (o : Word) : Wait :=
  if fe = .fl then .fe i o t.wait.failed false t.wait.ever else .send i

/-- st once its checks before the word's own effect have passed (R207, R58, R211). What the release of a .fl lets arrive may fill the
word, and the attempt then fails. -/
def State.storeWord (s : State) (i : Instr) (ty : Ty) (fe : Fe) (ord : Ord) (sc : Scope) (r : SR) (m : MemOp) : Out :=
  let t := s.strand s.cur
  let c := lcOf s.cur
  let n := tyBytes ty
  let o := t.offset m
  if m.sp = .mw then s.sendStore i (ty.width != 64) o [t.rs r] ord sc
  else if versionedHost t m then s.raise 0x09 0x03 (wordOf i)
  else if t.versioned && fe.code != 0 then s.raise 0x09 0x01 (wordOf i)
  else match s.locate s.cur t m o n n (stNeed fe) with
    | .error x => s.raiseT x
    | .ok pl =>
      let bs := leBytes n (t.rs r).toNat
      if fe = .plain then s.releasing i (Ord.hasRel ord) sc fun s => (s.writePlace t c pl false bs).retireV t
      else
        let sh := o.toNat % 8
        let open_ := fun (s : State) => fe = .fu || !s.placeFull c pl
        let fail := fun (s : State) => s.failAttempt i m fe o pl ((2 ^ n - 1) * 2 ^ sh) (low (8 * n) (t.rs r) * 2 ^ (8 * sh))
        let s := s.prepHome c pl n
        if !open_ s then fail s
        else s.releasingAs (t.feSend i fe o) true .pkg fun s =>
          if open_ s then ((s.writePlace t c pl true bs).setPlaceFull c pl true).retire t.refill else fail s

/-- ld (R207, R209, R210). -/
def execLd (g : Guard) (ty : Ty) (fe : Fe) (ord : Ord) (sc : Scope) (d : SR) (m : MemOp) (s : State) : Out :=
  s.run (.ld g ty fe ord sc d m) g .any fun _ => s.loadWord (.ld g ty fe ord sc d m) ty fe ord sc d m

/-- st (R207, R209, R210, R229). -/
def execSt (g : Guard) (ty : Ty) (fe : Fe) (ord : Ord) (sc : Scope) (r : SR) (m : MemOp) (s : State) : Out :=
  s.run (.st g ty fe ord sc r m) g .any fun _ => s.storeWord (.st g ty fe ord sc r m) ty fe ord sc r m

/-- A load of `size` bytes with alignment `align`, given to f (R208, R243); its words are read now, but for those read early (R43; log
113). -/
def State.loadBlock (s : State) (es : List Early) (i : Instr) (size align : Nat) (ord : Ord) (sc : Scope) (m : MemOp)
    (f : Strand → Nat → Strand) : Out :=
  let t := s.strand s.cur
  if versionedHost t m then s.raise 0x09 0x03 (wordOf i)
  else match s.locate s.cur t m (t.offset m) size align { r := true } with
    | .error x => s.raiseT x
    | .ok pl =>
      let (bs, s) := s.loadPart es t (lcOf s.cur) pl size ord sc
      s.retire (f t (leNat bs))

/-- A store of `size` bytes with alignment `align` (R208, R243); words of it that are named arrive later (R43; log 113). -/
def State.storeBlock (s : State) (ws : List Spot) (i : Instr) (size align x : Nat) (ord : Ord) (sc : Scope) (m : MemOp) : Out :=
  let t := s.strand s.cur
  if versionedHost t m then s.raise 0x09 0x03 (wordOf i)
  else match s.locate s.cur t m (t.offset m) size align { w := true } with
    | .error x => s.raiseT x
    | .ok pl => s.releasing i (Ord.hasRel ord) sc fun s => (s.writeWords ws t pl (leBytes size x)).retireV t

/-- ld2, some words of which may have been read early. -/
def State.ld2 (s : State) (es : List Early) (g : Guard) (ord : Ord) (sc : Scope) (d : SR) (m : MemOp) : Out :=
  s.run (.ld2 g ord sc d m) g .any fun _ =>
    s.loadBlock es (.ld2 g ord sc d m) 16 16 ord sc m fun t x =>
      (t.ws d (BitVec.ofNat 64 x)).wsN (d.toNat + 1) (BitVec.ofNat 64 (x / 2 ^ 64))
/-- st2, some words of which may arrive later. -/
def State.st2 (s : State) (ws : List Spot) (g : Guard) (ord : Ord) (sc : Scope) (r : SR) (m : MemOp) : Out :=
  s.run (.st2 g ord sc r m) g .any fun t =>
    let lo := t.rs r
    let hi := t.rsN (r.toNat + 1)
    if m.sp = .mw then s.sendStore (.st2 g ord sc r m) false (t.offset m) [lo, hi] ord sc
    else s.storeBlock ws (.st2 g ord sc r m) 16 16 (lo.toNat + 2 ^ 64 * hi.toNat) ord sc m
/-- qld, some words of which may have been read early. -/
def State.qld (s : State) (es : List Early) (g : Guard) (ord : Ord) (sc : Scope) (d : QR) (m : MemOp) : Out :=
  s.run (.qld g ord sc d m) g .task fun _ =>
    s.loadBlock es (.qld g ord sc d m) 32 32 ord sc m fun t x => { t with q := t.q.set 0 d.toNat (BitVec.ofNat 256 x) }
/-- qst, some words of which may arrive later. -/
def State.qst (s : State) (ws : List Spot) (g : Guard) (ord : Ord) (sc : Scope) (r : QR) (m : MemOp) : Out :=
  s.run (.qst g ord sc r m) g .task fun t =>
    s.storeBlock ws (.qst g ord sc r m) 32 32 (t.q.get 0 r.toNat).toNat ord sc m

/-- ld2 (R208). -/
def execLd2 (g : Guard) (ord : Ord) (sc : Scope) (d : SR) (m : MemOp) (s : State) : Out := s.ld2 [] g ord sc d m
/-- st2 (R208, R229). -/
def execSt2 (g : Guard) (ord : Ord) (sc : Scope) (r : SR) (m : MemOp) (s : State) : Out := s.st2 [] g ord sc r m
/-- qld (R243). -/
def execQld (g : Guard) (ord : Ord) (sc : Scope) (d : QR) (m : MemOp) (s : State) : Out := s.qld [] g ord sc d m
/-- qst (R243). -/
def execQst (g : Guard) (ord : Ord) (sc : Scope) (r : QR) (m : MemOp) (s : State) : Out := s.qst [] g ord sc r m

end Sys2Proof.Machine
end

