-- ==== Sys2Proof/Machine/Engine.lean ====
section
/-! DEFINITION. What every engine shares: reaching an operand (R204, R285, R300), reading and writing it (R56, R300, R364),
poison (R277, R303), starting a command, its completion and its fault (R28, R31, R61, R304, R337). -/

namespace Sys2Proof.Machine

/-- Where an operand of an engine lies: a device buffer, the local store of a logical core, host memory. -/
inductive Loc where
  | dev (cap : Cap)
  | ls (c : Nat)
  | host (cap : Cap)
  deriving DecidableEq, Repr

/-- Why an engine cannot reach a byte: a capability cause of DETAIL 0x01 to 0x07, the range, a page. -/
inductive Miss where
  | cap | range | page
  deriving DecidableEq, Repr

/-- The local store of a peer that names no logical core (R298, R305). -/
def noCore : Nat := 2 ^ 41
/-- The checks of one access of an engine of logical core c (R203, R204, R285). Local stores need no rights (R300); a peer that names no
logical core has none of its bytes in range (R305). -/
def State.reach (s : State) (c : Nat) (l : Loc) (need : Need) (o n : Nat) : Option Miss :=
  let sec := (s.ctx (ctxOfLc c)).secure
  let ofCap := fun (d : Nat) => if d = 0x08 then Miss.range else Miss.cap
  match l with
  | .dev cap =>
    match capCheck s sec cap false need o n with
    | some d => some (ofCap d)
    | none => if (pageFaultIn s cap.id (cap.base + o) n).isSome then some .page else none
  | .ls k => if k = noCore ∨ lsSize < o + n then some .range else none
  | .host cap => (capCheck s sec cap true need o n).map ofCap

def State.hostAddr (s : State) (cap : Cap) (o : Nat) : Nat := ((s.buf cap.id).pmap.toNat + cap.base + o) % 2 ^ 64

/-- Where byte o of an operand lies within its buffer or local store. -/
def Loc.pos (l : Loc) (o : Nat) : Nat :=
  match l with
  | .dev cap => cap.base + o
  | .ls _ => o
  | .host cap => cap.base + o
/-- Two operands of one buffer ID or one local store (R300). -/
def Loc.same : Loc → Loc → Bool
  | .dev a, .dev b => a.id == b.id
  | .ls a, .ls b => a == b
  | .host a, .host b => a.id == b.id
  | _, _ => false

/-- Bytes at their home; for device memory after the engine's own L1 has written its dirty bytes back (R56). -/
def State.engineHome (s : State) (c : Nat) (l : Loc) (o n : Nat) : List Byte × State :=
  match l with
  | .dev cap => let s := s.writeBackRange c cap.id (cap.base + o) n; (s.homeBytes cap.id (cap.base + o) n, s)
  | .ls k => ((s.lcore k).lsBytes o n, s)
  | .host cap => (s.hostBytes (s.hostAddr cap o) n, s)
/-- Bytes through the engine's own L1 (R300, R364). -/
def State.engineRead (s : State) (c : Nat) (l : Loc) (o n : Nat) : List Byte × State :=
  match l with
  | .dev cap => s.l1Read c cap.id (cap.base + o) n cap.roc
  | l => s.engineHome c l o n
def State.engineNat (s : State) (c : Nat) (l : Loc) (o n : Nat) : Nat × State :=
  let (bs, s) := s.engineRead c l o n
  (leNat bs, s)

/-- Where the byte at a position of an operand lies. -/
def State.locSpot (s : State) (l : Loc) (p : Nat) : Spot :=
  match l with
  | .dev cap => .dev cap.id p
  | .ls k => .ls k p
  | .host cap => .host (((s.buf cap.id).pmap.toNat + p) % 2 ^ 64)
/-- Some byte of a range lies in a poisoned granule (R277). -/
def State.enginePoison (s : State) (l : Loc) (o n : Nat) : Bool :=
  match l with
  | .dev cap => (s.poisonIn cap.id (cap.base + o) n).isSome
  | .ls k => ((s.lcore k).lsPoisonIn o n).isSome
  | .host cap => (List.range n).any fun i => s.hostPoison.get false ((s.hostAddr cap o + i) / 32)

/-- Writing at the home, from a position of the buffer or local store. -/
def State.engineWriteAt (s : State) (c : Nat) (l : Loc) (p : Nat) (bs : List Byte) : State :=
  match l with
  | .dev cap => s.engineWriteDev c cap.id p bs
  | .ls k => s.modLcore k fun x => x.setLs p bs
  | .host cap => s.setHost (((s.buf cap.id).pmap.toNat + p) % 2 ^ 64) bs
def State.engineWrite (s : State) (c : Nat) (l : Loc) (o : Nat) (bs : List Byte) : State := s.engineWriteAt c l (l.pos o) bs
def State.setEnginePoison (s : State) (l : Loc) (o : Nat) (p : Bool) : State :=
  match l with
  | .dev cap => s.setPoison cap.id (cap.base + o) p
  | .ls k => s.modLcore k fun x => { x with lsPoison := x.lsPoison.set false (o / 32) p }
  | .host cap => { s with hostPoison := s.hostPoison.set false (s.hostAddr cap o / 32) p }

/-- The full/empty bit of the word that holds a byte; host memory has none. -/
def State.engineFull (s : State) (l : Loc) (o : Nat) : Bool :=
  match l with
  | .dev cap => s.feAt cap.id (cap.base + o)
  | .ls k => (s.lcore k).lsFull o
  | .host _ => true
def State.setFullAt (s : State) (l : Loc) (p : Nat) (full : Bool) : State :=
  match l with
  | .dev cap => s.setFeAt cap.id p full
  | .ls k => s.setLsFe k p full
  | .host _ => s
def State.setEngineFull (s : State) (l : Loc) (o : Nat) (full : Bool) : State := s.setFullAt l (l.pos o) full
/-- The bits of the words a range of n bytes touches. -/
def State.setEngineBits (s : State) (l : Loc) (o n : Nat) (full : Bool) : State :=
  (List.range ((l.pos o + n + 7) / 8 - l.pos o / 8)).foldl
    (fun s i => s.setFullAt l ((l.pos o / 8 + i) * 8) full) s

/-- The identity of the poison granule of a byte. -/
def State.granule (s : State) (l : Loc) (o : Nat) : Nat × Nat :=
  match l with
  | .dev cap => (0, byteKey cap.id (cap.base + o) / 32)
  | .ls k => (k + 2, o / 32)
  | .host cap => (1, s.hostAddr cap o / 32)
/-- Bytes from a position to the end of its poison granule. -/
def Loc.room (l : Loc) (o : Nat) : Nat := 32 - l.pos o % 32

/-- A machine under a command, the granules the command has poisoned, the transfer offset of the first (R303), the descriptor it read
when it started (R299), what it carries from an earlier turn or stop, and the units it may do before it stops: none, as far as it can
go. Of the agent `who`, words in `ws` arrive later than the others, and `es` have been read before them (R43). -/
structure Work where
  s : State
  bad : List (Nat × Nat) := []
  first : Option Nat := none
  desc : List Word := []
  more : Nat := 0
  relist : Bool := false
  held : Tab (Option Kept) := []
  mark : Progress := {}
  left : Option Nat := none
  who : Agent := .queue 0 0
  ws : List Spot := []
  es : List Early := []
  deriving DecidableEq, Repr

/-- Poisoned granules a command counts (R303). -/
def Work.poisoned (w : Work) : Nat := w.more + w.bad.length
/-- The command's units are used up, and it stops at this boundary. -/
def Work.out (w : Work) : Bool := w.left == some 0
/-- One unit is done. -/
def Work.unitDone (w : Work) : Work := { w with left := w.left.map (· - 1) }

/-- Some of the command's writes are still to arrive. -/
def Work.parted (w : Work) : Bool := w.s.apart.late.any fun x => x.who == w.who
/-- They arrive. -/
def Work.landed (w : Work) : Work := { w with s := w.s.landFor w.who }
/-- A write that is still to arrive. -/
def Work.later (w : Work) (p : Spot) (bs : List (Byte × Byte)) (full : Option Bool) : Work :=
  { w with s := { w.s with apart := { w.s.apart with late := w.s.apart.late ++ [⟨w.who, p, true, none, bs, full⟩] } } }
/-- Writing bytes at the home; of a granule that is not poisoned, words that are named are written later (R43). -/
def Work.store (w : Work) (c : Nat) (l : Loc) (o : Nat) (bs : List Byte) : Work :=
  if w.ws = [] ∨ w.s.enginePoison l o 1 then { w with s := w.s.engineWrite c l o bs }
  else bs.zipIdx.foldl (fun w e =>
    let p := w.s.locSpot l (l.pos o + e.2)
    if p.named w.ws then w.later p (wholly [e.1]) none else { w with s := w.s.engineWriteAt c l (l.pos o + e.2) [e.1] }) w
/-- Setting the bit of a word: with the word's data, where these are written later (R44). `alone`: no data change with it. -/
def Work.setFull (w : Work) (l : Loc) (o : Nat) (full alone : Bool) : Work :=
  let p := w.s.locSpot l (l.pos o)
  if (alone && p.named w.ws) || (w.ws != [] && w.s.apart.late.any fun x => x.who == w.who && x.spot.word == p.word) then
    w.later p [] (some full)
  else { w with s := w.s.setEngineFull l o full }

/-- Writing bytes that lie in one poison granule (R277, R303): formed from a poisoned source, the whole granule becomes 0 and
poisoned; a whole granule of whole data loses its poison; a granule this command has poisoned keeps its zeros under a
partial write, and so does any poisoned one after a resume from an image, which does not list them (log 117). `t` is the transfer offset; the first poisoned granule is the first in time, also where granules are taken in descending
order (log 84: the model's choice). That words moved under CARRY and FILL make a granule whole together is the model's choice (log 125). -/
def Work.put (w : Work) (c : Nat) (l : Loc) (o : Nat) (bs : List Byte) (poisoned : Bool) (t : Nat) : Work :=
  let g := w.s.granule l o
  if poisoned then
    let s := w.s.engineWriteAt c l (l.pos o / 32 * 32) (List.replicate 32 0)
    { w with
      s := s.setEnginePoison l o true
      bad := if w.bad.contains g then w.bad else w.bad ++ [g]
      first := if w.first.isSome then w.first else some t }
  else if bs.length = 32 then
    let w := w.store c l o bs
    { w with s := w.s.setEnginePoison l o false }
  else if (w.bad.contains g || w.more != 0) && w.s.enginePoison l o 1 then w
  else w.store c l o bs

/-- Writing bytes, each with whether it was formed from a poisoned granule, granule by granule (R277); `fuel` bounds them. -/
def Work.putAll (c : Nat) (l : Loc) (t : Nat) : Nat → Work → Nat → List (Byte × Bool) → Work
  | 0, w, _, _ => w
  | _ + 1, w, _, [] => w
  | fuel + 1, w, o, bs =>
    let n := l.room o
    let x := bs.take n
    Work.putAll c l t fuel (w.put c l o (x.map Prod.fst) (x.any Prod.snd) t) (o + n) (bs.drop n)
def Work.writeMarked (w : Work) (c : Nat) (l : Loc) (o : Nat) (bs : List (Byte × Bool)) (t : Nat) : Work :=
  Work.putAll c l t (bs.length + 1) w o bs
def Work.write (w : Work) (c : Nat) (l : Loc) (o : Nat) (bs : List Byte) (poisoned : Bool) (t : Nat) : Work :=
  w.writeMarked c l o (bs.map fun b => (b, poisoned)) t

-- Commands.

/-- What a command comes to: it waits with its progress, it completes, or it faults. -/
inductive CmdRes where
  | wait (w : Work) (stall : Bool) (prog : Nat)
  | done (s : State) (resp : Option Word)
  | fault (s : State) (resp : Word)
  deriving DecidableEq, Repr

def State.queue (s : State) (c q : Nat) : Queue := (s.lcore c).queue q
def State.modQueue (s : State) (c q : Nat) (f : Queue → Queue) : State :=
  s.modLcore c fun l => l.setQueue q (f (l.queue q))

/-- The queue a push or pop word names (R153, R154). -/
def Wait.queueOf : Wait → Option Nat
  | .push (.qpush _ q _ _) => some q.toNat
  | .push i => (encode i).bind fun w => queueOfMajor (w.bits 63 56)
  | .pop (.qpop _ _ q) => some q.toNat
  | .pop (.qpeek _ _ q) => some q.toNat
  | _ => Option.none

/-- FAULT becomes 1 (R31): the pops and peeks that wait on the queue raise engine fault at that moment; a push that waits
issues again and raises it. -/
def State.setFault (s : State) (c q : Nat) : State :=
  (List.range 5).foldl (fun s i =>
    let k := mkStrand c i
    let w := (s.strand k).wait
    if w.queueOf = some q then
      match w with
      | .pop _ => s.takeTrap k 0x08 0x02 (s.strand k).pc (BitVec.ofNat 64 q)
      | _ => s.modStrand k fun t => { t with wait := .none }
    else s) (s.modQueue c q fun x => { x with fault := true })

/-- The end of the started command. -/
def Queue.finish (x : Queue) (resp : Option Word) : Queue :=
  { x with started := none, prog := 0, stall := false, bad := [], firstBad := none, desc := [], more := 0, relist := false, held := [], mark := {},
           resp := x.resp ++ resp.toList }

/-- What the outcome of a command leaves (R28, R31, R61, R343). -/
def State.settle (c q : Nat) (cmd : Cmd) : CmdRes → State
  | .wait w stall prog =>
    w.s.modQueue c q fun x =>
      { x with prog := prog, stall := stall, bad := w.bad, firstBad := w.first, desc := w.desc, more := w.more, relist := w.relist,
               held := w.held, mark := w.mark }
  | .done s resp => (s.payLines c).modQueue c q fun x => { x.finish resp with doneSeq := BitVec.ofNat 64 cmd.seq }
  | .fault s resp => ((s.payLines c).setFault c q).modQueue c q fun x => x.finish (some resp)

/-- The engines of a logical core run: its context runs and it is resident. -/
def State.coreRuns (s : State) (c : Nat) : Bool :=
  s.alive && decide ((s.ctx (ctxOfLc c)).st = .running) && (s.lcore c).resident

/-- The command whose turn it is on a queue: the started one, or the head, which starts while no FAULT is set and the
response side has room (R31, R300, R304, R337). -/
def Queue.turn (x : Queue) : Option (Cmd × Queue) :=
  match x.started with
  | some cmd => some (cmd, x)
  | none =>
    match x.cmds with
    | [] => none
    | cmd :: rest =>
      if x.fault || decide (32 ≤ x.resp.length) then none else some (cmd, { x with cmds := rest, started := some cmd })

/-- A queue's command is started or goes on, by a number of units or as far as it can; some of its words may arrive later, or may have been
read early. -/
def State.runOn (s : State) (c q : Nat) (cmd : Cmd) (x : Queue) (left : Option Nat) (ws : List Spot) (es : List Early)
    (work : Cmd → Nat → Work → CmdRes) : State :=
  let w : Work := ⟨s.modQueue c q fun _ => x, x.bad, x.firstBad, x.desc, x.more, x.relist, x.held, x.mark, left, .queue c q, ws, es⟩
  State.settle c q cmd (work cmd x.prog w)

/-- A command event: the queue's command, when it has the code, is started or goes on as far as it can. -/
def State.runCommand (s : State) (c q code : Nat) (work : Cmd → Nat → Work → CmdRes) : Out :=
  if !(s.coreRuns c && s.queuePresent c q) then .next s
  else match (s.queue c q).turn with
    | none => .next s
    | some (cmd, x) => if cmd.code ≠ code then .next s else .next (s.runOn c q cmd x none [] [] work)

-- Entries and descriptors of queues 0, 4 and 5 (R298, R299, R360, R361, R387, R388).

def Cmd.tag (x : Cmd) : Nat := x.entry.bits 63 32
def Cmd.desc (x : Cmd) : Nat := x.entry.bits 18 6 * 64
def Cmd.respond (x : Cmd) : Bool := x.entry.getLsbD 5
def Cmd.mode (x : Cmd) : Nat := x.entry.bits 4 0
def Cmd.capN (x : Cmd) (i : Nat) : Cap := x.caps.getD i 0

/-- The eight words of a descriptor, none when it lies in a poisoned granule (STATUS 0x15); a started command has read its own. -/
def Work.descriptor (w : Work) (c : Nat) (x : Cmd) : Option (List Word) :=
  let s := w.s
  if w.desc ≠ [] then some w.desc
  else if ((s.lcore c).lsPoisonIn x.desc 64).isSome then none
  else some ((List.range 8).map fun i => BitVec.ofNat 64 ((s.lcore c).lsNat (x.desc + 8 * i) 8))

/-- The response entry TAG, STATUS, count (R304, R376). -/
def Cmd.response (x : Cmd) (status count : Nat) : Word :=
  BitVec.ofNat 64 (x.tag * 2 ^ 32 + status * 2 ^ 24 + min count 0xFF_FFFF)

/-- The completion record (R304, R376): word 1 first, then word 0 as an unconditional fill. -/
def State.record (s : State) (c cwoff w0 w1 : Nat) : State :=
  (s.modLcore c fun l => l.setLs (cwoff + 8) (leBytes 8 w1)).fillLs c cwoff w0

end Sys2Proof.Machine
end

