-- ==== Sys2Proof/Machine/Queues.lean ====
section
/-! DEFINITION. Queue words: pushes with their capture (R154, R234, R298, R325, R360), pops and peeks (R235), status
(R28, R236), the clearing of a fault (R31, R237), templates (R322), slot claims (R315, R316), and the events in which a
waiting push or pop takes effect. -/

namespace Sys2Proof.Machine

/-- An element a word pushes: queue, code, entry, and the S field of the word (R154, R155). -/
structure Push where
  q : Nat
  code : Nat
  sr : SR
  entry : Word
  deriving DecidableEq, Repr

/-- The element of an engine-command major: the late operand over IMM (R154). -/
def Strand.major (t : Strand) (q code : Nat) (sr : SR) (imm : BitVec 32) : Push :=
  ⟨q, code, sr, (t.rs sr).truncate 32 ++ imm⟩

/-- The element a push word pushes. -/
def Strand.pushOf (t : Strand) : Instr → Option Push
  | .qpush _ q sr code => some ⟨q.toNat, code.toNat, sr, t.rs sr⟩
  | .mld _ sr imm => some (t.major 1 0xD0 sr imm)
  | .mldt _ sr imm => some (t.major 1 0xD1 sr imm)
  | .mmul _ sr imm => some (t.major 2 0xD2 sr imm)
  | .mmulZ _ sr imm => some (t.major 2 0xD3 sr imm)
  | .mmsp _ sr imm => some (t.major 2 0xD4 sr imm)
  | .mmspZ _ sr imm => some (t.major 2 0xD5 sr imm)
  | .mrel _ sr imm => some (t.major 2 0xD6 sr imm)
  | .mzero _ sr imm => some (t.major 2 0xD7 sr imm)
  | .mst _ sr imm => some (t.major 3 0xD8 sr imm)
  | .mfill _ sr imm => some (t.major 3 0xD9 sr imm)
  | .gsprobe _ sr imm => some (t.major 4 0xE0 sr imm)
  | .gsinsert _ sr imm => some (t.major 4 0xE1 sr imm)
  | .gsclear _ sr imm => some (t.major 4 0xE2 sr imm)
  | .gsgather _ sr imm => some (t.major 4 0xE3 sr imm)
  | .gsscadd _ sr imm => some (t.major 4 0xE4 sr imm)
  | .gsrules _ sr imm => some (t.major 4 0xE5 sr imm)
  | .gssegsum _ sr imm => some (t.major 4 0xE6 sr imm)
  | .gscompact _ sr imm => some (t.major 4 0xE7 sr imm)
  | .sosort _ sr imm => some (t.major 5 0xE8 sr imm)
  | .somerge _ sr imm => some (t.major 5 0xE9 sr imm)
  | .sotopk _ sr imm => some (t.major 5 0xEA sr imm)
  | .sothresh _ sr imm => some (t.major 5 0xEB sr imm)
  | .sosums _ sr imm => some (t.major 5 0xEC sr imm)
  | .sogather _ sr imm => some (t.major 5 0xED sr imm)
  | .cpcopy _ sr imm => some (t.major 0 0xF0 sr imm)
  | .cpset _ sr imm => some (t.major 0 0xF1 sr imm)
  | .cpfe _ sr imm => some (t.major 0 0xF2 sr imm)
  | .cpstride _ sr imm => some (t.major 0 0xF3 sr imm)
  | .cpprf _ sr imm => some (t.major 0 0xF4 sr imm)
  | .cpwb _ sr imm => some (t.major 0 0xF5 sr imm)
  | .cpsig _ sr imm => some (t.major 0 0xF6 sr imm)
  | _ => none

/-- A matrix queue. -/
def isMatrixQ (q : Nat) : Bool := q == 1 || q == 2 || q == 3

/-- Template fields (R321). -/
def tmplBits (c : Template) (hi lo : Nat) : Nat := Sys2Proof.bits c.toNat hi lo

/-- The captured priority (R325): DL in bit 4, LEVEL in bits 3:0; the handler takes the highest of the task strands that
hold a node. -/
def State.pushPrio (s : State) (k : Nat) : Nat :=
  if isHandler k then
    (List.range 4).foldl (fun m i =>
      let t := s.strand (mkStrand (lcOf k) i)
      if t.node.isSome then max m (t.prio.bits 4 0) else m) 0
  else (s.strand k).prio.bits 4 0

/-- The patched template, before the late operand (R325). -/
def patched (c : Template) (entry : Word) : Template :=
  if entry.bits 25 22 = 0 then c
  else
    let j := entry.bits 25 22 - 1
    BitVec.ofNat 128 (putBits c.toNat (16 * j + 15) (16 * j) (entry.bits 15 0))

/-- What a push captures (R298, R325, R360, R387), with the template store after it. -/
def State.capture (s : State) (p : Push) : Cmd × Tab Template :=
  let t := s.strand s.cur
  let ts := (s.lcore (lcOf s.cur)).templates
  if isMatrixQ p.q then
    let n := p.entry.bits 31 26
    let c := patched (ts.get 0 n) p.entry
    let ts := if p.entry.bits 25 22 ≠ 0 ∧ p.entry.getLsbD 21 then ts.set 0 n c else ts
    let c := if p.sr = 0 then c else BitVec.ofNat 128 (putBits c.toNat 31 0 (p.entry.bits 63 32))
    let load := p.q == 1 || p.q == 3
    ({ code := p.code, entry := p.entry, tmpl := c,
       caps := if load then [t.b.get 0 (tmplBits c 75 72)] else [],
       streams := if load && p.code != 0xD9 then [t.q.get 0 (tmplBits c 67 64)] else [],
       prio := s.pushPrio s.cur }, ts)
  else
    let at_ := fun (hi lo : Nat) => t.b.get 0 (p.entry.bits hi lo)
    ({ code := p.code, entry := p.entry,
       caps := if p.q = 0 then [at_ 25 22, at_ 31 28] else [at_ 31 28, at_ 27 24, at_ 23 20] }, ts)

/-- The local-store offset of a journal entry (R341). -/
def State.journalAt (s : State) (c q seq : Nat) : Nat :=
  (s.ctx (ctxOfLc c)).jbase + (q - 1) * 0x2000 + seq % 64 * 128
/-- A journal entry (R342). -/
def journalWords (x : Cmd) : List Nat :=
  let st := (x.streams.getD 0 0).toNat
  [x.seq % 2 ^ 32 * 2 ^ 32 + x.code * 2 ^ 24 + x.prio * 2 ^ 16 + 1,
   wordAt x.tmpl.toNat 0, wordAt x.tmpl.toNat 1, wordAt (x.capN 0).toNat 0, wordAt (x.capN 0).toNat 1,
   wordAt st 0, wordAt st 1, wordAt st 2, wordAt st 3, 0, 0, 0, 0, 0, 0, 0]
/-- The write of a journal entry: whole granules. -/
def State.journal (s : State) (c q : Nat) (x : Cmd) : State :=
  let o := s.journalAt c q x.seq
  s.modLcore c fun l => { l.setLs o ((journalWords x).flatMap (leBytes 8)) with
    lsPoison := l.lsPoison.clear (o / 32) (o / 32 + 4) }

/-- Acceptance of an element (R234, R325, R343): the next sequence number, the command side one longer, the journal entry of
queues 1 to 3. -/
def State.accept (s : State) (p : Push) : State :=
  let c := lcOf s.cur
  let (x, ts) := s.capture p
  let seq := (s.queue c p.q).nextSeq
  let x := { x with seq := seq }
  let s := s.modLcore c fun l => { l with templates := ts }
  let s := s.modQueue c p.q fun y => { y with cmds := y.cmds ++ [x], nextSeq := seq + 1 }
  if isMatrixQ p.q then s.journal c p.q x else s

/-- Engine fault of a queue operation (R30, R31, R234): its DETAIL, when ABSENT or FAULT is 1. -/
def State.queueBad (s : State) (c q : Nat) : Option Nat :=
  if !s.queuePresent c q then some 0x01 else if (s.queue c q).fault then some 0x02 else none

/-- What makes a push illegal in its own checks (R325): reserved bits of a matrix entry, or a load or mst code of the handler
strand, which holds no stream registers. -/
def Push.illegal (p : Push) (k : Nat) : Bool :=
  isMatrixQ p.q && (p.entry.bits 20 16 != 0 || decide (8 < p.entry.bits 25 22)
    || (isHandler k && (p.code == 0xD0 || p.code == 0xD1 || p.code == 0xD8)))

/-- No strand of the core stands before strand k at the queue port (R29, R234, R235): strands that wait to push, or to pop or peek,
are served in ascending order whatever cycle each began to wait in, and before a strand that comes later (log 139: the model's choice
between strands of different cycles). -/
def State.portFree (s : State) (k q : Nat) (push : Bool) : Bool :=
  let waits : Nat → Bool := fun j =>
    (s.strand j).wait.queueOf == some q && (match (s.strand j).wait with
      | .push _ => push
      | _ => !push)
  !((List.range 5).any fun i => let j := mkStrand (lcOf k) i; waits j && (decide (j < k) || (decide (j ≠ k) && !waits k)))

/-- A push word's own effect, in the order of R197 (R30, R31, R234, R291, R325). -/
def State.pushWord (s : State) (i : Instr) : Out :=
  let t := s.strand s.cur
  match t.pushOf i with
  | none => s.retire t
  | some p =>
    if t.versioned then s.raise 0x09 0x04 (wordOf i)
    else match s.queueBad (lcOf s.cur) p.q with
      | some d => s.raise 0x08 d (BitVec.ofNat 64 p.q)
      | none =>
        if p.illegal s.cur then s.raise 0x01 7 (wordOf i)
        else if decide (32 ≤ (s.queue (lcOf s.cur) p.q).cmds.length) || !s.portFree s.cur p.q true then s.waitOn (.push i)
        else let s := (s.regionsHome s.cur).accept p; s.retire (s.strand s.cur)

/-- A push word with its guard and strand checks (R126). -/
def State.push (s : State) (i : Instr) (g : Guard) (who : Who) : Out := s.run i g who fun _ => s.pushWord i

/-- A pop or peek word's own effect (R235): an acquire of the entry it takes or reads. -/
def State.popWord (s : State) (i : Instr) (q : Nat) (d : SR) (peek : Bool) : Out :=
  let c := lcOf s.cur
  match s.queueBad c q with
  | some x => s.raise 0x08 x (BitVec.ofNat 64 q)
  | none =>
    match if s.portFree s.cur q false then (s.queue c q).resp else [] with
    | [] => s.waitOn (.pop i)
    | e :: rest =>
      let s := if peek then s else s.modQueue c q fun x => { x with resp := rest }
      let s := s.acquire c .pkg
      s.retire ((s.strand s.cur).ws d e)

/-- qpush (R155, R234). -/
def execQpush (g : Guard) (q : BitVec 4) (sr : SR) (code : BitVec 8) (s : State) : Out :=
  s.push (.qpush g q sr code) g .any

/-- qpop (R235). -/
def execQpop (g : Guard) (d : SR) (q : BitVec 4) (s : State) : Out :=
  s.run (.qpop g d q) g .any fun _ => s.popWord (.qpop g d q) q.toNat d false

/-- qpeek (R235). -/
def execQpeek (g : Guard) (d : SR) (q : BitVec 4) (s : State) : Out :=
  s.run (.qpeek g d q) g .any fun _ => s.popWord (.qpeek g d q) q.toNat d true

/-- The status of a queue (R28, R30). -/
def State.queueStatus (s : State) (c q : Nat) : Word :=
  let x := s.queue c q
  if !s.queuePresent c q then 4
  else BitVec.ofNat 64 (x.doneSeq.bits 31 0 * 2 ^ 32 + x.resp.length * 2 ^ 16 + x.cmds.length * 2 ^ 8
    + (if x.fault then 2 else 0) + (if x.stall then 1 else 0))

/-- qstat reads the status without waiting (R236). -/
def execQstat (g : Guard) (d : SR) (q : BitVec 4) (s : State) : Out :=
  s.pure (.qstat g d q) g .any fun t => t.ws d (s.queueStatus (lcOf s.cur) q.toNat)

/-- DISC in every journal entry above DONESEQ (R343). -/
def State.discard (s : State) (c q : Nat) : State :=
  if !isMatrixQ q then s
  else
    let x := s.queue c q
    (List.range (x.nextSeq - 1 - x.doneSeq.toNat)).foldl (fun s i =>
      let o := s.journalAt c q (x.doneSeq.toNat + 1 + i)
      s.modLcore c fun l => l.setLs o (leBytes 1 (l.lsNat o 1 ||| 2))) s

/-- qclr (R31, R237). -/
def execQclr (g : Guard) (q : BitVec 4) (s : State) : Out :=
  s.run (.qclr g q) g .any fun t =>
    let c := lcOf s.cur
    if !t.super then s.raise 0x0A 3 (wordOf (.qclr g q))
    else if !(s.queuePresent c q.toNat && (s.queue c q.toNat).fault) then s.retire t
    else
      let s := s.discard c q.toNat
      (s.modQueue c q.toNat fun x => { x with fault := false, stall := false, cmds := [] }).retire t

-- Templates (R321, R322).

/-- mtset (R322). -/
def execMtset (g : Guard) (n : TR) (d sr : SR) (s : State) : Out :=
  s.run (.mtset g n d sr) g .any fun t =>
    (s.modLcore (lcOf s.cur) fun l =>
      { l with templates := l.templates.set 0 n.toNat (t.rs d ++ t.rs sr) }).retire t

/-- mtget (R322). -/
def execMtget (g : Guard) (d : SR) (n : TR) (hf : BitVec 1) (s : State) : Out :=
  s.pure (.mtget g d n hf) g .any fun t =>
    t.ws d (BitVec.ofNat 64 (wordAt ((s.lcore (lcOf s.cur)).templates.get 0 n.toNat).toNat hf.toNat))

-- Slot claims (R313-R316).

/-- Slots a logical core holds. -/
def LCore.held (l : LCore) : Nat := l.mx.slots.length
/-- The physical position of a logical core on its die (R17, R469). -/
def State.position (s : State) (c : Nat) : Nat := (s.lcore c).pos
/-- The resident logical cores of the cluster of c, c included. -/
def State.clusterOf (s : State) (c : Nat) : List Nat :=
  s.lcKeys.filter fun y =>
    (s.lcore y).resident && (s.lcore y).die == (s.lcore c).die && s.position y / 4 == s.position c / 4
/-- Enabled cores of a cluster. -/
def Die.clusterCores (d : Die) (cl : Nat) : Nat := ((List.range 4).filter fun i => d.cores.getLsbD (4 * cl + i)).length

/-- R315: may logical core c claim n slots? -/
def State.canClaim (s : State) (c n : Nat) : Bool :=
  let mates := s.clusterOf c
  let free := 128 - (mates.map fun y => (s.lcore y).held).sum
  let others := mates.filter (· != c)
  let idle := (s.pkg.dies.get {} (s.lcore c).die).clusterCores (s.position c / 4) - 1 - others.length
  let guar := (others.map fun y => 32 - (s.lcore y).held).sum + 32 * idle
  (decide ((s.lcore c).held + n ≤ 32) && decide (n ≤ free)) || decide (n + guar ≤ free)

/-- The lowest v with v to v + n - 1 not held and v + n ≤ 128 (R316). -/
def Matrix.gap (m : Matrix) (n : Nat) : Option Nat :=
  (List.range (129 - n)).find? fun v => (List.range n).all fun i => decide ((m.slots.get {} (v + i)).st = .free)

/-- mclaim (R316). -/
def execMclaim (g : Guard) (d : SR) (pd : PR) (n : BitVec 8) (s : State) : Out :=
  s.run (.mclaim g d pd n) g .any fun t =>
    let c := lcOf s.cur
    if !s.queuePresent c 1 then s.raise 0x08 0x01 1
    else
      match if s.canClaim c n.toNat then (s.lcore c).mx.gap n.toNat else none with
      | none => s.retire ((t.ws d 0).wp pd 0)
      | some v =>
        let s := s.modLcore c fun l => { l with mx := { l.mx with
          slots := l.mx.slots.setList {} v (List.replicate n.toNat ({ st := .claimed } : Slot)) } }
        s.retire ((t.ws d (BitVec.ofNat 64 v)).wp pd allOnes)

-- The engine-command majors (R154).

/-- mld (R154, R234). -/
def execMld (g : Guard) (sr : SR) (imm : BitVec 32) (s : State) : Out :=
  s.push (.mld g sr imm) g .task

/-- mldt (R154, R234). -/
def execMldt (g : Guard) (sr : SR) (imm : BitVec 32) (s : State) : Out :=
  s.push (.mldt g sr imm) g .task

/-- mmul (R154, R234). -/
def execMmul (g : Guard) (sr : SR) (imm : BitVec 32) (s : State) : Out :=
  s.push (.mmul g sr imm) g .any

/-- mmulZ (R154, R234). -/
def execMmulZ (g : Guard) (sr : SR) (imm : BitVec 32) (s : State) : Out :=
  s.push (.mmulZ g sr imm) g .any

/-- mmsp (R154, R234). -/
def execMmsp (g : Guard) (sr : SR) (imm : BitVec 32) (s : State) : Out :=
  s.push (.mmsp g sr imm) g .any

/-- mmspZ (R154, R234). -/
def execMmspZ (g : Guard) (sr : SR) (imm : BitVec 32) (s : State) : Out :=
  s.push (.mmspZ g sr imm) g .any

/-- mrel (R154, R234). -/
def execMrel (g : Guard) (sr : SR) (imm : BitVec 32) (s : State) : Out :=
  s.push (.mrel g sr imm) g .any

/-- mzero (R154, R234). -/
def execMzero (g : Guard) (sr : SR) (imm : BitVec 32) (s : State) : Out :=
  s.push (.mzero g sr imm) g .any

/-- mst (R154, R234). -/
def execMst (g : Guard) (sr : SR) (imm : BitVec 32) (s : State) : Out :=
  s.push (.mst g sr imm) g .task

/-- mfill (R154, R234). -/
def execMfill (g : Guard) (sr : SR) (imm : BitVec 32) (s : State) : Out :=
  s.push (.mfill g sr imm) g .any

/-- gsprobe (R154, R234). -/
def execGsprobe (g : Guard) (sr : SR) (imm : BitVec 32) (s : State) : Out :=
  s.push (.gsprobe g sr imm) g .any

/-- gsinsert (R154, R234). -/
def execGsinsert (g : Guard) (sr : SR) (imm : BitVec 32) (s : State) : Out :=
  s.push (.gsinsert g sr imm) g .any

/-- gsclear (R154, R234). -/
def execGsclear (g : Guard) (sr : SR) (imm : BitVec 32) (s : State) : Out :=
  s.push (.gsclear g sr imm) g .any

/-- gsgather (R154, R234). -/
def execGsgather (g : Guard) (sr : SR) (imm : BitVec 32) (s : State) : Out :=
  s.push (.gsgather g sr imm) g .any

/-- gsscadd (R154, R234). -/
def execGsscadd (g : Guard) (sr : SR) (imm : BitVec 32) (s : State) : Out :=
  s.push (.gsscadd g sr imm) g .any

/-- gsrules (R154, R234). -/
def execGsrules (g : Guard) (sr : SR) (imm : BitVec 32) (s : State) : Out :=
  s.push (.gsrules g sr imm) g .any

/-- gssegsum (R154, R234). -/
def execGssegsum (g : Guard) (sr : SR) (imm : BitVec 32) (s : State) : Out :=
  s.push (.gssegsum g sr imm) g .any

/-- gscompact (R154, R234). -/
def execGscompact (g : Guard) (sr : SR) (imm : BitVec 32) (s : State) : Out :=
  s.push (.gscompact g sr imm) g .any

/-- sosort (R154, R234). -/
def execSosort (g : Guard) (sr : SR) (imm : BitVec 32) (s : State) : Out :=
  s.push (.sosort g sr imm) g .any

/-- somerge (R154, R234). -/
def execSomerge (g : Guard) (sr : SR) (imm : BitVec 32) (s : State) : Out :=
  s.push (.somerge g sr imm) g .any

/-- sotopk (R154, R234). -/
def execSotopk (g : Guard) (sr : SR) (imm : BitVec 32) (s : State) : Out :=
  s.push (.sotopk g sr imm) g .any

/-- sothresh (R154, R234). -/
def execSothresh (g : Guard) (sr : SR) (imm : BitVec 32) (s : State) : Out :=
  s.push (.sothresh g sr imm) g .any

/-- sosums (R154, R234). -/
def execSosums (g : Guard) (sr : SR) (imm : BitVec 32) (s : State) : Out :=
  s.push (.sosums g sr imm) g .any

/-- sogather (R154, R234). -/
def execSogather (g : Guard) (sr : SR) (imm : BitVec 32) (s : State) : Out :=
  s.push (.sogather g sr imm) g .any

/-- cpcopy (R154, R234). -/
def execCpcopy (g : Guard) (sr : SR) (imm : BitVec 32) (s : State) : Out :=
  s.push (.cpcopy g sr imm) g .any

/-- cpset (R154, R234). -/
def execCpset (g : Guard) (sr : SR) (imm : BitVec 32) (s : State) : Out :=
  s.push (.cpset g sr imm) g .any

/-- cpfe (R154, R234). -/
def execCpfe (g : Guard) (sr : SR) (imm : BitVec 32) (s : State) : Out :=
  s.push (.cpfe g sr imm) g .any

/-- cpstride (R154, R234). -/
def execCpstride (g : Guard) (sr : SR) (imm : BitVec 32) (s : State) : Out :=
  s.push (.cpstride g sr imm) g .any

/-- cpprf (R154, R234). -/
def execCpprf (g : Guard) (sr : SR) (imm : BitVec 32) (s : State) : Out :=
  s.push (.cpprf g sr imm) g .any

/-- cpwb (R154, R234). -/
def execCpwb (g : Guard) (sr : SR) (imm : BitVec 32) (s : State) : Out :=
  s.push (.cpwb g sr imm) g .any

/-- cpsig (R154, R234). -/
def execCpsig (g : Guard) (sr : SR) (imm : BitVec 32) (s : State) : Out :=
  s.push (.cpsig g sr imm) g .any

-- Waiting pushes and pops (R29, R234, R235).

/-- An operation of strand k that waited, performed on its behalf. -/
def State.asStrand (s : State) (k : Nat) (f : State → Out) : Out :=
  match f { s with cur := k } with
  | .next s' => .next { s' with cur := s.cur }
  | o => o

/-- PUSH_ACCEPTANCE (R29, R234): an entry has been started, and the first push that waited takes effect. -/
def execPushAcceptance (c k : Nat) (s : State) : Out :=
  if 4 < k then .fault .noSuchUnit
  else
    let j := mkStrand c k
    match s.inWork j, (s.strand j).wait with
    | true, .push i =>
      match (s.strand j).pushOf i with
      | some p =>
        if decide (32 ≤ (s.queue c p.q).cmds.length) || !s.portFree j p.q true then .next s
        else s.asStrand j fun s => s.pushWord i
      | none => .next s
    | _, _ => .next s

/-- POP_DELIVERY (R29, R235): a response entry has arrived, and the first pop or peek that waited takes effect. -/
def execPopDelivery (c k : Nat) (s : State) : Out :=
  if 4 < k then .fault .noSuchUnit
  else
    let j := mkStrand c k
    match s.inWork j, (s.strand j).wait with
    | true, .pop (.qpop g d q) =>
      if decide ((s.queue c q.toNat).resp = []) || !s.portFree j q.toNat false then .next s
      else s.asStrand j fun s => s.popWord (.qpop g d q) q.toNat d false
    | true, .pop (.qpeek g d q) =>
      if decide ((s.queue c q.toNat).resp = []) || !s.portFree j q.toNat false then .next s
      else s.asStrand j fun s => s.popWord (.qpeek g d q) q.toNat d true
    | _, _ => .next s

end Sys2Proof.Machine
end

