-- ==== Sys2Proof/Machine/Streams.lean ====
section
/-! DEFINITION. Stream registers (R239, R240): fields, memory element formats, the place of each element and scale. -/

namespace Sys2Proof

def Stream.word (q : Stream) (i : Nat) : Word := q.extractLsb' (64 * i) 64

end Sys2Proof

namespace Sys2Proof.Machine

/-- A memory element format: a code of R136, or INT4 (R239). -/
inductive MFmt where
  | ty (t : Ty)
  | int4
  deriving DecidableEq, Repr

def MFmt.ofCode (c : Nat) : Option MFmt :=
  if c = 0x13 then some .int4 else (Ty.ofCode (BitVec.ofNat 5 c)).map .ty
def MFmt.width : MFmt → Nat
  | .ty t => t.width
  | .int4 => 4
/-- The value of a code (R74, R76, R78). -/
def MFmt.decode (f : MFmt) (c : Nat) : Num.Val :=
  match f with
  | .ty t => Num.decode t c
  | .int4 => Num.decodeInt4 c
/-- Conversion into a memory format; INT4 as an integer format of 4 bits (R87). -/
def MFmt.conv (f : MFmt) (mode : Num.Mode) (v : Num.Val) : Num.Res :=
  match f with
  | .ty t => Num.conv t mode v
  | .int4 =>
    match v with
    | .nan _ => ⟨0, Num.NV⟩
    | .inf n => ⟨if n then 8 else 7, Num.NV⟩
    | .num neg m e =>
      let (n, d) := Num.ratio m e
      let i := Num.pick mode neg (n / d) (n % d) d
      let x : Int := if neg then -(i : Int) else i
      if -8 ≤ x ∧ x ≤ 7 then ⟨wrapN 4 x, if n % d = 0 then 0 else Num.NX⟩ else ⟨if x < 0 then 8 else 7, Num.NV⟩
/-- The MX element kinds of R89; i8 is MXINT8. -/
def MFmt.isMx : MFmt → Bool
  | .ty .e4m3 | .ty .e5m2 | .ty .e3m2 | .ty .e2m3 | .ty .e2m1 | .ty .i8 => true
  | _ => false
/-- The value of an MX element before its scale: MXINT8 elements are x × 2^−6 (R89, R90). -/
def MFmt.mxValue (f : MFmt) (c : Nat) : Num.Val :=
  if f = .ty .i8 then (f.decode c).scale2 (-6) else f.decode c

/-- The fields of a stream register (R239). -/
structure StreamF where
  res : Bool
  rm : Nat
  rfmt : Option Ty
  blk : Nat
  cols : Nat
  rows : Nat
  skind : Nat
  efmt : Option MFmt
  rstride : Int
  srstride : Int
  cstride : Nat
  soff : Int
  deriving DecidableEq, Repr

def StreamF.of (q : Stream) : StreamF :=
  let w0 := q.word 0
  { res := decide (w0.bits 63 34 ≠ 0) || w0.getLsbD 7
    rm := w0.bits 33 31
    rfmt := Ty.ofCode (BitVec.ofNat 5 (w0.bits 30 26))
    blk := w0.bits 25 24
    cols := w0.bits 23 16 + 1
    rows := w0.bits 15 8 + 1
    skind := w0.bits 6 5
    efmt := MFmt.ofCode (w0.bits 4 0)
    rstride := sextN 64 (q.word 1).toNat
    srstride := sextN 32 ((q.word 2).bits 63 32)
    cstride := (q.word 2).bits 31 0
    soff := sextN 64 (q.word 3).toNat }

/-- Scale block length (R239). -/
def StreamF.bl (f : StreamF) : Nat :=
  match f.blk with
  | 0 => 32
  | 1 => 16
  | _ => 64
/-- Element width in bits; 0 when EFMT is reserved. -/
def StreamF.w (f : StreamF) : Nat :=
  match f.efmt with
  | some e => e.width
  | none => 0
/-- The mode of a conversion: RM of the stream, FPCTL.RM when 0 (R239). -/
def StreamF.mode (f : StreamF) (rm : Num.Mode) : Num.Mode := if f.rm = 0 then rm else Num.Mode.ofBits f.rm

/-- An offset modulo 2^64. -/
def off64 (x : Int) : Word := BitVec.ofInt 64 x

/-- Byte offset, bytes touched and bit shift of element (r, c) (R240, R75). -/
def StreamF.loc (f : StreamF) (o : Word) (r c : Nat) : Word × Nat × Nat :=
  let row : Int := o.toNat + r * f.rstride
  if 8 ≤ f.w then (off64 (row + c * (if f.cstride = 0 then f.w / 8 else f.cstride)), f.w / 8, 0)
  else
    let b := c * f.w
    (off64 (row + b / 8), (b % 8 + f.w + 7) / 8, b % 8)
/-- Offset and bytes of the scale of element (r, c) (R240). -/
def StreamF.scaleLoc (f : StreamF) (o : Word) (r c : Nat) : Word × Nat :=
  let z := if f.skind = 2 then 4 else 1
  (off64 (o.toNat + f.soff + r * f.srstride + (c / f.bl * z : Nat)), z)

/-- The limits a vector access sets a stream register (R241). -/
def StreamF.vecOk (f : StreamF) (store indexed : Bool) (data : Nat) : Bool :=
  match f.efmt, f.rfmt with
  | some e, some r =>
    !f.res && !(decide (1 ≤ f.rm) && decide (f.rm ≤ 3)) && f.blk != 3 && f.skind != 3
      && decide (f.rows ≤ 16) && decide (f.cols ≤ 64)
      && !(r.is64 && data % 2 != 0)
      && !(f.skind == 1 && (!e.isMx || f.blk != 0))
      && !(f.skind == 2 && e.width == 64)
      && !(f.skind != 0 && (f.cols % f.bl != 0 || f.cstride != 0))
      && !(decide (e.width < 8) && f.cstride != 0)
      && !(e.width == 4 && f.cols % 2 != 0) && !(e.width == 6 && f.cols % 4 != 0)
      && !(store && !indexed && f.skind == 2)
      && !(indexed && (f.skind != 0 || decide (e.width < 8)))
  | _, _ => false

end Sys2Proof.Machine
end

