-- ==== Sys2Proof/Machine/Arrivals.lean ====
section
/-! DEFINITION. What arrives while strands wait: full/empty retries and wakes (R210-R216), fills of forwarded atomics (R63, R225),
the start of a handler (R231), loader and storer tiles (R292-R297). -/

namespace Sys2Proof.Machine

/-- FE_RETRY_ATTEMPT (R210, R211, R228): a strand that waits unparked makes one more attempt; of a barw wait it is counted against
no budget. -/
def execFeRetryAttempt (c k : Nat) (s : State) : Out :=
  if 4 < k then .fault .noSuchUnit
  else
    let j := mkStrand c k
    match s.inWork j, (s.strand j).wait with
    | true, .fe (.ld g ty fe ord sc d m) _ _ false _ =>
      s.asStrand j fun s => s.loadWord (.ld g ty fe ord sc d m) ty fe ord sc d m
    | true, .fe (.st g ty fe ord sc r m) _ _ false _ =>
      s.asStrand j fun s => s.storeWord (.st g ty fe ord sc r m) ty fe ord sc r m
    | true, .bar b f false => .next (s.modStrand j fun t => { t with wait := t.barWait b (f + 1) })
    | _, _ => .next s

/-- Drop the nth element of a list. -/
def dropNth {α : Type} (l : List α) (n : Nat) : List α := l.take n ++ l.drop (n + 1)

/-- A park record of a word that a notice's bit could satisfy (R213, R214). -/
def Notice.wakes (n : Notice) (c : Ctx) (j : Nat) : Bool :=
  let w := c.parkWord j 0
  let form := w.bits 2 1
  w.bits 63 40 == n.buf && w.bits 39 3 == n.word && (if n.full then form == 1 || form == 2 else form == 3)

/-- WAKE_NOTICE (R214): the strands whose records name the word and whose form the new bit could satisfy are readied, their
records unlinked. The notices of one Pier arrive in the order sent (R477). -/
def execWakeNotice (n : Nat) (s : State) : Out :=
  match s.notices[n]? with
  | none => .next s
  | some x =>
    if !s.alive || (s.notices.take n).any fun y => y.pier == x.pier then .next s
    else
      let s := { s with notices := dropNth s.notices n }
      .next (s.ctxs.foldl (fun s e =>
        e.2.parked.foldl (fun s j =>
          if x.wakes e.2 j then
            let k := mkStrand (mkLc e.1 (j / 5)) (j % 5)
            (s.unpark k).modStrand k fun t => { t with wait := t.wait.ready }
          else s) s) s)

/-- FORWARDED_ATOMIC_FILL (R63, R225): the old value arrives in the target word as an unconditional fill, behind the fills of its
stream that were sent before it (R477). A target in the journal range takes it (log 130: the model's choice). -/
def execForwardedAtomicFill (n : Nat) (s : State) : Out :=
  match s.fills[n]? with
  | none => .next s
  | some f =>
    if !s.alive || (s.fills.take n).any (fun g => s.oneStream g f) then .next s
    else .next ({ s with fills := dropNth s.fills n }.fillLs f.lcore f.off f.value.toNat)

/-- HANDLER_START (R231). -/
def execHandlerStart (c : Nat) (s : State) : Out := if s.coreRuns c then .next (s.startHandler c) else .next s

-- Loaders and storers (R292-R297).

/-- Control fields of a subscription (R292). -/
def Sub.word (u : Sub) (i : Nat) : Word := u.ctl.getD i 0
def Sub.ntiles (u : Sub) : Nat := (u.word 0).bits 31 0
def Sub.nslots (u : Sub) : Nat := (u.word 3).bits 63 56
def Sub.slotSize (u : Sub) : Nat := 64 * (u.word 3).bits 55 40
/-- The slot of tile i. -/
def Sub.slotOff (u : Sub) (i : Nat) : Nat := (u.word 3).bits 18 0 + u.slotSize * (i % u.nslots)
/-- Bytes of a tile row, and rows of a tile. -/
def Sub.rowBytes (u : Sub) : Nat := (StreamF.of u.stream).cols * (StreamF.of u.stream).w / 8
def Sub.rowCount (u : Sub) : Nat := (StreamF.of u.stream).rows
/-- The view offset of row r of tile i (R292). -/
def Sub.rowOff (u : Sub) (i r : Nat) : Nat :=
  (off64 ((u.word 1).toNat + (i : Int) * sextN 64 (u.word 2).toNat + (r : Int) * (StreamF.of u.stream).rstride)).toNat

/-- An agent that has no L1: loaders and storers work at the homes (R294, R295). -/
def noL1 : Nat := 2 ^ 40

/-- The status of a tile whose rows cannot all be reached (R296, R305). The rows of such a tile that come before the failing one are not
moved (log 86: R296 does not say). -/
def State.tileMiss (s : State) (u : Sub) (i : Nat) : Option Nat :=
  (List.range u.rowCount).findSome? fun r =>
    (s.reach u.lcore (.dev u.cap) (if u.loader then { r := true } else { w := true }) (u.rowOff i r) u.rowBytes).map fun m =>
      match m with
      | .cap => 0x11
      | .range => 0x12
      | .page => 0x13

/-- A tile moved into its slot, row by row (log 115): whether a granule of it is poisoned, and the machine (R294, R277). -/
def State.loadSlot (s : State) (u : Sub) (i : Nat) : Work :=
  (List.range u.rowCount).foldl (fun w r =>
    let l := Loc.dev u.cap
    let o := u.rowOff i r
    let bs := (w.s.engineHome noL1 l o u.rowBytes).1.zipIdx.map fun e => (e.1, w.s.enginePoison l (o + e.2) 1)
    w.writeMarked noL1 (.ls u.lcore) (u.slotOff i + 64 + r * u.rowBytes) bs i) { s := s }
/-- A slot moved to its tile (R295, R277). -/
def State.storeSlot (s : State) (u : Sub) (i : Nat) : Work :=
  (List.range u.rowCount).foldl (fun w r =>
    let l := Loc.ls u.lcore
    let o := u.slotOff i + 64 + r * u.rowBytes
    let bs := (w.s.engineHome noL1 l o u.rowBytes).1.zipIdx.map fun e => (e.1, w.s.enginePoison l (o + e.2) 1)
    w.writeMarked noL1 (.dev u.cap) (u.rowOff i r) bs i) { s := s }

/-- The list position of a logical core's nth subscription. -/
def State.subAt (s : State) (c n : Nat) : Option (Nat × Sub) :=
  ((s.subs.zipIdx.filter fun e => e.1.lcore == c)[n]?).map fun e => (e.2, e.1)
def State.setSub (s : State) (i : Nat) (u : Sub) : State := { s with subs := s.subs.set i u }

/-- LOADER_TILE (R294, R296): the next tile, once the header word of its slot is empty. POIS says that the move of this tile has poisoned
the slot (log 144: the model's choice). -/
def execLoaderTile (c n : Nat) (s : State) : Out :=
  match s.subAt c n with
  | none => .next s
  | some (i, u) =>
    if !(u.loader && !u.stopped && decide (u.next < u.ntiles) && s.coreRuns c
        && !(s.lcore c).lsFull (u.slotOff u.next)) then .next s
    else match s.tileMiss u u.next with
      | some st =>
        .next ((s.setSub i { u with stopped := true }).fillLs c (u.slotOff u.next) (2 ^ 63 + st * 2 ^ 56 + u.next))
      | none =>
        let w := s.loadSlot u u.next
        .next ((w.s.setSub i { u with next := u.next + 1 }).fillLs c (u.slotOff u.next)
          ((if w.bad = [] then 0 else 2 ^ 62) + u.next))

/-- STORER_TILE (R295, R296): the next tile, once the header word of its slot is full; a fault fails the node. -/
def execStorerTile (c n : Nat) (s : State) : Out :=
  match s.subAt c n with
  | none => .next s
  | some (i, u) =>
    if !(!u.loader && !u.stopped && decide (u.next < u.ntiles) && s.coreRuns c
        && (s.lcore c).lsFull (u.slotOff u.next)) then .next s
    else match s.tileMiss u u.next with
      | some st => .next ((s.setSub i { u with stopped := true }).failNode u.task 0x05 (coreOfLc c) st)
      | none =>
        let w := s.storeSlot u u.next
        .next ((w.s.setSub i { u with next := u.next + 1 }).setLsFe c (u.slotOff u.next) false)

end Sys2Proof.Machine
end

