-- ==== Sys2Proof/Machine/FpOps.lean ====
section
/-! DEFINITION. The floating-point operations of R168-R174 on codes, shared by scalar words, vector words and the homes. -/

namespace Sys2Proof.Num

/-- deliver of R168. -/
def fin (t : Ty) (mode : Mode) (z : Val) (fl : Flags) : Res := let r := conv t mode z; ⟨r.code, r.fl ||| fl⟩

/-- fadd on values (R168, R97). -/
def faddV (t : Ty) (mode : Mode) (a b : Val) : Res :=
  let (z, f) := sumExact mode [a, b]
  fin t mode z (f ||| snanFl [a, b])
def fadd (t : Ty) (mode : Mode) (a b : Nat) : Res := faddV t mode (decode t a) (decode t b)
/-- fsub computes fadd(a, −b). -/
def fsub (t : Ty) (mode : Mode) (a b : Nat) : Res := faddV t mode (decode t a) (decode t b).negate
/-- fmul (R168). -/
def fmul (t : Ty) (mode : Mode) (a b : Nat) : Res :=
  let a := decode t a; let b := decode t b
  fin t mode (prod a b) (snanFl [a, b] ||| prodFl a b)
/-- fma with the negations of FUNC (R168). -/
def fma (t : Ty) (mode : Mode) (neg : BitVec 2) (a b c : Nat) : Res :=
  let a := decode t a; let b := decode t b; let c := decode t c
  let pr := prod a b
  let pr' := if neg.getLsbD 0 then pr.negate else pr
  let c' := if neg.getLsbD 1 then c.negate else c
  let (z, f) := sumExact mode [pr', c']
  fin t mode z (f ||| snanFl [a, b, c] ||| prodFl a b)

def nanOf (t : Ty) : Nat := (conv t .rne (.nan false)).code
def infOf (t : Ty) (neg : Bool) : Nat := (conv t .rne (.inf neg)).code
def zeroOf (t : Ty) (neg : Bool) : Nat := (conv t .rne (.num neg 0 0)).code

/-- fdiv (R168). -/
def fdiv (t : Ty) (mode : Mode) (a b : Nat) : Res :=
  let a := decode t a; let b := decode t b
  let sn := snanFl [a, b]
  let sg := a.neg? != b.neg?
  if a.isNan || b.isNan then ⟨nanOf t, sn⟩
  else if (a.isZero && b.isZero) || (a.isInf && b.isInf) then ⟨nanOf t, NV⟩
  else if a.isInf then ⟨infOf t sg, 0⟩
  else if b.isInf || a.isZero then ⟨zeroOf t sg, 0⟩
  else if b.isZero then ⟨infOf t sg, DZ⟩
  else match a, b, Fmt.of t with
    | .num _ m e, .num _ m' e', some f =>
      let (n1, d1) := ratio m e
      let (n2, d2) := ratio m' e'
      f.round mode sg (n1 * d2) (d1 * n2)
    | _, _, _ => ⟨nanOf t, 0⟩

/-- fsqrt (R168). -/
def fsqrt (t : Ty) (mode : Mode) (code : Nat) : Res :=
  match decode t code, Fmt.of t with
  | .nan s, _ => ⟨nanOf t, if s then NV else 0⟩
  | .inf n, _ => if n then ⟨nanOf t, NV⟩ else ⟨infOf t false, 0⟩
  | .num n m e, some f =>
    if m = 0 then ⟨zeroOf t n, 0⟩ else if n then ⟨nanOf t, NV⟩ else roundSqrt f mode m e
  | _, none => ⟨nanOf t, 0⟩

/-- Order with −0 below +0 (R169). -/
def ltMin (a b : Val) : Bool := ltVal a b || (eqVal a b && a.neg? && !b.neg?)
/-- fmin and fmax choose an operand (R169). -/
def fminmax (t : Ty) (mx : Bool) (a b : Nat) : Res :=
  let va := decode t a; let vb := decode t b
  if va.isSnan || vb.isSnan then ⟨nanOf t, NV⟩
  else if va.isNan && vb.isNan then ⟨nanOf t, 0⟩
  else if va.isNan then ⟨b, 0⟩
  else if vb.isNan then ⟨a, 0⟩
  else if mx then ⟨if ltMin va vb then b else a, 0⟩
  else ⟨if ltMin vb va then b else a, 0⟩

/-- Sign bit of a format (R170). -/
def signBit (t : Ty) : Nat := 2 ^ (t.width - 1)
def fabs (t : Ty) (a : Nat) : Nat := a % signBit t
def fneg (t : Ty) (a : Nat) : Nat := if a.testBit (t.width - 1) then a % signBit t else a % signBit t + signBit t
def fsgn (t : Ty) (a b : Nat) : Nat := a % signBit t + (if b.testBit (t.width - 1) then signBit t else 0)

/-- fcvt (R172): same type delivers the source unchanged but for NaN. -/
def fcvt (t u : Ty) (mode : Mode) (a : Nat) : Res :=
  let v := decode u a
  if t = u ∧ !v.isNan then ⟨a % 2 ^ u.width, 0⟩ else conv t mode v

/-- fclass (R173). -/
def fclass (t : Ty) (a : Nat) : Nat :=
  match decode t a with
  | .nan s => if s then 256 else 512
  | .inf n => if n then 1 else 128
  | .num n m e =>
    if m = 0 then (if n then 8 else 16)
    else
      let sub := match Fmt.of t with
        | some f => decide (a / 2 ^ f.m % 2 ^ f.eb = 0 ∧ e = f.emin - f.m)
        | none => false
      if n then (if sub then 4 else 2) else (if sub then 32 else 64)

/-- frnd rounds to an integer value held in the format (R174). -/
def frnd (t : Ty) (mode : Mode) (a : Nat) : Res :=
  match decode t a with
  | .nan s => ⟨nanOf t, if s then NV else 0⟩
  | .inf n => ⟨infOf t n, 0⟩
  | .num n m e =>
    if m = 0 ∨ 0 ≤ e then ⟨a % 2 ^ t.width, 0⟩
    else
      let d := 2 ^ (-e).toNat
      let i := pick mode n (m / d) (m % d) d
      ⟨(conv t .rne (.num n i 0)).code, if m % d = 0 then 0 else NX⟩

end Sys2Proof.Num
end

