-- ==== Sys2Proof/Machine/Atomic.lean ====
section
/-! DEFINITION. Atomics at the home (R218-R223) and forwarded atomics (R224, R225). -/

namespace Sys2Proof.Machine

/-- One indivisible operation at the home (R218), after its release: the write-back of R56, the read, the write that f gives, the
acquire. It answers the old value. -/
def State.homeOp (s : State) (t : Strand) (c : Nat) (pl : Place) (n : Nat) (ord : Ord) (sc : Scope) (f : Nat → Option Nat) :
    Nat × State :=
  let s := s.prepHome c pl n
  let old := leNat (s.homeRead t c pl n)
  let s := match f old with
    | some x => s.writePlace t c pl true (leBytes n x)
    | none => s
  (old, s.acqIf c ord sc)

/-- The rights of a read-modify-write (R203). -/
def rmwNeed : Need := { r := true, w := true, a := true }

/-- The shared form of cas, cas2 and amo*: n bytes at a multiple of n, then the registers that take the old value. -/
def State.amo (s : State) (i : Instr) (n : Nat) (ord : Ord) (sc : Scope) (m : MemOp) (f : Strand → Nat → Option Nat)
    (w : Strand → Nat → Strand) : Out :=
  let t := s.strand s.cur
  match s.locate s.cur t m (t.offset m) n n rmwNeed with
  | .error x => s.raiseT x
  | .ok pl => s.releasing i (Ord.hasRel ord) sc fun s =>
    let (old, s) := s.homeOp t (lcOf s.cur) pl n ord sc (f t)
    s.retireV (w t old)

/-- cas (R219). -/
def execCas (g : Guard) (ty : Ty) (ord : Ord) (sc : Scope) (r : SR) (m : MemOp) (s : State) : Out :=
  s.run (.cas g ty ord sc r m) g .any fun _ =>
    s.amo (.cas g ty ord sc r m) (tyBytes ty) ord sc m
      (fun t old => if old = low ty.width (t.rs r) then some (low ty.width (t.rsN (r.toNat + 1))) else none)
      fun t old => t.ws r (BitVec.ofNat 64 old)

/-- cas2 (R219, R43). -/
def execCas2 (g : Guard) (ord : Ord) (sc : Scope) (r : SR) (m : MemOp) (s : State) : Out :=
  s.run (.cas2 g ord sc r m) g .any fun _ =>
    s.amo (.cas2 g ord sc r m) 16 ord sc m
      (fun t old => if old = (t.rs r).toNat + 2 ^ 64 * (t.rsN (r.toNat + 1)).toNat
        then some ((t.rsN (r.toNat + 2)).toNat + 2 ^ 64 * (t.rsN (r.toNat + 3)).toNat) else none)
      fun t old => (t.ws r (BitVec.ofNat 64 old)).wsN (r.toNat + 1) (BitVec.ofNat 64 (old / 2 ^ 64))

/-- The operations of R220. -/
inductive AmoOp where
  | add | and | or | xor | min | max | minu | maxu | swap
  deriving DecidableEq, Repr

/-- new of R220, in w bits. -/
def AmoOp.apply (op : AmoOp) (w old x : Nat) : Nat :=
  match op with
  | .add => (old + x) % 2 ^ w
  | .and => old &&& x
  | .or => old ||| x
  | .xor => old ^^^ x
  | .min => if sextN w x < sextN w old then x else old
  | .max => if sextN w old < sextN w x then x else old
  | .minu => Nat.min old x
  | .maxu => Nat.max old x
  | .swap => x

/-- The shared effect of the words of R220. -/
def State.amoOp (s : State) (i : Instr) (op : AmoOp) (ty : Ty) (ord : Ord) (sc : Scope) (r : SR) (m : MemOp) : Out :=
  s.amo i (tyBytes ty) ord sc m (fun t old => some (op.apply ty.width old (low ty.width (t.rs r))))
    fun t old => t.ws r (BitVec.ofNat 64 old)

/-- amoadd (R220). -/
def execAmoadd (g : Guard) (ty : Ty) (ord : Ord) (sc : Scope) (r : SR) (m : MemOp) (s : State) : Out :=
  s.run (.amoadd g ty ord sc r m) g .any fun _ => s.amoOp (.amoadd g ty ord sc r m) .add ty ord sc r m

/-- amoand (R220). -/
def execAmoand (g : Guard) (ty : Ty) (ord : Ord) (sc : Scope) (r : SR) (m : MemOp) (s : State) : Out :=
  s.run (.amoand g ty ord sc r m) g .any fun _ => s.amoOp (.amoand g ty ord sc r m) .and ty ord sc r m

/-- amoor (R220). -/
def execAmoor (g : Guard) (ty : Ty) (ord : Ord) (sc : Scope) (r : SR) (m : MemOp) (s : State) : Out :=
  s.run (.amoor g ty ord sc r m) g .any fun _ => s.amoOp (.amoor g ty ord sc r m) .or ty ord sc r m

/-- amoxor (R220). -/
def execAmoxor (g : Guard) (ty : Ty) (ord : Ord) (sc : Scope) (r : SR) (m : MemOp) (s : State) : Out :=
  s.run (.amoxor g ty ord sc r m) g .any fun _ => s.amoOp (.amoxor g ty ord sc r m) .xor ty ord sc r m

/-- amomin (R220). -/
def execAmomin (g : Guard) (ty : Ty) (ord : Ord) (sc : Scope) (r : SR) (m : MemOp) (s : State) : Out :=
  s.run (.amomin g ty ord sc r m) g .any fun _ => s.amoOp (.amomin g ty ord sc r m) .min ty ord sc r m

/-- amomax (R220). -/
def execAmomax (g : Guard) (ty : Ty) (ord : Ord) (sc : Scope) (r : SR) (m : MemOp) (s : State) : Out :=
  s.run (.amomax g ty ord sc r m) g .any fun _ => s.amoOp (.amomax g ty ord sc r m) .max ty ord sc r m

/-- amominu (R220). -/
def execAmominu (g : Guard) (ty : Ty) (ord : Ord) (sc : Scope) (r : SR) (m : MemOp) (s : State) : Out :=
  s.run (.amominu g ty ord sc r m) g .any fun _ => s.amoOp (.amominu g ty ord sc r m) .minu ty ord sc r m

/-- amomaxu (R220). -/
def execAmomaxu (g : Guard) (ty : Ty) (ord : Ord) (sc : Scope) (r : SR) (m : MemOp) (s : State) : Out :=
  s.run (.amomaxu g ty ord sc r m) g .any fun _ => s.amoOp (.amomaxu g ty ord sc r m) .maxu ty ord sc r m

/-- amoswap (R220). -/
def execAmoswap (g : Guard) (ty : Ty) (ord : Ord) (sc : Scope) (r : SR) (m : MemOp) (s : State) : Out :=
  s.run (.amoswap g ty ord sc r m) g .any fun _ => s.amoOp (.amoswap g ty ord sc r m) .swap ty ord sc r m

/-- amofadd.f32 (R221): its flags gather, and it never raises FP exception. -/
def execAmofadd (g : Guard) (ord : Ord) (sc : Scope) (r : SR) (m : MemOp) (s : State) : Out :=
  s.run (.amofadd g ord sc r m) g .any fun _ =>
    let sum := fun (t : Strand) (old : Nat) => Num.fadd .f32 .rne old (low 32 (t.rs r))
    s.amo (.amofadd g ord sc r m) 4 ord sc m (fun t old => some (sum t old).code)
      fun t old => (t.ws r (BitVec.ofNat 64 old)).orFlags (sum t old).fl

/-- Bytes and weight of a cell (R93, R94). -/
def cellBytes (wide : Bool) : Nat := if wide then 512 else 64
def cellWeight (wide : Bool) : Int := if wide then 1088 else 160

/-- xadd32 and xadd64 (R222, R95). An addend of ±0 is not sent and raises nothing. An infinity or NaN is not sent: its word passes
the checks of the capability and the alignment, and touches no page and no granule; no addend that is not sent releases or acquires (log
83). -/
def State.xadd (s : State) (i : Instr) (wide : Bool) (ty : Ty) (ord : Ord) (sc : Scope) (r : SR) (m : MemOp) : Out :=
  let t := s.strand s.cur
  let n := cellBytes wide
  let v := Num.decode ty (low ty.width (t.rs r))
  let sent := !(v.isNan || v.isInf)
  if v.isZero then s.retire t
  else match s.locate s.cur t m (t.offset m) n n { w := true, a := true } with
    | .error x => if sent || x.code == 0x02 || x.code == 0x04 then s.raiseT x else s.deliver t (wordOf i) Num.NV id
    | .ok pl => if !sent then s.deliver t (wordOf i) Num.NV id else s.releasing i (Ord.hasRel ord) sc fun s =>
      let (_, s) := s.homeOp t (lcOf s.cur) pl n ord sc fun old =>
        some (wrapN (8 * n) ((old : Int) + Num.cellAddend (cellWeight wide) v))
      s.retireV t

/-- xadd32 (R222). -/
def execXadd32 (g : Guard) (ty : Ty) (ord : Ord) (sc : Scope) (r : SR) (m : MemOp) (s : State) : Out :=
  s.run (.xadd32 g ty ord sc r m) g .any fun _ => s.xadd (.xadd32 g ty ord sc r m) false ty ord sc r m

/-- xadd64 (R222). -/
def execXadd64 (g : Guard) (ty : Ty) (ord : Ord) (sc : Scope) (r : SR) (m : MemOp) (s : State) : Out :=
  s.run (.xadd64 g ty ord sc r m) g .any fun _ => s.xadd (.xadd64 g ty ord sc r m) true ty ord sc r m

/-- xrd32 and xrd64 (R223, R96). -/
def State.xrd (s : State) (i : Instr) (wide : Bool) (ty : Ty) (rm : Rc) (ord : Ord) (sc : Scope) (r : SR) (m : MemOp) :
    Out :=
  let t := s.strand s.cur
  let n := cellBytes wide
  match s.locate s.cur t m (t.offset m) n n { r := true, a := true } with
  | .error x => s.raiseT x
  | .ok pl => s.releasing i (Ord.hasRel ord) sc fun s =>
    let (old, s') := s.homeOp t (lcOf s.cur) pl n ord sc fun _ => none
    let z := Num.cellRound ty (t.mode rm) (cellWeight wide) (sextN (8 * n) old)
    if z.fl &&& t.en ≠ 0 then s.raise 0x07 (z.fl &&& t.en).toNat (wordOf i)
    else s'.retire ((t.ws r (BitVec.ofNat 64 z.code)).orFlags z.fl)

/-- xrd32 (R223). -/
def execXrd32 (g : Guard) (ty : Ty) (rm : Rc) (ord : Ord) (sc : Scope) (r : SR) (m : MemOp) (s : State) : Out :=
  s.run (.xrd32 g ty rm ord sc r m) g .any fun _ => s.xrd (.xrd32 g ty rm ord sc r m) false ty rm ord sc r m

/-- xrd64 (R223). -/
def execXrd64 (g : Guard) (ty : Ty) (rm : Rc) (ord : Ord) (sc : Scope) (r : SR) (m : MemOp) (s : State) : Out :=
  s.run (.xrd64 g ty rm ord sc r m) g .any fun _ => s.xrd (.xrd64 g ty rm ord sc r m) true ty rm ord sc r m

-- Forwarded atomics.

/-- The target word's CORE and OFFSET, with its malformations (R224). -/
def targetCore (w : Word) : Nat := w.bits 56 48
def targetOffset (w : Word) : Nat := w.bits 18 0
def State.targetCap (s : State) (x : Nat) (w : Word) : Option Trap :=
  if w.bits 63 57 ≠ 0 ∨ w.bits 47 19 ≠ 0 ∨ (s.ctx x).lcount ≤ targetCore w then some ⟨0x02, 0x0B, w⟩ else none
def targetMis (w : Word) : Option Trap :=
  if targetOffset w % 8 ≠ 0 then some ⟨0x04, 0, BitVec.ofNat 64 (targetOffset w)⟩ else none

/-- The checks of a forwarded atomic, merged in the order of R197: of the two misalignments that of the operand's offset comes first
(log 82: the order of the two is the model's choice). -/
def State.locateFwd (s : State) (t : Strand) (m : MemOp) (n : Nat) (tw : Word) : Except Trap Place :=
  let tc := s.targetCap (ctxOf s.cur) tw
  match s.locate s.cur t m (t.offset m) n n rmwNeed with
  | .ok pl =>
    match tc, targetMis tw with
    | some x, _ => .error x
    | none, some x => .error x
    | none, none => .ok pl
  | .error x =>
    if x.code = 0x02 then .error x
    else match tc with
      | some y => .error y
      | none =>
        if x.code = 0x04 then .error x
        else match targetMis tw with
          | some y => .error y
          | none => .error x

/-- The Pier that is home to a place of device memory (R272). -/
def State.pierAt (s : State) : Place → Nat
  | .dev id off _ => s.pa id off / 2 ^ 36
  | _ => 0
/-- The shared form of famo* and fcas (R225): the atomic at its home, the old value sent to fill the target word. -/
def State.famo (s : State) (i : Instr) (ty : Ty) (ord : Ord) (sc : Scope) (m : MemOp) (tw : Strand → Word)
    (f : Strand → Nat → Option Nat) : Out :=
  let t := s.strand s.cur
  let n := tyBytes ty
  if t.versioned then s.raise 0x09 0x02 (wordOf i)
  else match s.locateFwd t m n (tw t) with
    | .error x => s.raiseT x
    | .ok pl => s.releasing i (Ord.hasRel ord) sc fun s =>
      let (old, s) := s.homeOp t (lcOf s.cur) pl n ord sc (f t)
      let x : Fill := ⟨s.cur, mkLc (ctxOf s.cur) (targetCore (tw t)), targetOffset (tw t), BitVec.ofNat 64 old, s.pierAt pl⟩
      { s with fills := s.fills ++ [x] }.retire t

/-- The shared effect of famoadd to famoswap. -/
def State.famoOp (s : State) (i : Instr) (op : AmoOp) (ty : Ty) (ord : Ord) (sc : Scope) (r : SR) (m : MemOp) : Out :=
  s.famo i ty ord sc m (fun t => t.rsN (r.toNat + 1)) fun t old => some (op.apply ty.width old (low ty.width (t.rs r)))

/-- famoadd (R225). -/
def execFamoadd (g : Guard) (ty : Ty) (ord : Ord) (sc : Scope) (r : SR) (m : MemOp) (s : State) : Out :=
  s.run (.famoadd g ty ord sc r m) g .any fun _ => s.famoOp (.famoadd g ty ord sc r m) .add ty ord sc r m

/-- famoand (R225). -/
def execFamoand (g : Guard) (ty : Ty) (ord : Ord) (sc : Scope) (r : SR) (m : MemOp) (s : State) : Out :=
  s.run (.famoand g ty ord sc r m) g .any fun _ => s.famoOp (.famoand g ty ord sc r m) .and ty ord sc r m

/-- famoor (R225). -/
def execFamoor (g : Guard) (ty : Ty) (ord : Ord) (sc : Scope) (r : SR) (m : MemOp) (s : State) : Out :=
  s.run (.famoor g ty ord sc r m) g .any fun _ => s.famoOp (.famoor g ty ord sc r m) .or ty ord sc r m

/-- famoxor (R225). -/
def execFamoxor (g : Guard) (ty : Ty) (ord : Ord) (sc : Scope) (r : SR) (m : MemOp) (s : State) : Out :=
  s.run (.famoxor g ty ord sc r m) g .any fun _ => s.famoOp (.famoxor g ty ord sc r m) .xor ty ord sc r m

/-- famomin (R225). -/
def execFamomin (g : Guard) (ty : Ty) (ord : Ord) (sc : Scope) (r : SR) (m : MemOp) (s : State) : Out :=
  s.run (.famomin g ty ord sc r m) g .any fun _ => s.famoOp (.famomin g ty ord sc r m) .min ty ord sc r m

/-- famomax (R225). -/
def execFamomax (g : Guard) (ty : Ty) (ord : Ord) (sc : Scope) (r : SR) (m : MemOp) (s : State) : Out :=
  s.run (.famomax g ty ord sc r m) g .any fun _ => s.famoOp (.famomax g ty ord sc r m) .max ty ord sc r m

/-- famoswap (R225). -/
def execFamoswap (g : Guard) (ty : Ty) (ord : Ord) (sc : Scope) (r : SR) (m : MemOp) (s : State) : Out :=
  s.run (.famoswap g ty ord sc r m) g .any fun _ => s.famoOp (.famoswap g ty ord sc r m) .swap ty ord sc r m

/-- fcas (R225). -/
def execFcas (g : Guard) (ty : Ty) (ord : Ord) (sc : Scope) (r : SR) (m : MemOp) (s : State) : Out :=
  s.run (.fcas g ty ord sc r m) g .any fun _ =>
    s.famo (.fcas g ty ord sc r m) ty ord sc m (fun t => t.rsN (r.toNat + 2))
      fun t old => if old = low ty.width (t.rs r) then some (low ty.width (t.rsN (r.toNat + 1))) else none

end Sys2Proof.Machine
end

