-- ==== Sys2Proof/Machine/Matrix.lean ====
section
/-! DEFINITION. The matrix engine (R311-R339): runs and regions, the load, compute and store commands, the array lease. -/

namespace Sys2Proof.Machine

-- Runs (R317). The run's rows lie one after another in its slots, each row's elements before its scales.

/-- The head record of a run (R317). -/
structure Run where
  kind : Nat
  efmt : Nat
  skind : Nat
  blk : Nat
  count : Nat
  deriving DecidableEq, Repr

def Run.toList (r : Run) : List Nat := [r.kind, r.efmt, r.skind, r.blk, r.count]
def Run.ofList : List Nat → Option Run
  | [a, b, c, d, e] => some ⟨a, b, c, d, e⟩
  | _ => none
def Run.fmt (r : Run) : MFmt := (MFmt.ofCode r.efmt).getD .int4
def blOf (blk : Nat) : Nat :=
  match blk with
  | 0 => 32
  | 1 => 16
  | _ => 64
def Run.bl (r : Run) : Nat := blOf r.blk
/-- Bytes of a scale. -/
def Run.z (r : Run) : Nat :=
  match r.skind with
  | 0 => 0
  | 2 => 4
  | _ => 1
/-- Elements of a row, and its bytes. -/
def Run.elems (r : Run) : Nat :=
  match r.kind with
  | 0 => 64
  | 1 => 32
  | 2 => 8
  | _ => r.count
def Run.elemBytes (r : Run) : Nat := r.elems * r.fmt.width / 8
def Run.scaleBytes (r : Run) : Nat := if r.kind < 2 then 64 / r.bl * r.z else 0
def Run.rowBytes (r : Run) : Nat := r.elemBytes + r.scaleBytes
def Run.rows (r : Run) : Nat := if r.kind = 3 then 128 else r.count
/-- The slots a run needs (R317). -/
def Run.need (r : Run) : Nat := ceilDiv (r.rows * r.rowBytes) 16384

def Matrix.slot (m : Matrix) (v : Nat) : Slot := m.slots.get {} v
def Matrix.setSlot (m : Matrix) (v : Nat) (x : Slot) : Matrix := { m with slots := m.slots.set {} v x }
/-- The run a slot heads. -/
def Matrix.runAt (m : Matrix) (v : Nat) : Option Run := if (m.slot v).st = .full then Run.ofList (m.slot v).info else none
/-- Byte a of the run at a head. -/
def Matrix.runByte (m : Matrix) (v a : Nat) : Byte := (m.slot (v + a / 16384)).data.get 0 (a % 16384)
def Matrix.runBytes (m : Matrix) (v a : Nat) : Nat → List Byte
  | 0 => []
  | n + 1 => m.runByte v a :: m.runBytes v (a + 1) n
def Matrix.runPoison (m : Matrix) (v a n : Nat) : Bool :=
  (List.range n).any fun i => (m.slot (v + (a + i) / 16384)).poison.get false ((a + i) % 16384 / 32)

/-- Writing the bytes of a run from its head, granule by granule (R277, R313); `fuel` bounds the granules. -/
def Matrix.putRun (v : Nat) : Nat → Matrix → Nat → List (Byte × Bool) → Matrix
  | 0, m, _, _ => m
  | _ + 1, m, _, [] => m
  | fuel + 1, m, a, bs =>
    let x := bs.take 32
    let k := v + a / 16384
    let sl := m.slot k
    let bad := x.any Prod.snd
    let sl := { sl with
      data := sl.data.setList 0 (a % 16384) (if bad then List.replicate 32 0 else x.map Prod.fst)
      poison := if bad then sl.poison.set false (a % 16384 / 32) true
        else if x.length = 32 then sl.poison.set false (a % 16384 / 32) false else sl.poison }
    Matrix.putRun v fuel (m.setSlot k sl) (a + 32) (bs.drop 32)

-- Regions (R318-R320).

/-- The bytes of a row of the region. -/
def Matrix.regionNat (m : Matrix) (a n : Nat) : Nat := leNat (Tab.getList 0 m.region a n)
def Matrix.setRegion (m : Matrix) (a : Nat) (bs : List Byte) : Matrix := { m with region := m.region.setList 0 a bs }
def Matrix.regionBad (m : Matrix) (a : Nat) : Bool := m.regionPoison.get false (a / 32)
/-- Groups covered by N columns from COL (R319). -/
def groupCount (f64 : Bool) (n : Nat) : Nat := n / (if f64 then 8 else 16)
def Matrix.anyFull (m : Matrix) (col k : Nat) : Bool := (List.range k).any fun i => m.groups.get false (col + i)
def Matrix.allFull (m : Matrix) (col k : Nat) : Bool := (List.range k).all fun i => m.groups.get false (col + i)
def Matrix.setGroups (m : Matrix) (col k : Nat) (full : Bool) : Matrix :=
  { m with groups := m.groups.setList false col (List.replicate k full) }
/-- Writing the covered columns of row r: whole granules, each 0 and poisoned, or written and whole (R277, R333). -/
def Matrix.putRow (m : Matrix) (r col : Nat) (bs : List (Byte × Bool)) : Matrix :=
  (List.range (bs.length / 32)).foldl (fun m j =>
    let a := 2048 * r + 64 * col + 32 * j
    let x := (bs.drop (32 * j)).take 32
    let bad := x.any Prod.snd
    { m.setRegion a (if bad then List.replicate 32 0 else x.map Prod.fst) with
      regionPoison := m.regionPoison.set false (a / 32) bad }) m

-- Captured templates (R321).

def Cmd.f (x : Cmd) (hi lo : Nat) : Nat := tmplBits x.tmpl hi lo
def Cmd.b (x : Cmd) (i : Nat) : Bool := x.tmpl.getLsbD i
def Cmd.stream (x : Cmd) : StreamF := StreamF.of (x.streams.getD 0 0)
/-- Reserved fields of the three layouts (R321). -/
def Cmd.resCompute (x : Cmd) : Bool :=
  x.f 127 80 != 0 || x.f 71 65 != 0 || x.f 63 61 != 0 || x.b 55 || x.b 47 || x.b 39
def Cmd.resLoad (x : Cmd) : Bool :=
  x.f 127 78 != 0 || x.f 71 68 != 0 || x.f 63 58 != 0 || x.f 47 42 != 0 || x.b 39 || (x.b 76 && x.f 75 72 != 0)
def Cmd.resStore (x : Cmd) : Bool :=
  x.f 111 80 != 0 || x.f 71 70 != 0 || x.f 63 58 != 0 || x.f 47 41 != 0 || x.f 39 37 != 0 || (x.b 76 && x.f 75 72 != 0)
/-- The rounding mode of an RM code (R321, R335): 0b000 is RNE. -/
def modeOfRm (rm : Nat) : Num.Mode := if rm = 0 then .rne else Num.Mode.ofBits rm
def rmBad (rm : Nat) : Bool := decide (1 ≤ rm) && decide (rm ≤ 3)
/-- N valid for an accumulator format (R311). -/
def colsOk (n : Nat) (f64 : Bool) : Bool := n % 16 == 0 && decide (16 ≤ n) && decide (n ≤ if f64 then 256 else 512)
/-- The conditions of R241 but for ROWS, COLS, RFMT and RM, with CSTRIDE = 0 (R328, R335). -/
def StreamF.tileOk (f : StreamF) : Bool :=
  match f.efmt with
  | none => false
  | some e => !f.res && f.blk != 3 && f.skind != 3 && f.cstride == 0
      && !(f.skind == 1 && (!e.isMx || f.blk != 0)) && !(f.skind == 2 && e.width == 64)

/-- The response entry (R337). -/
def Cmd.matrixResp (x : Cmd) (status : Nat) (fl : Num.Flags) : Word :=
  BitVec.ofNat 64 (x.seq % 2 ^ 32 * 2 ^ 32 + status * 2 ^ 24 + fl.toNat * 2 ^ 19)
def Cmd.failM (x : Cmd) (s : State) (status : Nat) (fl : Num.Flags) : CmdRes := .fault s (x.matrixResp status fl)
def Cmd.doneM (x : Cmd) (s : State) (status : Nat) (fl : Num.Flags) : CmdRes :=
  .done s (if x.b 77 then some (x.matrixResp status fl) else none)

/-- The memory operand of a load or store command. -/
def Cmd.loc (x : Cmd) (c : Nat) : Loc := if x.b 76 then .ls c else .dev (x.capN 0)

/-- The first element that fails of a tile access of n bytes whose elements are `u` bytes wide, as its STATUS and its byte offset
(R338); of one element the order is capability, alignment, page. -/
def State.matrixMissAt (s : State) (c : Nat) (l : Loc) (need : Need) (o n u : Nat) : Option (Nat × Nat) :=
  let one := fun (i : Nat) =>
    (match s.reach c l need (o + u * i) u with
    | some .cap => some 0x12
    | some .range => some 0x13
    | some .page => if o % u ≠ 0 then some 0x15 else some 0x14
    | none => if o % u ≠ 0 then some 0x15 else none).map fun (st : Nat) => (st, u * i)
  if (s.reach c l need o n).isNone && o % u == 0 then none else (List.range (n / u)).findSome? one
def State.matrixMiss (s : State) (c : Nat) (l : Loc) (need : Need) (o n u : Nat) : Option Nat :=
  (s.matrixMissAt c l need o n u).map Prod.fst

/-- Reading tile bytes at their homes, each marked when its granule is poisoned (R329); some may have been read early (R43). -/
def State.tileRead (s : State) (es : List Early) (c : Nat) (l : Loc) (o n : Nat) : List (Byte × Bool) × State :=
  let (bs, s) := s.engineHome c l o n
  (Early.marked es (s.locSpot l (l.pos o))
    (if s.enginePoison l o n then (List.range n).map fun i => (bs.getD i 0, s.enginePoison l (o + i) 1) else bs.map fun b => (b, false)), s)

-- mld and mldt (R328, R329).

/-- The run a load command writes. -/
def Cmd.run (x : Cmd) : Run :=
  let f := x.stream
  ⟨x.f 41 40, ((x.streams.getD 0 0).word 0).bits 4 0, f.skind, f.blk, x.f 57 48⟩

/-- STATUS 0x10 of mld and mldt (R328). -/
def Cmd.loadBad (x : Cmd) : Bool :=
  let f := x.stream
  let r := x.run
  match f.efmt with
  | none => true
  | some e =>
    let op := match e with
      | .int4 => true
      | .ty t => t.isFloat || t == .i8
    let t := x.code == 0xD1
    x.resLoad || !f.tileOk || r.count % 16 != 0 || decide (r.count < 16) || decide (512 < r.count)
      || (decide (r.kind < 2) && !op)
      || (r.kind == 1 && decide (8 < e.width))
      || (r.kind == 2 && !(e == .ty .n8 && f.skind == 0 && r.count == 128))
      || (r.kind == 3 && !((e == .ty .f32 || (e == .ty .f64 && decide (r.count ≤ 256))) && f.skind == 0))
      || (t && !(r.kind == 0 && decide (8 ≤ e.width) && f.skind == 0))
      || decide (127 < x.f 38 32 + r.need - 1)

/-- One source row: its bytes, or a STATUS. -/
def State.tileRow (s : State) (es : List Early) (c : Nat) (l : Loc) (o : Word) (n u : Nat) : Except Nat (List (Byte × Bool) × State) :=
  match s.matrixMiss c l { r := true } o.toNat n u with
  | some st => .error st
  | none => .ok (s.tileRead es c l o.toNat n)

/-- The rows of a dense, compressed, metadata or accumulator run, in order (R329). -/
def State.loadRows (early : List Early) (c : Nat) (l : Loc) (r : Run) (o : Nat) (f : StreamF) :
    Nat → State → Nat → Except Nat (List (Byte × Bool) × State)
  | 0, s, _ => .ok ([], s)
  | k + 1, s, row => do
    let u := if 16 ≤ r.fmt.width then r.fmt.width / 8 else 1
    let (es, s) ← s.tileRow early c l (off64 (o + row * f.rstride)) r.elemBytes u
    let (ss, s) ← if r.scaleBytes = 0 then .ok ([], s)
      else s.tileRow early c l (off64 (o + f.soff + row * f.srstride)) r.scaleBytes r.z
    let (rest, s) ← State.loadRows early c l r o f k s (row + 1)
    .ok (es ++ ss ++ rest, s)

/-- The 64 source rows of mldt (R329). -/
def State.transposeRows (early : List Early) (c : Nat) (l : Loc) (r : Run) (o : Nat) (f : StreamF) :
    Nat → State → Nat → Except Nat (List (List (Byte × Bool)) × State)
  | 0, s, _ => .ok ([], s)
  | k + 1, s, row => do
    let b := r.fmt.width / 8
    let (es, s) ← s.tileRow early c l (off64 (o + row * f.rstride)) (r.count * b) (if 16 ≤ r.fmt.width then b else 1)
    let (rest, s) ← State.transposeRows early c l r o f k s (row + 1)
    .ok (es :: rest, s)

/-- The bytes of the run a load reads (R329). -/
def State.loadTile (s : State) (es : List Early) (c : Nat) (x : Cmd) : Except Nat (List (Byte × Bool) × State) :=
  let r := x.run
  let o := x.f 31 0 * 8
  if x.code = 0xD1 then do
    let (rows, s) ← State.transposeRows es c (x.loc c) r o x.stream 64 s 0
    let b := r.fmt.width / 8
    .ok ((List.range r.count).flatMap fun n => rows.flatMap fun row => (row.drop (n * b)).take b, s)
  else State.loadRows es c (x.loc c) r o x.stream r.rows s 0

/-- The slots of a load command are claimed and hold no run: it reads its tile (R327, R329). -/
def Cmd.slotsOpen (x : Cmd) (m : Matrix) : Bool := (List.range x.run.need).all fun i => (m.slot (x.f 38 32 + i)).st == .claimed
/-- mld and mldt (R328, R329). With no unit to do a command has read nothing yet. -/
def loadWork (c : Nat) (x : Cmd) (_ : Nat) (w : Work) : CmdRes :=
  if x.loadBad then x.failM w.s 0x10 0
  else
    let r := x.run
    let v := x.f 38 32
    let m := (w.s.lcore c).mx
    let vs := (List.range r.need).map (v + ·)
    if w.out then .wait w false 0
    else if vs.any fun k => (m.slot k).st == .full then .wait w true 0
    else if vs.any fun k => (m.slot k).st == .free then x.failM w.s 0x11 0
    else match w.s.loadTile w.es c x with
      | .error st => x.failM w.s st 0
      | .ok (bs, s) =>
        let s := s.modLcore c fun l =>
          let m := Matrix.putRun v (bs.length / 32 + 1) l.mx 0 bs
          { l with mx := vs.foldl (fun m k =>
              m.setSlot k { m.slot k with st := .full, info := if k = v then r.toList else [] }) m }
        x.doneM s (if bs.any Prod.snd then 0x01 else 0x00) 0

/-- mld (R329). -/
def execMldCommand (c : Nat) (s : State) : Out := s.runCommand c 1 0xD0 (loadWork c)
/-- mldt (R329). -/
def execMldtCommand (c : Nat) (s : State) : Out := s.runCommand c 1 0xD1 (loadWork c)

-- Compute commands (R330-R334).

/-- Columns, groups and format a compute command covers. -/
def Cmd.n (x : Cmd) : Nat := x.f 31 0
def Cmd.f64 (x : Cmd) : Bool := x.b 72
def Cmd.col (x : Cmd) : Nat := x.f 60 56
def Cmd.groups (x : Cmd) : Nat := groupCount x.f64 x.n
def Cmd.sparse (x : Cmd) : Bool := x.code == 0xD4 || x.code == 0xD5
def Cmd.zForm (x : Cmd) : Bool := x.code == 0xD3 || x.code == 0xD5
/-- Runs a command names (R330, R333). -/
def Cmd.heads (x : Cmd) : List Nat :=
  if x.code = 0xD7 then (if x.b 64 then [x.f 38 32] else [])
  else [x.f 38 32, x.f 46 40] ++ (if x.sparse then [x.f 54 48] else [])

/-- STATUS 0x10 of a compute command, mzero or mrel (R330, R333, R334). -/
def Cmd.computeBad (x : Cmd) : Bool :=
  x.resCompute || rmBad (x.f 75 73) ||
    (if x.code = 0xD6 then decide (x.n < 1) || decide (128 < x.n) || decide (127 < x.f 38 32 + x.n - 1)
     else !colsOk x.n x.f64 || decide (31 < x.col + x.groups - 1))

/-- The runs of a command are of the right kind, rows and format (R330, R333). -/
def Cmd.runsOk (x : Cmd) (m : Matrix) : Bool :=
  if x.code = 0xD7 then
    !x.b 64 || (match m.runAt (x.f 38 32) with
      | some r => r.kind == 3 && r.count == x.n && r.fmt == .ty (if x.f64 then .f64 else .f32)
      | none => false)
  else match m.runAt (x.f 38 32), m.runAt (x.f 46 40) with
    | some a, some b =>
      a.kind == (if x.sparse then 1 else 0) && a.count == 128 && b.kind == 0 && b.count == x.n
        && (!x.sparse || (match m.runAt (x.f 54 48) with
          | some r => r.kind == 2
          | none => false))
        && !(a.skind != 0 && b.skind != 0 && a.blk != b.blk)
        && (!x.sparse || decide (a.fmt.width ≤ 8))
    | _, _ => false

/-- What a compute head comes to before it needs the lease (R327, R330, R333, R334). -/
inductive HeadSt where
  | ready | waits | bad (status : Nat)
  deriving DecidableEq, Repr

def Cmd.headSt (x : Cmd) (m : Matrix) : HeadSt :=
  if x.computeBad then .bad 0x10
  else if x.code = 0xD6 then
    let vs := (List.range x.n).map (x.f 38 32 + ·)
    if !x.b 78 && (vs.any fun k => (m.slot k).st == .claimed) then .waits
    else if vs.any fun k => (m.slot k).st == .free then .bad 0x11
    else .ready
  else if (x.heads.any fun k => (m.slot k).st == .claimed) || m.anyFull x.col x.groups then .waits
  else if x.runsOk m then .ready
  else .bad 0x11

/-- The factor P of two scales by their kinds (R99): 0 unscaled, 1 E8M0, 2 FP32. -/
def pFactor (ka ca kb cb : Nat) : Num.Val × Num.Flags :=
  let val := fun (k c : Nat) =>
    if k = 1 then (if c = 0xFF then Num.Val.nan false else .num false 1 ((c : Int) - 127))
    else if k = 2 then Num.decode .f32 c else .num false 1 0
  let a := val ka ca
  let b := val kb cb
  if a.isNan || b.isNan then (.nan false, Num.snanFl [a, b])
  else if ka = 2 ∨ kb = 2 then
    let r := Num.conv .f32 .rne (Num.prod a b)
    (Num.decode .f32 r.code, r.fl ||| Num.prodFl a b)
  else (Num.prod a b, 0)

/-- A row of a run, decoded: values, scales, and whether any of its granules is poisoned. -/
structure RunRow where
  vals : List Num.Val
  scales : List Nat
  bad : Bool
  deriving DecidableEq, Repr

def Matrix.row (m : Matrix) (v : Nat) (r : Run) (i : Nat) : RunRow :=
  let a := i * r.rowBytes
  let x := leNat (m.runBytes v a r.elemBytes)
  let y := leNat (m.runBytes v (a + r.elemBytes) r.scaleBytes)
  let w := r.fmt.width
  { vals := (List.range r.elems).map fun k =>
      let c := x / 2 ^ (k * w) % 2 ^ w
      if r.skind = 1 then r.fmt.mxValue c else r.fmt.decode c
    scales := (List.range (64 / r.bl)).map fun j => y / 2 ^ (8 * r.z * j) % 2 ^ (8 * r.z)
    bad := m.runPoison v a r.rowBytes }

/-- Dense positions of the stored elements of a row (R332): k0 and k1 of each group of four. -/
def densePos (md : Nat) : List Nat :=
  (List.range 16).flatMap fun g =>
    let nib := md / 2 ^ (4 * g) % 16
    [4 * g + nib % 4, 4 * g + nib / 4]

/-- block_terms(m, n, j) of R331 and R332: the pairs whose dense position lies in block j. -/
def blockTerms (a b : List Num.Val) (pos : List Nat) (lo hi : Nat) : List (Num.Val × Num.Val) :=
  (a.zip pos).filterMap fun e => if lo ≤ e.2 ∧ e.2 < hi then some (e.1, b.getD e.2 (.num false 0 0)) else none

/-- One output element (R331): the code delivered and its flags. -/
def element (t : Ty) (mode : Num.Mode) (ka kb bl : Nat) (a b : RunRow) (pos : List Nat) (acc : Option Nat) : Num.Res :=
  let parts := (List.range (64 / bl)).map fun j =>
    let ts := blockTerms a.vals b.vals pos (bl * j) (bl * j + bl)
    let (d, f1) := Num.sumExact mode (ts.map fun p => Num.prod p.1 p.2)
    let f0 := ts.foldl (fun f p => f ||| Num.prodFl p.1 p.2 ||| Num.snanFl [p.1, p.2]) 0
    let (p, f2) := pFactor ka (a.scales.getD j 0) kb (b.scales.getD j 0)
    (Num.prod p d, f0 ||| f1 ||| f2 ||| Num.prodFl p d)
  let av := acc.toList.map (Num.decode t)
  let (z, f3) := Num.sumExact mode (parts.map Prod.fst ++ av)
  let r := Num.conv t mode z
  ⟨r.code, parts.foldl (fun f p => f ||| p.2) (f3 ||| r.fl ||| Num.snanFl av)⟩

/-- mmul, mmul.z, mmsp and mmsp.z (R331, R332). -/
def computeBody (x : Cmd) (m : Matrix) : Matrix × Nat × Num.Flags :=
  match m.runAt (x.f 38 32), m.runAt (x.f 46 40) with
  | some ra, some rb =>
    let t : Ty := if x.f64 then .f64 else .f32
    let u := if x.f64 then 8 else 4
    let mode := modeOfRm (x.f 75 73)
    let bl := if ra.skind ≠ 0 then ra.bl else if rb.skind ≠ 0 then rb.bl else 64
    let bs := (List.range x.n).map fun i => m.row (x.f 46 40) rb i
    let rowOf := fun (i : Nat) =>
      let a := m.row (x.f 38 32) ra i
      let md := leNat (m.runBytes (x.f 54 48) (8 * i) 8)
      let pos := if x.sparse then densePos md else List.range 64
      let metaBad := x.sparse && m.runPoison (x.f 54 48) (8 * i) 8
      bs.zipIdx.map fun e =>
        let at_ := 2048 * i + 64 * x.col + u * e.2
        let bad := a.bad || e.1.bad || metaBad || (!x.zForm && m.regionBad at_)
        if bad then ((⟨0, 0⟩ : Num.Res), true)
        else (element t mode ra.skind rb.skind bl a e.1 pos (if x.zForm then none else some (m.regionNat at_ u)), false)
    let out := (List.range 128).map rowOf
    let m := out.zipIdx.foldl (fun m e =>
      m.putRow e.2 x.col (e.1.flatMap fun r => (leBytes u r.1.code).map fun b => (b, r.2))) m
    let fl : Num.Flags := out.foldl (fun f row => row.foldl (fun f r => f ||| r.1.fl) f) 0
    let m := { m with rflags := m.rflags ||| fl }
    (if x.b 76 then m.setGroups x.col x.groups true else m, if out.any fun row => row.any Prod.snd then 0x01 else 0x00, fl)
  | _, _ => (m, 0, 0)

/-- mzero (R333): zeros, or the bits of an accumulator image. -/
def zeroBody (x : Cmd) (m : Matrix) : Matrix × Nat × Num.Flags :=
  let u := if x.f64 then 8 else 4
  let rowOf := fun (r : Nat) =>
    if x.b 64 then
      let bs := m.runBytes (x.f 38 32) (r * x.n * u) (x.n * u)
      bs.zipIdx.map fun e => (e.1, m.runPoison (x.f 38 32) (r * x.n * u + e.2) 1)
    else List.replicate (x.n * u) ((0 : Byte), false)
  let rows := (List.range 128).map rowOf
  let m := rows.zipIdx.foldl (fun m e => m.putRow e.2 x.col e.1) m
  (if x.b 76 then m.setGroups x.col x.groups true else m, if rows.any fun r => r.any Prod.snd then 0x01 else 0x00, 0)

/-- mrel (R334): each slot goes to FREE, or to CLAIMED-EMPTY with HOLD, and every run the range touches ends. -/
def relBody (x : Cmd) (m : Matrix) : Matrix × Nat × Num.Flags :=
  let lo := x.f 38 32
  let hi := lo + x.n
  let m := (List.range 128).foldl (fun m h =>
    match m.runAt h with
    | some r => if h < hi ∧ lo < h + r.need then m.setSlot h { m.slot h with info := [] } else m
    | none => m) m
  ((List.range x.n).foldl (fun m i =>
    m.setSlot (lo + i) (if x.b 79 then { st := .claimed } else {})) m, 0, 0)

def Cmd.body (x : Cmd) (m : Matrix) : Matrix × Nat × Num.Flags :=
  match x.code with
  | 0xD6 => relBody x m
  | 0xD7 => zeroBody x m
  | _ => computeBody x m

-- The lease (R327).

/-- The array of a logical core: die and cluster. -/
def State.arrayOf (s : State) (c : Nat) : Nat := (s.lcore c).die * 4 + s.position c / 4
def State.lease (s : State) (a : Nat) : Lease := s.ks.leases.get {} a
def State.setLease (s : State) (a : Nat) (l : Lease) : State :=
  { s with ks := { s.ks with leases := s.ks.leases.set {} a l } }
/-- The compute head of a logical core is ready (R327). -/
def State.headReady (s : State) (c : Nat) : Bool :=
  s.coreRuns c && s.queuePresent c 2 && (match (s.queue c 2).turn with
    | some (x, _) => x.headSt (s.lcore c).mx == .ready
    | none => false)
/-- 4,096 cycles of R7, in nanoseconds. -/
def leaseSpan : Nat := 2560
/-- The end of a lease at a command boundary (R327): 16 commands started, 4,096 cycles passed, or the head not ready. -/
def State.leaseBoundary (s : State) (c : Nat) : State :=
  let a := s.arrayOf c
  let l := s.lease a
  if l.holder = some c ∧ (16 ≤ l.started ∨ leaseSpan ≤ s.now - l.since ∨ !s.headReady c) then
    s.setLease a { l with holder := none }
  else s

/-- A compute-stage command (R326, R327, R330): its checks and waits, then its effect under the lease. -/
def computeWork (c : Nat) (x : Cmd) (_ : Nat) (w : Work) : CmdRes :=
  match x.headSt (w.s.lcore c).mx with
  | .bad st => x.failM w.s st 0
  | .waits => .wait w true 0
  | .ready =>
    let a := w.s.arrayOf c
    if (w.s.lease a).holder ≠ some c then .wait w false 0
    else
      let (m, st, fl) := x.body (w.s.lcore c).mx
      let s := w.s.modLcore c fun l => { l with mx := m }
      x.doneM (s.setLease a { s.lease a with started := (s.lease a).started + 1 }) st fl

/-- A compute event, with the command boundary after it. -/
def State.runCompute (s : State) (c code : Nat) : Out :=
  match s.runCommand c 2 code (computeWork c) with
  | .next s' => .next (s'.leaseBoundary c)
  | o => o

/-- mmul (R331). -/
def execMmulCommand (c : Nat) (s : State) : Out := s.runCompute c 0xD2
/-- mmul.z (R331). -/
def execMmulZCommand (c : Nat) (s : State) : Out := s.runCompute c 0xD3
/-- mmsp (R332). -/
def execMmspCommand (c : Nat) (s : State) : Out := s.runCompute c 0xD4
/-- mmsp.z (R332). -/
def execMmspZCommand (c : Nat) (s : State) : Out := s.runCompute c 0xD5
/-- mrel (R334). -/
def execMrelCommand (c : Nat) (s : State) : Out := s.runCompute c 0xD6
/-- mzero (R333). -/
def execMzeroCommand (c : Nat) (s : State) : Out := s.runCompute c 0xD7

/-- LEASE_GRANT (R327): a free lease goes to the ready head of the highest priority, among equals to the first position after
the last holder. -/
def execLeaseGrant (die cluster : Nat) (s : State) : Out :=
  if 31 < die ∨ 3 < cluster then .fault .noSuchUnit
  else
    let a := die * 4 + cluster
    let l := s.lease a
    let cands := s.lcKeys.filter fun c => s.arrayOf c == a && s.headReady c
    let prio : Nat → Nat := fun c => match (s.queue c 2).turn with
      | some (x, _) => x.prio
      | none => 0
    let turn : Nat → Nat := fun c => (s.position c % 4 + 7 - l.last) % 4
    let best := cands.foldl (fun (b : Option Nat) c =>
      match b with
      | none => some c
      | some d => if prio d < prio c ∨ (prio c = prio d ∧ turn c < turn d) then some c else b) none
    match l.holder, best with
    | none, some c => .next (s.setLease a { holder := some c, started := 0, since := s.now, last := s.position c % 4 })
    | _, _ => .next s

-- mst and mfill (R335, R336).

/-- The value V (R335). -/
def vWord (seq : Nat) (rf : Num.Flags) (status : Nat) : Nat := seq % 2 ^ 32 * 2 ^ 32 + rf.toNat * 256 + status

/-- STATUS 0x10 of mst (R335). -/
def Cmd.storeBad (x : Cmd) : Bool :=
  let f := x.stream
  let n := x.f 57 48
  x.resStore || !colsOk n (x.b 40) || decide (31 < x.f 36 32 + groupCount (x.b 40) n - 1)
    || !f.tileOk || rmBad f.rm || !(f.skind == 0 || (f.skind == 1 && n % 32 == 0))

/-- The bytes of a packed row from its codes, each byte marked when one of its elements is poisoned (R75, R277). -/
def packMarked (w : Nat) (es : List (Nat × Bool)) : List (Byte × Bool) :=
  let x := (es.map Prod.fst).foldr (fun c acc => c + 2 ^ w * acc) 0
  let n := es.length * w / 8
  (List.range n).map fun b =>
    (BitVec.ofNat 8 (x / 256 ^ b),
     (List.range ((8 * b + 7) / w + 1 - 8 * b / w)).any fun i => ((es.map Prod.snd).getD (8 * b / w + i) false))

/-- Row r of an mst: its packed elements, its scales, and its flags (R335). -/
def Cmd.drainRow (x : Cmd) (m : Matrix) (r : Nat) : List (Byte × Bool) × List (Byte × Bool) × Num.Flags :=
  let f := x.stream
  let ef := f.efmt.getD .int4
  let t : Ty := if x.b 40 then .f64 else .f32
  let u := if x.b 40 then 8 else 4
  let n := x.f 57 48
  let mode := modeOfRm f.rm
  let src := (List.range n).map fun i =>
    let a := 2048 * r + 64 * x.f 36 32 + u * i
    (m.regionNat a u, m.regionBad a)
  if f.skind = 0 then
    let rs := src.map fun e => ((if ef = .ty t then (⟨e.1, 0⟩ : Num.Res) else ef.conv mode (Num.decode t e.1)), e.2)
    (packMarked ef.width (rs.map fun r => (r.1.code, r.2)), [], rs.foldl (fun f r => if r.2 then f else f ||| r.1.fl) 0)
  else
    let kind : Ty := match ef with
      | .ty k => k
      | .int4 => .i8
    let blocks := (List.range (n / 32)).map fun j =>
      let es := (src.drop (32 * j)).take 32
      let (sc, cs, fl) := Num.mxEncode kind mode (es.map fun e => Num.decode t e.1)
      (sc, cs, fl, es.any Prod.snd)
    (packMarked ef.width (blocks.flatMap fun b => b.2.1.map fun c => (c, b.2.2.2)),
     blocks.map fun b => (BitVec.ofNat 8 b.1, b.2.2.2),
     blocks.foldl (fun f b => if b.2.2.2 then f else f ||| b.2.2.1) 0)

/-- Writing a stretch of target bytes, element by element: those before one that fails are written (R338). -/
def Work.tile (w : Work) (c : Nat) (l : Loc) (o u : Nat) (bs : List (Byte × Bool)) : Except (Work × Nat) Work :=
  match w.s.matrixMissAt c l { w := true } o bs.length u with
  | some (st, n) => .error (if n = 0 then w else w.writeMarked c l o (bs.take n) 0, st)
  | none => .ok (w.writeMarked c l o bs 0)
/-- Row r of an mst written: its elements, then its scales (R335). -/
def Cmd.storeRow (x : Cmd) (c : Nat) (w : Work) (r : Nat) (es ss : List (Byte × Bool)) : Except (Work × Nat) Work := do
  let f := x.stream
  let l := x.loc c
  let width := (f.efmt.getD .int4).width
  let w ← w.tile c l (off64 ((x.f 31 0 * 8 : Nat) + r * f.rstride)).toNat (if 16 ≤ width then width / 8 else 1) es
  if ss = [] then .ok w else w.tile c l (off64 ((x.f 31 0 * 8 : Nat) + f.soff + r * f.srstride)).toNat 1 ss

/-- How far an mst came: the next row, the STATUS it failed with, and the flags of the rows drained. -/
structure Drained where
  w : Work
  row : Nat
  bad : Option Nat
  fl : Num.Flags
/-- The rows of an mst in order, as far as it can go or as many as it may (R335, R344); it stops at the failing access (R338). -/
def Cmd.drain (x : Cmd) (c : Nat) (m : Matrix) : Nat → Work → Nat → Num.Flags → Drained
  | 0, w, r, fl => ⟨w, r, none, fl⟩
  | k + 1, w, r, fl =>
    if w.out then ⟨w, r, none, fl⟩
    else
      let (es, ss, g) := x.drainRow m r
      match x.storeRow c w r es ss with
      | .error (w, st) => ⟨w, r, some st, fl ||| g⟩
      | .ok w => x.drain c m k w.unitDone (r + 1) (fl ||| g)

/-- An mst whose local-store target or completion word lies in the journal range (R341). -/
def Cmd.hitsJournal (x : Cmd) (s : State) (c : Nat) : Bool :=
  let f := x.stream
  let n := x.f 57 48
  let rows := (List.range 128).any fun (r : Nat) =>
    s.inJournal c (off64 ((x.f 31 0 * 8 : Nat) + r * f.rstride)).toNat (n * (f.efmt.getD .int4).width / 8)
      || (f.skind != 0 && s.inJournal c (off64 ((x.f 31 0 * 8 : Nat) + f.soff + r * f.srstride)).toNat (n / 32))
  (x.b 76 && rows) || (x.b 78 && s.inJournal c (x.f 127 112 * 8) 8)

/-- mst (R335), from its start or from the next row: the writes, then the groups EMPTY, the fill, CLR, the response. Its writes
arrive before the queue's next command starts (log 106). -/
def storeWork (c : Nat) (x : Cmd) (prog : Nat) (w : Work) : CmdRes :=
  if x.storeBad then x.failM w.s 0x10 0
  else if x.hitsJournal w.s c then x.failM w.s 0x13 0
  else
    let col := x.f 36 32
    let k := groupCount (x.b 40) (x.f 57 48)
    if !(w.s.lcore c).mx.allFull col k then .wait w true 0
    else
      let d := x.drain c (w.s.lcore c).mx (128 - prog) w prog (BitVec.ofNat 5 w.mark.flags)
      let w := d.w
      let flagged := w.s.modLcore c fun l => { l with mx := { l.mx with rflags := l.mx.rflags ||| d.fl } }
      match d.bad with
      | some st => x.failM (flagged.landFor w.who) st d.fl
      | none =>
        if d.row < 128 || w.parted then .wait { w with mark := { w.mark with flags := d.fl.toNat } } false d.row
        else
          let st := if w.bad = [] then 0x00 else 0x01
          let s := flagged.modLcore c fun l => { l with mx := l.mx.setGroups col k false }
          let s := if x.b 78 then s.fillLs c (x.f 127 112 * 8) (vWord x.seq (s.lcore c).mx.rflags st) else s
          let s := if x.b 79 then s.modLcore c fun l => { l with mx := { l.mx with rflags := 0 } } else s
          x.doneM s st d.fl

/-- mfill (R336). -/
def fillWork (c : Nat) (x : Cmd) (_ : Nat) (w : Work) : CmdRes :=
  let fm := x.f 69 68
  let o := x.f 31 0 * 8
  let l := x.loc c
  if x.resStore || fm == 3 then x.failM w.s 0x10 0
  else if x.b 76 && w.s.inJournal c o 8 then x.failM w.s 0x13 0
  else match w.s.matrixMiss c l { w := true, f := fm != 2 } o 8 8 with
    | some st => x.failM w.s st 0
    | none =>
      if fm = 1 ∧ w.s.engineFull l o then .wait w true 0
      else
        let w := w.write c l o (leBytes 8 (vWord x.seq (w.s.lcore c).mx.rflags 0)) false 0
        let s := if fm = 2 then w.s else w.s.setEngineFull l o true
        let s := if x.b 79 then s.modLcore c fun l => { l with mx := { l.mx with rflags := 0 } } else s
        x.doneM s 0x00 0

/-- mst (R335). -/
def execMstCommand (c : Nat) (s : State) : Out := s.runCommand c 3 0xD8 (storeWork c)
/-- mfill (R336). -/
def execMfillCommand (c : Nat) (s : State) : Out := s.runCommand c 3 0xD9 (fillWork c)

end Sys2Proof.Machine
end

