-- ==== Sys2Proof/Machine/Scheduler.lean ====
section
/-! DEFINITION. The Keystone scheduler: charging (R416), rank, emission and queues (R423-R428), the start of a node (R107, R428,
R435), aging, periods, the deadline share, power classes, take-back (R431-R435), completion (R438) and the end of a launch's
tasks (R442). -/

namespace Sys2Proof.Machine

-- Time and charging (R416, R426).

/-- Add to USED of an RCB, which saturates. -/
def Ctx.charge (c : Ctx) (k us : Nat) : Ctx :=
  c.setRcb k 5 ((c.rcb k 5).put 63 32 (min ((c.rcb k 5).bits 63 32 + us) 0xFFFF_FFFF))

/-- One strand is charged for some µs, to every RCB of its node's chain that sets a budget, and to the deadline share. -/
def State.chargeStrand (s : State) (us : Nat) (t : Strand) : State :=
  match t.node with
  | none => s
  | some n =>
    if t.wait.isParked then s
    else
      let k := s.task n
      let s := s.modCtx k.ctx fun c => (c.charged k.chain).foldl (fun c r => c.charge r us) c
      if k.dl then { s with ks := { s.ks with dlUsed := s.ks.dlUsed + us } } else s

-- Rank (R423).

/-- Lexicographic order of keys. -/
def lexLt : List Nat → List Nat → Bool
  | [], [] => false
  | [], _ :: _ => true
  | _ :: _, [] => false
  | a :: as, b :: bs => decide (a < b) || (decide (a = b) && lexLt as bs)
/-- The first of a list under an order. -/
def pick {α : Type} (lt : α → α → Bool) : List α → Option α
  | [] => none
  | a :: as =>
    match pick lt as with
    | none => some a
    | some b => if lt b a then some b else some a
/-- A list in order, equal elements in their order of arrival. -/
def insertBy {α : Type} (lt : α → α → Bool) (a : α) : List α → List α
  | [] => [a]
  | b :: bs => if lt a b then a :: b :: bs else b :: insertBy lt a bs
def sortBy {α : Type} (lt : α → α → Bool) (l : List α) : List α := l.foldl (fun acc a => insertBy lt a acc) []

/-- The rank of a node: keys 1 to 5 of R423, the lower the higher. -/
def State.nodeRank (s : State) (t : Nat) : List Nat :=
  let k := s.task t
  if k.dl then [0, k.absDl, k.emissionNo, t] else [1, 15 - k.level, k.emissionNo, t]
def State.entryRank (s : State) (e : Entry) : List Nat := s.nodeRank e.task ++ [coreOfLc e.lcore]
def State.outranks (s : State) (a b : Entry) : Bool := lexLt (s.entryRank a) (s.entryRank b)

-- Queues (R427).

/-- The number of the queue of a level that an entry belongs to: its die, cluster, or physical core. -/
def State.queueKey (s : State) (lv : QLevel) (c : Nat) : Nat :=
  let l := s.lcore c
  match lv with
  | .keystone => 0
  | .die => l.die
  | .cluster => l.die * 4 + s.position c / 4
  | .core => l.die * 16 + l.pos
def QLevel.capacity : QLevel → Nat
  | .keystone => 0
  | .die => 256
  | .cluster => 64
  | .core => 16
def QLevel.up : QLevel → QLevel
  | .core => .cluster
  | .cluster => .die
  | _ => .keystone
/-- The entries of a queue, highest rank first. -/
def State.inQueue (s : State) (lv : QLevel) (key : Nat) : List Entry :=
  sortBy s.outranks (s.entries.filter fun e => decide (e.place = lv) && s.queueKey lv e.lcore == key)
def State.relocate (s : State) (es : List Entry) (lv : QLevel) : State :=
  { s with entries := s.entries.map fun e => if es.contains e then { e with place := lv } else e }
/-- The 8 lowest entries of a queue that would be overfilled by n more move up one level; `fuel` counts the levels. -/
def State.spill (s : State) : Nat → QLevel → Nat → Nat → State
  | 0, _, _, _ => s
  | fuel + 1, lv, c, n =>
    let q := s.inQueue lv (s.queueKey lv c)
    if lv = .keystone ∨ q.length + n ≤ QLevel.capacity lv then s
    else (s.spill fuel (QLevel.up lv) c 8).relocate (q.drop (q.length - 8)) (QLevel.up lv)
/-- A queue below its mark takes up to 8 of the highest-ranked entries for it from the level above. -/
def State.refill (s : State) (lv : QLevel) (mark key : Nat) : State :=
  if (s.inQueue lv key).length < mark then
    let above := sortBy s.outranks (s.entries.filter fun e =>
      decide (e.place = QLevel.up lv) && s.queueKey lv e.lcore == key)
    s.relocate (above.take 8) lv
  else s
/-- Every queue below its mark is refilled once (R427). -/
def State.refillAll (s : State) : State :=
  let keys : State → QLevel → List Nat := fun s lv => dedup (s.entries.map fun e => s.queueKey lv e.lcore)
  let s := (keys s .die).foldl (fun s k => s.refill .die 64 k) s
  let s := (keys s .cluster).foldl (fun s k => s.refill .cluster 16 k) s
  (keys s .core).foldl (fun s k => s.refill .core 4 k) s
/-- Refilling goes on while entries move; `fuel` bounds the rounds. -/
def State.refillOn : Nat → State → State
  | 0, s => s
  | fuel + 1, s =>
    let t := s.refillAll
    if t.entries = s.entries then s else State.refillOn fuel t
/-- QUEUE_MOVEMENT (R427): entries move toward the cores that host their logical cores, until no queue is below its mark for want of a
movement. -/
def State.moveEntries (s : State) : State := State.refillOn (3 * s.entries.length) s

-- Emission (R416, R422, R424, R426).

/-- No RCB that a node is charged to has spent its budget (R416). -/
def State.inBudget (s : State) (t : Nat) : Bool :=
  let k := s.task t
  let c := s.ctx k.ctx
  (c.charged k.chain).all fun r => decide ((c.rcb r 5).bits 63 32 < (c.rcb r 1).bits 63 32)
/-- Nodes that may be emitted. -/
def State.emittable (s : State) : List Nat :=
  (s.tasks.map Prod.fst).filter fun t =>
    let k := s.task t
    decide (k.st = .ready) && !k.emitted && decide ((s.ctx k.ctx).st = .running) && s.inBudget t
/-- Enabled cores of the package (R18). -/
def Die.nCores (d : Die) : Nat := ((List.range 16).filter fun i => d.cores.getLsbD i).length
def State.encores (s : State) : Nat := (s.pkg.dies.map fun e => if e.2.inService then e.2.nCores else 0).sum
/-- The deadline allowance of the window is not spent (R426): DLSHARE / 64 × 4 ENCORES × 100 strand-µs. -/
def State.dlOpen (s : State) : Bool := decide (s.ks.dlUsed * 64 < s.ks.dlShare * (4 * s.encores) * 100)

/-- An entry is placed, after the lowest of a core queue that it would overfill have moved up (R427). -/
def State.placeEntry (s : State) (e : Entry) : State :=
  let s := if e.place = .core then s.spill 3 .core e.lcore 1 else s
  { s with entries := s.entries ++ [e] }
/-- The Keystone emits a node: one entry for each participant (R422). -/
def State.emit (s : State) (t : Nat) (place : QLevel) : State :=
  let n := s.emission
  let es := (s.task t).parts.map fun p => (⟨t, mkLc (s.task t).ctx p.core, p.starts, n, place, none⟩ : Entry)
  es.foldl State.placeEntry { s.modTask t fun k => { k with emitted := true, emissionNo := n } with emission := n + 1 }

/-- The order in which nodes of one level are emitted (R424): the charging RCB with the lower USED / BUDGET, the lower RCB
index, then the oldest node; `tie` orders the contexts (log 48). -/
def State.emitBefore (s : State) (tie a b : Nat) : Bool :=
  let w : Nat → Nat × Nat × Nat := fun t =>
    let k := s.task t
    let c := s.ctx k.ctx
    let r := c.charging k.chain
    ((c.rcb r 5).bits 63 32, (c.rcb r 1).bits 63 32, r)
  let (ua, ba, ra) := w a
  let (ub, bb, rb) := w b
  decide (ua * bb < ub * ba) ||
    (decide (ua * bb = ub * ba) && lexLt [ra, ((s.task a).ctx + tie) % 2 ^ 16, (s.task a).readyAt, a] [rb, ((s.task b).ctx + tie) % 2 ^ 16, (s.task b).readyAt, b])

/-- ENTRY_EMISSION (R424, R426): of a level 0 to 11, or, named 15, the admission of the deadline class. -/
def execEntryEmission (level : Nat) (s : State) : Out :=
  if 11 < level ∧ level ≠ 15 then .fault .noSuchUnit
  else if !s.alive then .next s
  else if level = 15 then
    let due := s.emittable.filter fun t => (s.task t).dl
    match if s.dlOpen then pick (fun a b => lexLt [(s.task a).absDl, a] [(s.task b).absDl, b]) due else none with
    | none => .next s
    | some t => .next (s.emit t .core).moveEntries
  else
    let due := s.emittable.filter fun t => !(s.task t).dl && (s.task t).level == level
    let (tie, s) := s.draw
    match pick (s.emitBefore tie) due with
    | none => .next s
    | some t => .next (s.emit t .keystone).moveEntries

-- The start of a node (R107, R112, R119, R292, R293, R428, R435).

/-- PRIO at dispatch (R119). -/
def State.prioOf (s : State) (t : Nat) : Word :=
  let k := s.task t
  BitVec.ofNat 64 (s.tokens t * 256 + (if k.dl then 0x1F else k.level))
/-- STATUS of a strand that starts a node (R112). -/
def State.statusOf (s : State) (t k : Nat) : Word :=
  let x := s.task t
  let sup := (s.nodeWord x.ctx x.graph x.node 0).getLsbD 60
  BitVec.ofNat 64 (k * 2 ^ 13 + (if (s.ctx x.ctx).secure then 0x1000 else 0) + (if sup then 0x800 else 0)
    + (if x.versioned then 0x200 else 0))

/-- The subscriptions of a node begin on a logical core: every header word of each ring is emptied (R293). -/
def State.startSubs (s : State) (t c : Nat) : State :=
  let k := s.task t
  let s' := (List.range ((s.nodeWord k.ctx k.graph k.node 0).bits 55 53)).foldl (fun s i =>
    let (q, ctl) := s.subRecord k.ctx k.graph k.node i
    let kind := (ctl.getD 0 0).bits 63 62
    if kind = 0 then s
    else
      let u : Sub :=
        { loader := kind == 1, task := t, lcore := c, stream := q,
          cap := s.bufEntry k.ctx k.graph k.node ((ctl.getD 0 0).bits 59 56), ctl := ctl, next := 0, stopped := false }
      let s := (List.range u.nslots).foldl (fun s j => s.setLsFe c (u.slotOff j) false) s
      { s with subs := s.subs ++ [u] }) s
  if s'.subs.length = s.subs.length then s else s'.recount k.ctx
/-- The subscriptions of a task have begun on a logical core. -/
def State.subsBegun (s : State) (t c : Nat) : Bool := s.subs.any fun (u : Sub) => u.task == t && u.lcore == c

/-- Registers of a strand that starts a node from its entry (R107). -/
def State.freshStrand (s : State) (t k : Nat) : Strand :=
  let x := s.task t
  let args := (List.range 8).map fun i => s.nodeWord x.ctx x.graph x.node (6 + i)
  let caps := (List.range 16).map fun j => s.bufEntry x.ctx x.graph x.node j
  { s := Tab.setList 0 [] 1 args
    b := Tab.setList 0 [] 0 caps
    pc := BitVec.ofNat 64 (s.entryPoint x.ctx x.graph x.node ((s.ctx x.ctx).resolved x.graph x.node) * 8)
    status := s.statusOf t k
    prio := s.prioOf t
    node := some t
    startedAt := s.now }

/-- One start of an entry is made; an entry without starts left leaves the queue (R428). -/
def State.takeStart (s : State) (e : Entry) : State :=
  let es := s.entries.map fun f => if f = e then { f with starts := f.starts - 1 } else f
  { s with entries := es.filter fun f => f.starts != 0 }

/-- The first strand of a node to start takes the whole range (R429); a plain task is the range [0, 0] (R183). -/
def State.beginNode (s : State) (t core : Nat) : State :=
  let x := s.task t
  if x.begun then s
  else
    let w := s.nodeWord x.ctx x.graph x.node 3
    s.modTask t fun k =>
      { k.modPart core fun p => { p with next := w.bits 63 32, end_ := w.bits 31 0 } with begun := true, startedAt := s.now }

/-- Clean bytes of a range leave an L1 (R66). -/
def LCore.dropClean (l : LCore) (id off n : Nat) : LCore :=
  l.leave (l.l1.filter fun e =>
    decide (e.1 < byteKey id off) || decide (byteKey id off + n ≤ e.1) || (e.2.map fun b => b.dirty).getD false)

/-- Two logical cores are hosted by one physical core. -/
def State.samePlace (s : State) (a b : Nat) : Bool := (s.lcore a).die == (s.lcore b).die && (s.lcore a).pos == (s.lcore b).pos

/-- What orders the first instruction of a strand of logical core c on a node: a spawned child acquires (R52, R185); a dependant whose
source ran on another physical core sees the regions of its edges written back, and drops its clean copies of them (R65,
R66). -/
def State.startOrder (s : State) (t c : Nat) : State :=
  let x := s.task t
  if x.spawned then s.acquire c .pkg
  else (s.regions.filter fun r => r.ctx == x.ctx && r.graph == x.graph && r.node == x.node && !s.samePlace r.src c).foldl
    (fun s r => (s.writeBackRange r.src r.id r.off r.len).modLcore c fun l => l.dropClean r.id r.off r.len) s

/-- A strand of a logical core starts a node from its entry, on the machine `State.startOrder` gives. -/
def State.startNode (s : State) (e : Entry) (k : Nat) : State :=
  let core := coreOfLc e.lcore
  let s := if s.subsBegun e.task e.lcore then s else s.startSubs e.task e.lcore
  let s := s.beginNode e.task core
  let s := s.modTask e.task fun t =>
    { t.modPart core fun p => { p with starts := p.starts - 1, active := p.active + 1 } with st := .running }
  s.setStrand (mkStrand e.lcore k) (s.freshStrand e.task k)

/-- A strand taken from a checkpoint's entry continues where it stopped (R435); the Keystone writes PRIO (R119), whose level stays that at
which the strand started the node (R425). -/
def State.resumeStrand (s : State) (e : Entry) (k id : Nat) : State :=
  let t := s.saved.get {} id
  { s.setStrand (mkStrand e.lcore k) { t with status := t.status.put 15 13 k, prio := (s.prioOf e.task).put 4 0 (t.prio.bits 4 0) } with
    saved := s.saved.set {} id {} }

/-- A node waits to be dispatched: it is READY, or it is RUNNING with entries in the queues (R419, R425, R443). -/
def State.awaitsDispatch (s : State) (t : Nat) : Bool :=
  decide ((s.task t).st = .ready) || (decide ((s.task t).st = .running) && s.entries.any fun e => e.task == t)
/-- ENTRY_PROMOTION (R425): the entries of a node of level L below 11 that have stood longer than 100 µs × (12 - L); a node's entries
rise together (log 90). -/
def execEntryPromotion (t : Nat) (s : State) : Out :=
  let k := s.task t
  if s.awaitsDispatch t && !k.dl && decide (k.level < 11) && decide (100_000 * (12 - k.level) < s.now - k.promoAt) then
    .next (s.modTask t fun k => { k with level := k.level + 1, promoAt := s.now })
  else .next s

/-- PERIOD_START (R416): a period, counted from the restore, has begun; also one that a clock stepping back (R491) begins again. -/
def execPeriodStart (x : Nat) (s : State) : Out :=
  let c := s.ctx x
  let n := (s.now - c.restoredAt) / ((c.rcb 0 2).bits 63 32 * 1000)
  if c.st ≠ .absent ∧ c.st ≠ .restoring ∧ c.periodNo ≠ n then
    .next (s.setCtx x { c.newPeriod with periodNo := n })
  else .next s

/-- A switch becomes pending on a strand, with its drain threshold in µs (R416, R434). -/
def State.pendSwitch (s : State) (k : Nat) : State :=
  match (s.strand k).node with
  | none => s
  | some n => s.modStrand k fun t =>
      if t.switchPending then t
      else { t with switchPending := true, drainAt := some (s.now + (s.task n).drainThr * 1000) }

/-- BUDGET_EXHAUSTION (R416): switches become pending on the strands that run nodes charged to the RCB. -/
def execBudgetExhaustion (x r : Nat) (s : State) : Out :=
  let c := s.ctx x
  if s.alive && decide (c.st = .running) && decide ((c.rcb r 1).bits 63 32 ≤ (c.rcb r 5).bits 63 32) then
    .next ((s.strands.map Prod.fst).foldl (fun s k =>
      match (s.strand k).node with
      | some n => if (s.task n).ctx = x ∧ (c.charged (s.task n).chain).contains r then s.pendSwitch k else s
      | none => s) s)
  else .next s

/-- DLSHARE_WINDOW (R426): a 100 µs window of device time begins, also after a clock has stepped back (R491). -/
def execDlshareWindow (s : State) : Out :=
  let n := s.now / 100_000
  if s.ks.dlWindow ≠ n then .next { s with ks := { s.ks with dlWindow := n, dlUsed := 0 } } else .next s

/-- POWER_CLASS_SELECT (R35): each 1 ms, also after a clock has stepped back (R491); the change takes effect later. Every strand that holds a node counts as executing it, also while
it waits, is parked or stopped, or its logical core is switched out (log 88: R35 does not say). -/
def execPowerClassSelect (s : State) : Out :=
  let n := s.now / 1_000_000
  if n = s.pkg.powerTick then .next s
  else
    let count : Nat → Nat := fun p =>
      (s.strands.filter fun e => match e.2.node with
        | some t => (s.task t).power == p
        | none => false).length
    let mem := decide (count 1 < count 2)
    let pk := { s.pkg with powerTick := n }
    if mem = s.pkg.powerNext.getD s.pkg.powerMem then .next { s with pkg := pk }
    else .next { s with pkg := { pk with powerNext := some mem } }

/-- POWER_CLASS_TAKES_EFFECT (R35). -/
def execPowerClassTakesEffect (s : State) : Out :=
  match s.pkg.powerNext with
  | none => .next s
  | some m => .next { s with pkg := { s.pkg with powerMem := m, powerNext := none } }

-- Switching logical cores (R68, R289, R345, R346, R471).

/-- The logical cores bound to a physical core; those that it hosts, their contexts RUNNING; and the resident one, which stays so while its
context is RESTORING or FREEZING. -/
def State.boundTo (s : State) (die pos : Nat) : List Nat :=
  s.lcKeys.filter fun c => (s.lcore c).die == die && (s.lcore c).pos == pos
def State.hosted (s : State) (die pos : Nat) : List Nat :=
  (s.boundTo die pos).filter fun c => decide ((s.ctx (ctxOfLc c)).st = .running)
def State.residentOf (s : State) (die pos : Nat) : Option Nat := (s.boundTo die pos).find? fun c => (s.lcore c).resident

/-- Versioned tasks with a strand on a logical core. -/
def State.versionedOn (s : State) (c : Nat) : List Nat :=
  dedup ((List.range 4).filterMap fun k => (s.strand (mkStrand c k)).version)

/-- Every strand of a logical core stops at a boundary: waiting words are abandoned (R216). -/
def State.stopStrands (s : State) (c : Nat) : State := (List.range 5).foldl (fun s k => s.abandon (mkStrand c k)) s

/-- What a full fence of package scope on a logical core lets arrive (R55, R68): the fills that its strands have sent, and its packets,
but for one whose receiver has no room (log 119). -/
def State.settleCore (s : State) (c : Nat) : State :=
  let s := (s.unsent c).foldl (fun s p => (s.depart c p).getD s) s
  s.landFills fun f => lcOf f.src == c
/-- The outgoing side of a switch: versioned tasks are discarded (R289), words abandoned, the engines stopped, the L1 written
back and every line of it invalidated (R68); its record is in its backing area when the step ends (R473, State.layAreas). -/
def State.switchOut (s : State) (c : Nat) : State :=
  let s := (s.versionedOn c).foldl (fun s t => s.discardRun t) s
  let s := ((s.stopStrands c).stopEngines c).settleCore c
  (s.writeBackAll c).modLcore c fun l => { l with l1 := [], roc := [], wrote := [], handTo := none, resident := false, lastResident := s.now }

/-- FULL slots that a logical core holds: those of runs, and those that belong to no run any more (R334; log 127: the model's choice). -/
def LCore.runSlots (l : LCore) : Nat := (l.mx.slots.filter fun e => e.2.st == .full).length
/-- Slots of a cluster's array that its other residents leave free. -/
def State.freeSlots (s : State) (c : Nat) : Nat :=
  128 - ((((s.clusterOf c).filter (· != c)).map fun y => (s.lcore y).held).sum)
/-- Rebinding (R345): runs first; CLAIMED-EMPTY slots beyond the free ones, those of the highest virtual numbers (log 126: the model's
choice), are no longer held. -/
def LCore.rebind (l : LCore) (free : Nat) : LCore :=
  let keep := free - l.runSlots
  let claimed := (l.mx.slots.filter fun e => e.2.st == .claimed).drop keep
  { l with mx := { l.mx with slots := l.mx.slots.filter fun e => !(claimed.contains e) } }
/-- The incoming side: its slots are bound, and its turn begins. -/
def State.switchIn (s : State) (c : Nat) : State :=
  let free := s.freeSlots c
  s.modLcore c fun l => { l.rebind free with resident := true, turnStart := s.now }
/-- Pages of the backing area of a logical core (R470): 17, on a core with matrix queues 4 more, and one more for every 4 slots of runs
it saves. -/
def State.backingOf (s : State) (c : Nat) : Nat :=
  17 + if s.queuePresent c 1 then 4 + ceilDiv (s.lcore c).runSlots 4 else 0
/-- A pinned buffer comes to have n pages (R282, R470). -/
def State.resizeBuf (s : State) (id n : Nat) : State :=
  let k := (s.buf id).size / 65536
  let s := (List.range (k - n)).foldl (fun s i => s.freePage id (n + i)) s
  (s.modBuf id fun b => { b with size := n * 65536, resident := min b.resident n }).allocPages id true k (n - k)
/-- The backing area of a logical core takes the size that its runs need: pages of the backing buffer, counted in PAGESUSED (R416,
R470). -/
def State.growBacking (s : State) (c : Nat) : State :=
  let n := s.backingOf c
  let old := (s.lcore c).backing
  let x := ctxOfLc c
  let id := (s.ctx x).backBuf
  let s := s.modCtx x fun k => k.setRcb 0 5 ((k.rcb 0 5).put 31 0 ((k.rcb 0 5).bits 31 0 + n - old))
  (s.resizeBuf id ((s.buf id).size / 65536 + n - old)).modLcore c fun l => { l with backing := n }
/-- The backing area of a logical core can grow as far as its runs need (R416, R470). -/
def State.canSave (s : State) (c : Nat) : Bool :=
  let x := s.ctx (ctxOfLc c)
  let more := s.backingOf c - (s.lcore c).backing
  more == 0 || (decide (more ≤ s.framesLeft) && decide ((x.rcb 0 5).bits 31 0 + more ≤ (x.rcb 0 1).bits 31 0))
/-- The runs of a logical core can be bound, with the slots that the outgoing one frees, and the outgoing one's can be saved (R345, R346,
R470). -/
def State.canSwitchIn (s : State) (out : Option Nat) (c : Nat) : Bool :=
  decide ((s.lcore c).runSlots ≤ s.freeSlots c + (match out with
    | some o => (s.lcore o).held
    | none => 0)) && (match out with
    | some o => s.canSave o
    | none => true)

/-- The rank of a packet at a logical core (R471): that of the highest-ranked node its task strands hold. -/
def State.packetRank (s : State) (c : Nat) : List Nat :=
  (pick lexLt (((List.range 4).filterMap fun k => (s.strand (mkStrand c k)).node).map s.nodeRank)).getD [1, 15]
/-- The ready entries and ready strands of a logical core, as ranks (R471); a handler at work ranks as its packet. -/
def State.readyRanks (s : State) (c : Nat) : List (List Nat) :=
  let es := (s.entries.filter fun e => e.lcore == c).map fun e => s.nodeRank e.task
  let ready := (List.range 4).filterMap fun k =>
    let t := s.strand (mkStrand c k)
    if t.wait = .none ∧ !t.stopped then t.node else none
  let h := s.strand (mkStrand c 4)
  es ++ ready.map s.nodeRank ++ (if h.active && decide (h.wait = .none) && !h.stopped then [s.packetRank c] else [])
/-- The work of a logical core (R471): what is ready, and a waiting packet. -/
def State.workRanks (s : State) (c : Nat) : List (List Nat) :=
  let h := s.strand (mkStrand c 4)
  s.readyRanks c ++
    (if (s.lcore c).handler.getLsbD 0 && !h.active && !h.stopped && decide ((s.lcore c).window ≠ []) then [s.packetRank c] else [])

/-- A strand that is idle, parked in memory or in the core, or parked in a barw wait (R471). -/
def State.restful (s : State) (k : Nat) : Bool :=
  let t := s.strand k
  t.node.isNone || t.stopped || t.wait.isParked

/-- A turn (R471): 500 µs, or 2,000 µs in a deadline-class context. -/
def State.turnOver (s : State) (c : Nat) : Bool :=
  let dl := ((s.ctx (ctxOfLc c)).rcb 0 3).getLsbD 4
  decide ((if dl then 2_000_000 else 500_000) ≤ s.now - (s.lcore c).turnStart)

/-- The next resident (R471): the hosted logical core with work longest since resident, then the highest-ranked work, then
the next in turn after the outgoing one. -/
def State.nextResident (s : State) (die pos : Nat) (out : Option Nat) : Option Nat :=
  let n := 2 ^ 16 * 320
  let last : Nat → Nat := fun c => max (s.lcore c).lastResident (s.ctx (ctxOfLc c)).restoredAt
  let key : Nat → List Nat := fun c =>
    last c :: (pick lexLt (s.workRanks c)).getD [] ++ [coreOfLc c, (c + n - out.getD 0 - 1) % n]
  pick (fun a b => lexLt (key a) (key b))
    ((s.hosted die pos).filter fun c => decide (some c ≠ out) && decide (s.workRanks c ≠ []) && s.canSwitchIn out c)

/-- The core changes hands. -/
def State.switchTo (s : State) (out : Option Nat) (c : Nat) : State :=
  let s := match out with
    | some o => (s.growBacking o).switchOut o
    | none => s
  s.switchIn c

/-- LOGICAL_CORE_SWITCH (R471): at the end of a turn, when another hosted logical core has something ready, or when the resident's
strands are all idle or parked. -/
def execLogicalCoreSwitch (die pos : Nat) (s : State) : Out :=
  if 31 < die ∨ 15 < pos then .fault .noSuchUnit
  else if !s.alive then .next s
  else
    let out := s.residentOf die pos
    let due := match out with
      | none => true
      | some o => (s.turnOver o && (s.hosted die pos).any fun c => decide (c ≠ o) && decide (s.readyRanks c ≠ []))
          || (List.range 4).all fun k => s.restful (mkStrand o k)
    match if due then s.nextResident die pos out else none with
    | none => .next s
    | some c => .next (s.switchTo out c)

-- Take-back (R431-R435).

/-- The head of a core queue. -/
def State.coreHead (s : State) (die pos : Nat) : Option Entry :=
  pick s.outranks (s.entries.filter fun e =>
    decide (e.place = .core) && (s.lcore e.lcore).die == die && (s.lcore e.lcore).pos == pos)

/-- One token of a node's charging RCB is spent (R417). -/
def State.spendToken (s : State) (t : Nat) : State :=
  let k := s.task t
  s.modCtx k.ctx fun c =>
    let r := c.charging k.chain
    c.setRcb r 6 ((c.rcb r 6).put 63 56 ((c.rcb r 6).bits 63 56 - 1))

/-- The policy of R432 on the victim strand k, for a newcomer. Within a logical-core switch a versioned task is discarded with
no record (R289). -/
def State.applyPolicy (s : State) (newcomer k : Nat) (switching : Bool) : State :=
  match (s.strand k).node with
  | none => s
  | some n =>
    let x := s.task n
    let held := s.now - (s.strand k).startedAt
    if x.versioned && !x.noKill then
      let s := (s.discardRun n).stopArrays (lcOf k)
      if switching then s
      else s.logFault n 0x04 (coreOfLc (lcOf k)) (s.task newcomer).ident
    else if !(s.task newcomer).dl && decide (x.est * 1000 - held < x.drainThr * 1000) then
      (s.pendSwitch k).modStrand k fun t => { t with drainFor := some newcomer }
    else s.saveStrand k

/-- The task strands that take-back may choose (R431): of those that drain for an earlier take-back, only for a deadline-class newcomer,
which does not wait for them (log 91). -/
def State.victims (s : State) (dl : Bool) (c : Nat) : List Nat :=
  ((List.range 4).map fun k => mkStrand c k).filter fun k =>
    !(s.strand k).stopped && (dl || (s.strand k).drainFor.isNone) && match (s.strand k).node with
      | some n => decide ((s.task n).st = .running)
      | none => false
/-- The order of victims (R431): the lowest rank, the node started most recently, the higher strand number. -/
def State.victimFirst (s : State) (a b : Nat) : Bool :=
  let r : Nat → List Nat := fun k => s.nodeRank ((s.strand k).node.getD 0)
  lexLt (r b) (r a) || (decide (r a = r b) &&
    lexLt [(s.task ((s.strand b).node.getD 0)).startedAt, b] [(s.task ((s.strand a).node.getD 0)).startedAt, a])

/-- A task strand of a logical core is yet to be taken. -/
def State.draining (s : State) (c : Nat) : Bool := (List.range 4).any fun k => (s.strand (mkStrand c k)).switchPending

/-- A strand of a logical core drains for a newcomer already. -/
def State.drainsFor (s : State) (c t : Nat) : Bool := (List.range 4).any fun k => (s.strand (mkStrand c k)).drainFor == some t

/-- The rest of a take-back that a logical-core switch ends: once no strand drains, the core changes hands; the promise lapses when the
logical core it was made to cannot run there any more (R431). -/
def State.handOver (s : State) (die pos c d : Nat) : State :=
  if !((s.hosted die pos).contains d && s.canSwitchIn (some c) d) then s.modLcore c fun l => { l with handTo := none }
  else if s.draining c then s
  else s.switchTo (some c) d

/-- A take-back begins for an entry on the core that logical core c holds (R431): no task strand is idle, the entry outranks the node of
one that it may take, its own take-back is not under way, and a token is held. -/
def State.takesBack (s : State) (c : Nat) (e : Entry) : Bool :=
  let dl := (s.task e.task).dl
  let idle := (List.range 4).any fun k => (s.strand (mkStrand c k)).node.isNone && !(s.strand (mkStrand c k)).stopped
  let beaten := (s.victims dl c).any fun k => lexLt (s.nodeRank e.task) (s.nodeRank ((s.strand k).node.getD 0))
  !idle && beaten && !(s.drainsFor c e.task && !dl) && s.tokens e.task != 0
/-- TAKE_BACK (R431): the head of a core queue outranks a running node, no task strand is idle, and a token is held; else the switch
that a take-back asked for goes on. A take-back for an entry of the resident logical core ends the promise of a switch. -/
def execTakeBack (die pos : Nat) (s : State) : Out :=
  if 31 < die ∨ 15 < pos then .fault .noSuchUnit
  else if !s.alive then .next s
  else match s.residentOf die pos with
    | none => .next s
    | some c =>
      match (s.coreHead die pos).filter (s.takesBack c), (s.lcore c).handTo with
      | none, none => .next s
      | none, some d => .next (s.handOver die pos c d)
      | some e, hand =>
        let vs := s.victims (s.task e.task).dl c
        if e.lcore = c then
          match pick s.victimFirst vs with
          | none => .next s
          | some v =>
            let s := if hand.isNone then s else s.modLcore c fun l => { l with handTo := none }
            .next ((s.spendToken e.task).applyPolicy e.task v false)
        else if !s.canSwitchIn (some c) e.lcore then .next s
        else
          let s := vs.foldl (fun s k => s.applyPolicy e.task k true) (s.spendToken e.task)
          .next ((s.modLcore c fun l => { l with handTo := some e.lcore }).handOver die pos c e.lcore)

/-- DRAIN_TIMEOUT (R416, R434): a strand not taken within DRAINTHR is checkpointed. -/
def execDrainTimeout (c k : Nat) (s : State) : Out :=
  if 3 < k then .fault .noSuchUnit
  else
    let j := mkStrand c k
    match (s.strand j).drainAt with
    | some d => if s.alive && (s.strand j).switchPending && decide (d ≤ s.now) then .next (s.saveStrand j) else .next s
    | none => .next s

-- Completion (R65, R66, R184, R281, R288, R297, R438).

/-- R184 and R297: every start made, no strand on the node, every storer finished. -/
def State.complete (s : State) (t : Nat) : Bool :=
  let k := s.task t
  decide (k.st = .running) && k.parts.all (fun p => p.starts == 0 && p.active == 0)
    && !(s.entries.any fun e => e.task == t)
    && (s.subs.all fun (u : Sub) => u.task != t || u.loader || decide (u.ntiles ≤ u.next))

/-- The written bytes of a version, as writes. -/
def written (v : Tab (Option Byte)) : List (Nat × Byte) := v.filterMap fun e => e.2.map fun b => (e.1, b)

/-- COMMIT (R67, R288, R289): local-store bytes merge, the cores release at package scope, device bytes arrive at their homes and the
words leave the cores' L1s (R46, R57), the held packets leave and the children become ready. -/
def State.commit (s : State) (t : Nat) : State :=
  let k := s.task t
  let s := (written k.ver.ls).foldl (fun s e => s.modLcore (e.1 / lsSize) fun l => l.setLs (e.1 % lsSize) [e.2]) s
  let s := k.parts.foldl (fun s p => s.release (mkLc k.ctx p.core) .pkg) s
  let s := (written k.ver.dev).foldl (fun s e =>
    let (id, off) := (e.1 / 2 ^ 40, e.1 % 2 ^ 40)
    k.parts.foldl (fun s p => s.modLcore (mkLc k.ctx p.core) fun l => (l.dropRange id (off / 8 * 8) 8).ordinary [byteKey id off / 64])
      (s.fwSet id off [e.2])) s
  let s := s.modCtx k.ctx fun c => { c with inFlight := c.inFlight ++ k.ver.packets }
  let s := k.ver.spawns.foldl (fun s u => s.readyTask u) s
  s.modTask t fun k => { k with ver := {} }

/-- One region of an edge from a completed node: the write-back of the source's cores is due when the dependant starts, or later (R65,
R66, R438). -/
def State.region (s : State) (x g src dst : Nat) (w0 w1 : Word) : State :=
  let cap := s.bufEntry x g src (w1.bits 63 60)
  { s with regions := s.regions ++ (s.placed x g src).map fun c =>
      ⟨x, g, dst, mkLc x c, cap.id, cap.base + w0.toNat, w1.bits 39 0⟩ }
/-- A dependant completes: what is left of the write-backs of its regions is made (R66). -/
def State.closeRegions (s : State) (x g n : Nat) : State :=
  let own : Region → Bool := fun r => r.ctx == x && r.graph == g && r.node == n
  (s.regions.filter own).foldl (fun s r => s.writeBackRange r.src r.id r.off r.len)
    { s with regions := s.regions.filter fun r => !own r }

/-- GEN increases (R279): read-only-cacheable lines leave every L1; a record that would pass 0xFFFF is retired, and no
capability matches it again. -/
def State.bumpGen (s : State) (id : Nat) : State :=
  (s.modBuf id fun b => { b with gen := b.gen + 1, retired := b.retired || decide (0xFFFF ≤ b.gen) }).dropRoc id

/-- A node some task of which has been dispatched. -/
def State.dispatched (s : State) (x g n : Nat) : Bool :=
  (s.tasksOf x).any fun t =>
    let k := s.task t
    k.graph == g && k.node == n && k.st != .waiting && k.st != .ready

/-- CAPABILITY_TRANSFER (R281) by edge i of a node. -/
def State.transfer (s : State) (x g n i : Nat) : State :=
  let w := s.edgeWord x g n i
  let dst := w.bits 63 48
  let src := s.bufEntry x g n (w.bits 47 44)
  let old := s.bufEntry x g dst (w.bits 43 40)
  let s := s.bumpGen src.id
  let gen := (s.buf src.id).gen
  let (len, base) := if old = 0 then (src.length, src.base) else (old.length, old.base)
  let s := (List.range (s.ctx x).graphs.length).foldl (fun s h =>
    (List.range (s.nnodes x h)).foldl (fun s m =>
      (List.range (s.nbuf x h m)).foldl (fun s j =>
        let c := s.bufEntry x h m j
        if c ≠ 0 ∧ c.id = src.id ∧ !s.dispatched x h m
        then s.setBufEntry x h m j (Cap.make c.id gen (c.rights &&& 0x8F) c.length c.base) else s) s) s) s
  s.setBufEntry x g dst (w.bits 43 40) (Cap.make src.id gen src.rights len base)

/-- An in-edge of a waiting node is satisfied (R420). -/
def State.satisfy (s : State) (x g dst : Nat) : State :=
  match (s.tasksOf x).find? fun t =>
      let k := s.task t
      k.graph == g && k.node == dst && !k.spawned && decide (k.st = .waiting) with
  | none => s
  | some t =>
    let s := s.modTask t fun k => { k with pending := k.pending - 1 }
    if (s.task t).pending = 0 then s.readyTask t else s

/-- Every edge of a node, in order. -/
def State.overEdges (s : State) (x g n : Nat) (f : State → Nat → Word → State) : State :=
  (List.range (s.nout x g n)).foldl (fun s i => f s i (s.edgeWord x g n i)) s

/-- NODE_COMPLETION (R438): the deferred write-backs of its own regions, commit, those of its edges due, transfers, DONE, the pending counts; a late deadline node is reported (R441). -/
def execNodeCompletion (t : Nat) (s : State) : Out :=
  if !(s.alive && s.complete t) then .next s
  else
    let k := s.task t
    let (x, g, n) := (k.ctx, k.graph, k.node)
    let s := if k.spawned then s else s.closeRegions x g n
    let s := if k.versioned then s.commit t else s
    let s := if k.spawned then s else s.overEdges x g n fun s _ w =>
      (List.range (w.bits 36 32)).foldl (fun s r =>
        let o := w.bits 31 0 + 16 * r
        s.region x g n (w.bits 63 48) (s.graphWord x g o) (s.graphWord x g (o + 8))) s
    let s := if k.spawned then s else s.overEdges x g n fun s i w => if w.getLsbD 39 then s.transfer x g n i else s
    let s := { s.modTask t fun k => { k with st := .done, parts := k.parts.map fun p => { p with next := 1, end_ := 0 } } with
      subs := s.subs.filter fun (u : Sub) => u.task != t }
    let s := if k.dl && decide (k.absDl < s.now)
      then s.logFault t 0x07 k.lastDone (min ((s.now - k.absDl) / 1000) 0xFFFF_FFFF) else s
    .next ((if k.spawned then s else s.overEdges x g n fun s _ w => s.satisfy x g (w.bits 63 48)).recount x)

end Sys2Proof.Machine
end

