-- ==== Sys2Proof/Machine/Packets.lean ====
section
/-! DEFINITION. Command processors: queue records (R448), hardware slots and slices (R449, R453), doorbells (R450), the reading,
checking and completion of packets (R451, R452, R454, R455), MSI-X (R486), and the packets that act on queues and buffers. -/

namespace Sys2Proof.Machine

def State.qrec (s : State) (q : Nat) : QRec := s.ks.qrecs.get {} q
def State.setQrec (s : State) (q : Nat) (x : QRec) : State := { s with ks := { s.ks with qrecs := s.ks.qrecs.set {} q x } }
def State.modQrec (s : State) (q : Nat) (f : QRec → QRec) : State := s.setQrec q (f (s.qrec q))
/-- Distances between indices run modulo 2^32 (R448). -/
def idxDist (a b : Nat) : Nat := (a + 2 ^ 32 - b) % 2 ^ 32

-- Firmware accesses (R451, R455).

/-- A bounded capability of the firmware: buffer, generation, function, world, rights, range, and pages allocated. -/
def State.fwOk (s : State) (func : Nat) (sec : Bool) (id gen off n rights : Nat) : Bool :=
  let b := s.buf id
  b.valid && !b.freeing && b.gen == gen && b.context / 2048 == func && (!b.secure || sec)
    && b.maxRights &&& rights == rights && decide (off + n ≤ b.size)
    && (b.host || n == 0 || (List.range ((off + n - 1) / 65536 + 1 - off / 65536)).all fun i =>
        pageValid (s.page id ((off / 65536 + i) * 65536)))
def rightR : Nat := 0x80
def rightW : Nat := 0x40
def rightF : Nat := 0x20
def rightA : Nat := 0x10

/-- The pages of some ranges of buffers are brought in, each under the limits of R416; none when one cannot be (R455). A range is a
buffer, its generation, an offset and a length, and counts only when the function may reach it. -/
def State.fwIn (s : State) (func : Nat) (sec : Bool) (rs : List (Nat × Nat × Nat × Nat)) : Option State :=
  rs.foldl (fun acc r =>
    let (id, gen, off, n) := r
    acc.bind fun s =>
      if (s.buf id).host || n == 0 || !s.fwOk func sec id gen off n 0 then some s
      else (List.range ((off + n - 1) / 65536 + 1 - off / 65536)).foldl (fun acc i =>
        acc.bind fun s =>
          let page := off / 65536 + i
          if pageRes (s.page id (page * 65536)) then some s
          else if s.pageRoom id [] then some (s.pageIn id page []) else none) (some s)) (some s)
/-- A firmware write of a word. -/
def State.fwSetWord (s : State) (id off v : Nat) : State := s.fwSet id off (leBytes 8 v)
/-- An unconditional fill; host words have no full/empty bit. -/
def State.fwFill (s : State) (id off v : Nat) : State :=
  let s := s.fwSetWord id off v
  if (s.buf id).host then s else s.setFeAt id off true
def State.fwPoison (s : State) (id off n : Nat) : Bool :=
  if (s.buf id).host then
    (List.range n).any fun i => s.hostPoison.get false (s.fwHost id (off + i) / 32)
  else (s.poisonIn id off n).isSome

-- Buffer IDs and physical pages.

/-- The IDs of the Keystone's own buffers (R499, R501, R505). -/
def logBuf : Nat := 0xFF_FFFF
def dumpBuf : Nat := 0xFF_FFFE
def attestBuf : Nat := 0xFF_FFFD
def State.idFree (s : State) (i : Nat) : Bool := !(s.buf i).valid && !(s.buf i).retired && decide (0 < i) && decide (i < attestBuf)
def State.lowId (s : State) (n : Nat) : Nat → Option Nat
  | 0 => none
  | f + 1 => if s.idFree n then some n else s.lowId (n + 1) f
/-- A fresh buffer ID: the free value's choice when that ID is free, else the lowest free one (log 11). -/
def State.freshId (s : State) : Option Nat × State :=
  let (r, s') := s.draw
  let r := r % 2 ^ 24
  (if s.idFree r then some r else s.lowId 1 (2 ^ 24), s')
/-- The end of a buffer (R279, R280): FREEING, the pages go, GEN increases, VALID clears. -/
def State.freeBuffer (s : State) (id : Nat) : State :=
  let b := s.buf id
  let s := s.modBuf id fun b => { b with freeing := true }
  let s := if b.host then s else (List.range (b.size / 65536)).foldl (fun s i => s.freePage id i) s
  (s.bumpGen id).modBuf id fun b => { gen := b.gen, retired := b.retired }
/-- References to some buffers have gone: REFCNT of each follows, and at 0 the buffer ends (R280), and with it the references of the
images that it holds; the number of buffers bounds the rounds. -/
def State.dropRefs : Nat → State → List Nat → State
  | 0, s, _ => s
  | n + 1, s, ids => ids.foldl (fun s id =>
      let s := s.modBuf id fun b => { b with refCnt := s.refCount id }
      if (s.buf id).valid ∧ (s.buf id).refCnt = 0 then State.dropRefs n (s.freeBuffer id) ((s.buf id).images.flatMap Prod.snd)
      else s) s
/-- A reference to a buffer has gone (R280). -/
def State.dropRef (s : State) (id : Nat) : State := State.dropRefs (s.bufs.length + 1) s [id]
/-- A context image stands in a buffer from an offset on, in the place of one that stood there: the copies that it holds count (R280). -/
def State.keepImage (s : State) (id off : Nat) (names : List Nat) : State :=
  let old := ((s.buf id).images.filter fun e => e.1 == off).flatMap Prod.snd
  let s := s.modBuf id fun b => { b with images := b.images.filter (fun e => e.1 != off) ++ [(off, names)] }
  (names ++ old).foldl (fun s b => s.dropRef b) s

-- MSI-X (R486).

/-- Number of a function of an Abutment. -/
def fnKey (abut fn : Nat) : Nat := abut * 32 + fn
/-- Word 1 of an MSI-X entry: message data and the mask bit, which is 1 at reset (log 17). -/
def msixMasked : Word := 0x1_0000_0000
/-- A message of one endpoint: sent, or pending while its vector is masked. -/
def State.msixOn (s : State) (abut fn vec : Nat) : State :=
  let j := fnKey abut fn * 256 + vec
  if (s.io.msixData.get msixMasked j).getLsbD 32 then
    let k := fnKey abut fn * 4 + vec / 64
    { s with io := { s.io with pba := s.io.pba.set 0 k (s.io.pba.get 0 k ||| BitVec.ofNat 64 (2 ^ (vec % 64))) } }
  else { s with ks := { s.ks with msix := s.ks.msix ++ [(fnKey abut fn, vec)] } }
/-- MSI-X of a function, through both Abutments (log 17). -/
def State.sendMsix (s : State) (fn vec : Nat) : State := (s.msixOn 1 fn vec).msixOn 2 fn vec

-- Posted writes (R70, R488).

/-- A posted write takes its number at its Abutment. -/
def State.posted (s : State) (abut : Nat) : State :=
  { s with io := { s.io with posted := s.io.posted.set 0 abut (s.io.posted.get 0 abut + 1) } }
/-- A register write whose event names no Abutment came through one of the two; which is open (log 97). -/
def State.postedAny (s : State) : State :=
  if s.pkg.dead then s else s.draw.2.posted (1 + s.draw.1 % 2)

-- Packets (R451, R454).

def pkt (p : List Word) (i : Nat) : Word := p.getD i 0
def pktOp (p : List Word) : Nat := (pkt p 0).bits 63 56
def pktBar (p : List Word) : Bool := (pkt p 0).getLsbD 55
def sigMode (p : List Word) : Nat := (pkt p 0).bits 54 52
/-- The common fields are out of range (R451, R455). -/
def sigBad (p : List Word) : Bool :=
  decide (4 < sigMode p) || (pkt p 0).bits 51 40 != 0
    || (sigMode p == 0 && !(pkt p 1 == 0 && pkt p 2 == 0 && pkt p 3 == 0))
    || (pkt p 1).bits 23 0 != 0 || (pkt p 2).bits 2 0 != 0
/-- Buffer ID and generation of a word that names a buffer. -/
def refId (w : Word) : Nat := w.bits 63 40
def refGen (w : Word) : Nat := w.bits 39 24

def QRec.slotOf (q : QRec) (i : Nat) : Nat := i % 2 ^ q.rsize
def QRec.packetOff (q : QRec) (i : Nat) : Nat := q.ringOff + 64 * q.slotOf i
def QRec.entryOff (q : QRec) (j : Nat) : Nat := q.ringOff + 64 * 2 ^ q.rsize + 16 * q.slotOf j

/-- Packet i of a queue, when its ring can be read (R455). -/
def State.packetAt (s : State) (q : QRec) (i : Nat) : Option (List Word) :=
  if s.fwOk q.func q.secure q.ringId q.ringGen (q.packetOff i) 64 rightR && !s.fwPoison q.ringId (q.packetOff i) 64 then
    some ((List.range 8).map fun j => s.fwWord q.ringId (q.packetOff i + 8 * j))
  else none
/-- The page of packet i of a queue is brought in. -/
def State.ringIn (s : State) (q : QRec) (i : Nat) : Option State :=
  s.fwIn q.func q.secure [(q.ringId, q.ringGen, q.packetOff i, 64)]
/-- The image that lies in the buffer a word names, from an offset on: as long as its header says, which is 4,096 bytes at least (R462). -/
def State.imageRef (s : State) (r : Word) (off : Nat) : Nat × Nat × Nat × Nat :=
  (refId r, refGen r, off, max 4096 (s.fwNat (refId r) (off + 24) 8))
/-- The context that a FREEZE names (R460). -/
def freezeCtx (q : QRec) (p : List Word) : Nat := q.func * 2048 + (pkt p 4).bits 10 0
/-- What the completion of a packet writes (R454): its completion entry, and its signal word. -/
def QRec.endRefs (q : QRec) (p : List Word) : List (Nat × Nat × Nat × Nat) :=
  (q.ringId, q.ringGen, q.entryOff q.cqptr, 16) ::
    if sigMode p = 0 || sigBad p then [] else [(refId (pkt p 1), refGen (pkt p 1), (pkt p 2).toNat, 8)]
/-- The ranges a step of a packet reaches (R451): what its completion writes, and the words, records and images it names. A
LAUNCH_IMAGE reads its images at its first step, a FREEZE writes its own at its last; at step 0 only the completion is left. -/
def State.packetRefs (s : State) (q : QRec) (step : Nat) (p : List Word) : List (Nat × Nat × Nat × Nat) :=
  q.endRefs p ++
    match pktOp p, step with
    | _, 0 => []
    | 0x03, _ | 0x04, _ => [(refId (pkt p 4), refGen (pkt p 4), (pkt p 5).toNat, 8)]
    | 0x23, _ => [(refId (pkt p 5), refGen (pkt p 5), (pkt p 6).toNat, 64)]
    | 0x01, 1 =>
      let n := (pkt p 7).bits 63 60
      let at_ : Nat → Nat := fun j => (pkt p 6).toNat + 16 * j
      s.imageRef (pkt p 4) (pkt p 5).toNat :: (refId (pkt p 4), refGen (pkt p 4), at_ 0, 16 * n) ::
        (List.range n).map fun j => s.imageRef (s.fwWord (refId (pkt p 4)) (at_ j)) (s.fwWord (refId (pkt p 4)) (at_ j + 8)).toNat
    | 0x02, 4 => [(refId (pkt p 5), refGen (pkt p 5), (pkt p 6).toNat, (s.ctx (freezeCtx q p)).imageLen)]
    | _, _ => []
/-- The pages a step of a packet reaches are brought in; none while one cannot be, and the packet waits (R455). -/
def State.packetIn (s : State) (q : QRec) (step : Nat) (p : List Word) : Option State :=
  s.fwIn q.func q.secure (s.packetRefs q step p)

/-- Rights the signal needs (R203, R451). -/
def sigRights (p : List Word) : Nat :=
  match sigMode p with
  | 1 => rightW
  | 3 => rightR ||| rightW ||| rightA
  | _ => rightW ||| rightF
def State.sigOk (s : State) (q : QRec) (p : List Word) : Bool :=
  sigMode p == 0 || s.fwOk q.func q.secure (refId (pkt p 1)) (refGen (pkt p 1)) (pkt p 2).toNat 8 (sigRights p)
/-- The signal of a packet (R451, R454). -/
def State.signal (s : State) (q : QRec) (p : List Word) : State :=
  let (id, off, v) := (refId (pkt p 1), (pkt p 2).toNat, (pkt p 3).toNat)
  match sigMode p with
  | 1 => s.fwSetWord id off v
  | 2 => s.fwFill id off v
  | 3 => s.fwSetWord id off ((s.fwWord id off - 1).toNat)
  | 4 => (s.fwFill id off v).sendMsix q.func ((pkt p 0).bits 39 32)
  | _ => s

/-- A queue enters ERROR at packet i (R448, R450, R455). -/
def State.queueError (s : State) (qid i stat : Nat) : State :=
  s.modQrec qid fun q => { q with st := 3, errStat := stat, errIdx := i }

/-- CPTR advances over completed packets (R452). -/
def QRec.sweep (q : QRec) : Nat → QRec
  | 0 => q
  | n + 1 =>
    if q.doneMask.getLsbD 0 then
      QRec.sweep { q with cptr := (q.cptr + 1) % 2 ^ 32, doneMask := q.doneMask >>> 1, steps := q.steps >>> 8 } n
    else q
def QRec.finish (q : QRec) (i : Nat) : QRec :=
  let d := idxDist i q.cptr
  let q := { q with cqptr := (q.cqptr + 1) % 2 ^ 32, waits := q.waits.set 0 i 0, owed := q.owed.set 0 i 0 }
  QRec.sweep (if d < 8 then { q with doneMask := q.doneMask ||| BitVec.ofNat 8 (2 ^ d) } else q) 8
/-- The step index of a started packet. -/
def QRec.setStep (q : QRec) (i n : Nat) : QRec :=
  let d := idxDist i q.cptr
  if d < 8 then { q with steps := q.steps.put (8 * d + 7) (8 * d) n } else q
def QRec.stepOf (q : QRec) (i : Nat) : Nat :=
  let d := idxDist i q.cptr
  if d < 8 then q.steps.bits (8 * d + 7) (8 * d) else 0
/-- The step at which a packet goes on; 0 when all that is left is its completion with a status that it is owed (R455). -/
def QRec.dueStep (q : QRec) (i : Nat) : Nat := if q.owed.get 0 i = 0 then q.stepOf i else 0

/-- DETAIL: SEQ for a FREEZE that is DONE (R460), the index of the word in bits 7:0 for CAPABILITY (R455); the other bits are open
(log 54). -/
def detailOf (status op detail free : Nat) : Nat :=
  if status = 0 ∧ op = 0x02 then detail % 2 ^ 24
  else if status = 0x11 then free % 2 ^ 16 * 256 + detail % 256
  else free % 2 ^ 24
/-- The word that a signal's capability fails at: its name, or its offset when only the range fails (R455). -/
def State.sigWord (s : State) (p : List Word) : Nat :=
  let b := s.buf (refId (pkt p 1))
  if b.gen = refGen (pkt p 1) ∧ b.size < (pkt p 2).toNat + 8 then 2 else 1
/-- PACKET_COMPLETION (R454): the signal, then the completion entry, word 1 before word 0, then CQPTR and DONEMASK. A signal that the
firmware may not write makes the status CAPABILITY (R455). -/
def State.completePacket (s : State) (qid i : Nat) (p : List Word) (status detail value : Nat) : State :=
  let q := s.qrec qid
  let stale := !sigBad p && !s.sigOk q p && status != 0x10 && status != 0x11
  let (status, detail, value) := if stale then (0x11, s.sigWord p, 0) else (status, detail, value)
  let s := if !sigBad p && s.sigOk q p then s.signal q p else s
  if !s.fwOk q.func q.secure q.ringId q.ringGen (q.entryOff q.cqptr) 16 rightW then s.queueError qid i 0x11
  else
    let o := q.entryOff q.cqptr
    let (r, s) := s.draw
    let s := s.fwSetWord q.ringId (o + 8) (status * 2 ^ 56 + detailOf status (pktOp p) detail r * 2 ^ 32 + value % 2 ^ 32)
    let s := s.fwSetWord q.ringId o (i * 2 ^ 32 + (pkt p 0).bits 31 0)
    s.modQrec qid fun q => q.finish i

/-- STATUS and DETAIL are owed to packet i of a queue (R455): its completion is all that is left of it. -/
def State.owe (s : State) (qid i status detail : Nat) : State :=
  s.modQrec qid fun q => { q with owed := q.owed.set 0 i (status + 1 + 256 * detail) }
/-- What a packet's steps come to: a waiting step whose condition does not hold, or completion with STATUS, DETAIL and VALUE. -/
inductive PacketRes where
  | wait (s : State) (step : Nat)
  | done (s : State) (status : Nat) (detail : Nat := 0) (value : Nat := 0)
  deriving DecidableEq, Repr

def badPacket (s : State) : PacketRes := .done s 0x10
def badCap (s : State) (word : Nat) : PacketRes := .done s 0x11 word

-- Hardware slots (R449) and slices (R453).

def State.mapped (s : State) (h : Nat) : Option Nat := s.ks.hwSlots.get none h
def State.hwSlotOf (s : State) (qid : Nat) : Option Nat := (List.range 64).find? fun h => s.mapped h == some qid
def State.setHw (s : State) (h : Nat) (q : Option Nat) : State := { s with ks := { s.ks with hwSlots := s.ks.hwSlots.set none h q } }
/-- Another queue takes a slot: the slice of the one before it is over (R453). -/
def State.remap (s : State) (h qid : Nat) : State :=
  let s := s.setHw h (some qid)
  if s.ks.served.get none (h / 8) = some h then { s with ks := { s.ks with sliceOver := s.ks.sliceOver.set false (h / 8) true } } else s
/-- Mapped queues of a command processor. -/
def State.loadOf (s : State) (p : Nat) : Nat := ((List.range 8).filter fun i => (s.mapped (p * 8 + i)).isSome).length
/-- The WAIT condition (R456), its word's page being in memory. -/
def State.waitHolds (s : State) (p : List Word) : Bool :=
  let (id, off) := (refId (pkt p 4), (pkt p 5).toNat)
  let w := s.fwWord id off
  match (pkt p 7).bits 63 61 with
  | 0 => if (s.buf id).host then true else s.feAt id off
  | 1 => w == pkt p 6
  | 2 => (pkt p 6).ule w
  | _ => w != pkt p 6
/-- TIMEOUT µs have passed since a WAIT started (R456). -/
def State.waitOver (s : State) (q : QRec) (i : Nat) (p : List Word) : Bool :=
  let us := (pkt p 7).bits 31 0
  us != 0 && decide (us * 1000 ≤ s.now - q.waits.get 0 i)

/-- The packets of a queue have completed (R451, R487; log 18). -/
def QRec.drained (q : QRec) : Bool := if q.st = 3 then q.cptr == q.rptr else q.cptr == q.wptr

/-- The launch has ended: no task of it is WAITING, READY or RUNNING (R442). -/
def State.launchOver (s : State) (x : Nat) : Bool :=
  decide ((s.ctx x).st = .running) && (s.tasksOf x).all fun t => !TaskSt.live (s.task t).st
/-- The context that a LAUNCH_IMAGE launched. -/
def State.launched (s : State) (qid i : Nat) : Option Nat :=
  (s.ctxs.find? fun e => e.2.launchQ == qid && e.2.launchIdx == i && decide (e.2.st ≠ .absent)).map Prod.fst

/-- A checkpointed strand takes an idle task strand of its logical core again, in whose block the image holds it (log 20). -/
def State.unsave (s : State) (x : Nat) : State :=
  (s.entries.filter fun e => e.resume.isSome && ctxOfLc e.lcore == x).foldl (fun s e =>
    match e.resume, (List.range 4).find? fun k =>
        let t := s.strand (mkStrand e.lcore k)
        t.node.isNone && !t.stopped with
    | some id, some k => (s.takeStart e).resumeStrand e k id
    | _, _ => s) s

/-- The capability check of a named buffer: DETAIL is the word that names it, or the word of its offset when only the range
fails. -/
def State.refBad (s : State) (q : QRec) (w : Nat) (r : Word) (ow off n rights : Nat) : Option Nat :=
  if s.fwOk q.func q.secure (refId r) (refGen r) off n rights then none
  else if s.fwOk q.func q.secure (refId r) (refGen r) 0 0 rights then some ow else some w
/-- What a WAIT may not read (R451, R455, R456). -/
def State.waitBadRef (s : State) (q : QRec) (p : List Word) : Option Nat :=
  s.refBad q 4 (pkt p 4) 5 (pkt p 5).toNat 8 (if (pkt p 7).bits 63 61 = 0 then rightR ||| rightF else rightR)
/-- A queue other than an admin queue that belongs to the function. -/
def State.ownQueue (s : State) (q : QRec) (id : Nat) : Bool := (s.qrec id).valid && (s.qrec id).func == q.func

/-- The condition of the waiting step at which packet i of a queue stands (R451, R453, R455, R456, R459, R460): the pages it reaches can
be in memory, and what its opcode waits for holds, or fails for good. -/
def State.stepHolds (s : State) (qid i : Nat) (p : List Word) : Bool :=
  let q := s.qrec qid
  match s.packetIn q (q.dueStep i) p with
  | none => false
  | some s =>
    q.owed.get 0 i != 0 || match pktOp p with
    | 0x01 => q.stepOf i != 5 || (match s.launched qid i with
        | some x => s.launchOver x
        | none => false)
    | 0x02 => q.stepOf i != 1 || (match (s.ctx (freezeCtx q p)).st with
        | .absent => true
        | .running => true
        | _ => false)
    | 0x04 => (s.waitBadRef q p).isSome || s.waitHolds p || s.waitOver q i p
    | 0x21 => !s.ownQueue q ((pkt p 4).bits 11 0) || (s.qrec ((pkt p 4).bits 11 0)).drained
    | _ => true

/-- The queue's next packet may start (R452, R507). -/
def State.canStart (s : State) (qid : Nat) : Bool :=
  let q := s.qrec qid
  s.alive && s.pkg.ready && q.valid && q.st != 3 && q.rptr != q.wptr && decide (idxDist q.rptr q.cptr < 8)
    && match s.ringIn q q.rptr with
      | none => false
      | some s => match s.packetAt q q.rptr with
        | some p => !pktBar p || q.rptr == q.cptr
        | none => true
/-- Packets of a queue that stand at a waiting step. -/
def QRec.waiting (q : QRec) : List Nat :=
  ((List.range 8).filter fun d => q.steps.bits (8 * d + 7) (8 * d) != 0 && !q.doneMask.getLsbD d
      && decide (d < idxDist q.rptr q.cptr)).map fun d => (q.cptr + d) % 2 ^ 32
/-- The waiting step of packet i of a queue can go on; one whose ring cannot be read puts the queue in ERROR (R455). -/
def State.stepReady (s : State) (qid i : Nat) : Bool :=
  match s.ringIn (s.qrec qid) i with
  | none => false
  | some s => match s.packetAt (s.qrec qid) i with
    | some p => s.stepHolds qid i p
    | none => (s.qrec qid).st != 3
/-- The queue has a non-waiting step to run (R449, R453). -/
def State.runnable (s : State) (qid : Nat) : Bool := s.canStart qid || (s.qrec qid).waiting.any (s.stepReady qid)

/-- A deadline-class queue is active and not mapped (R449). -/
def State.dlUnmapped (s : State) : Bool := s.ks.qrecs.any fun e => e.2.dl && (s.hwSlotOf e.1).isNone && s.runnable e.1
/-- QUEUE_SLOT_MAPPING (R449): deadline-class queues before all others; a free slot of the processor with the fewest mapped queues, or the
slot whose queue has been longest without a non-waiting step to run. None is in the middle of one between two steps of this model. -/
def State.mapQueue (s : State) (qid : Nat) : State :=
  if (s.hwSlotOf qid).isSome || (!(s.qrec qid).dl && s.dlUnmapped) then s
  else
    match pick (fun a b => decide (s.loadOf a < s.loadOf b)) ((List.range 8).filter fun p => decide (s.loadOf p < 8)) with
    | some p =>
      match (List.range 8).find? fun i => (s.mapped (p * 8 + i)).isNone with
      | some i => s.setHw (p * 8 + i) (some qid)
      | none => s
    | none =>
      let of_ : Nat → Nat := fun h => (s.mapped h).getD 0
      let last : Nat → Nat := fun h => if s.runnable (of_ h) then s.now else (s.qrec (of_ h)).lastRun
      match pick (fun a b => decide (last a < last b)) (List.range 64) with
      | some h => s.remap h qid
      | none => s

/-- Device time passes (R7, log 2): each whole µs of device time that it reaches charges the strands (R416), and bytes that have been
dirty for 10.24 µs arrive at their homes (R51). A queue that has a step to run has it all that time (R449). -/
def State.elapse (s : State) (ns : Nat) : State :=
  let us := (s.now + ns) / 1000 - s.now / 1000
  let s := if us = 0 then s else s.strands.foldl (fun s e => s.chargeStrand us e.2) s
  let s := { s with devTime := s.devTime + BitVec.ofNat 64 ns }
  let qs := s.ks.qrecs.map fun e => if s.runnable e.1 then (e.1, { e.2 with lastRun := s.now }) else e
  let s := { s with ks := { s.ks with qrecs := qs } }
  s.writeBackAged s.now

/-- Rank of a queue among the mapped ones: the deadline class, then levels 11 to 0 (R453). -/
def QRec.rank (q : QRec) : Nat := if q.dl then 0 else 15 - q.level
/-- The slot a command processor serves (R453): the highest rank that has a step to run; among equals the slot served last
while its slice lasts, then the next in turn. -/
def State.serving (s : State) (p : Nat) : Option Nat :=
  let hs := ((List.range 8).map (p * 8 + ·)).filter fun h =>
    match s.mapped h with
    | some q => s.runnable q
    | none => false
  let rank : Nat → Nat := fun h => (s.qrec ((s.mapped h).getD 0)).rank
  let best := (hs.map rank).min?.getD 0
  let eq := hs.filter fun h => rank h == best
  match s.ks.served.get none p with
  | none => eq.head?
  | some l =>
    if eq.contains l && !s.ks.sliceOver.get false p then some l
    else pick (fun a b => decide ((a + 7 - l) % 8 < (b + 7 - l) % 8)) eq

/-- The processor of a slot takes up a queue: its slice is the one that runs. -/
def State.take (s : State) (h now : Nat) : State :=
  let s := { s with ks := { s.ks with served := s.ks.served.set none (h / 8) (some h),
                                      sliceOver := s.ks.sliceOver.set false (h / 8) false } }
  match s.mapped h with
  | some q => s.modQrec q fun x => { x with lastRun := now }
  | none => s

/-- A slice also ends when its queue has no step to run: the turn passes on (R453). -/
def State.passTurns (s : State) : State :=
  let dry := (s.ks.served.filter fun e => match e.2.bind s.mapped with
    | some q => !s.runnable q
    | none => true).map Prod.fst
  { s with ks := { s.ks with sliceOver := dry.foldl (fun t p => t.set false p true) s.ks.sliceOver } }
/-- What a packet's outcome leaves. -/
def PacketRes.settle (qid i : Nat) (p : List Word) : PacketRes → State
  | .wait s step => (s.modQrec qid fun q => (q.setStep i step)).passTurns
  | .done s status detail value => (s.completePacket qid i p status detail value).passTurns

/-- The queue is served: it is mapped, and its slot's turn has come. -/
def State.enter (s : State) (qid : Nat) : Option State :=
  if !s.runnable qid then none
  else
    let s := s.mapQueue qid
    match s.hwSlotOf qid with
    | none => none
    | some h => if s.serving (h / 8) = some h then some (s.take h s.now) else none

/-- SLICE_EXPIRY (R453). -/
def execSliceExpiry (h : Nat) (s : State) : Out :=
  if 63 < h then .fault .noSuchUnit
  else if s.ks.served.get none (h / 8) = some h then
    .next { s with ks := { s.ks with sliceOver := s.ks.sliceOver.set false (h / 8) true } }
  else .next s

-- Starting a packet (R451, R452, R455).

/-- Which queues an opcode is for (R451). -/
def opAllowed (q : QRec) (op : Nat) : Bool :=
  match op with
  | 0x00 | 0x03 | 0x04 => true
  | 0x01 | 0x02 => !q.admin
  | 0x20 | 0x21 | 0x22 | 0x23 | 0x24 | 0x25 | 0x26 => q.admin
  | 0x27 => q.admin && q.func == 0
  | _ => false

/-- A packet that its check turns away completes at once when the pages that its completion writes can be in memory; else STATUS and
DETAIL are owed to it, and it waits for them (R454, R455). -/
def State.refuse (s : State) (qid i : Nat) (p : List Word) (status detail : Nat) : PacketRes :=
  match s.fwIn (s.qrec qid).func (s.qrec qid).secure ((s.qrec qid).endRefs p) with
  | some s => .done s status detail
  | none => .wait (s.owe qid i status detail) 1
/-- A packet event: the queue's next packet, when it has the opcode, starts and runs to its end or its first waiting step. Its fields are
checked before any capability (R459), and it waits at its first step for pages it reaches that cannot be in memory yet
(R455). -/
def State.startPacket (s : State) (qid : Nat) (op : Nat → Bool) (bad : State → List Word → Bool)
    (work : State → QRec → Nat → List Word → PacketRes) : Out :=
  if !s.canStart qid then .next s
  else match (s.enter qid).bind fun s => s.ringIn (s.qrec qid) (s.qrec qid).rptr with
    | none => .next s
    | some s =>
      let q := s.qrec qid
      match s.packetAt q q.rptr with
      | none => .next (s.queueError qid q.rptr 0x11)
      | some p =>
        if !op (pktOp p) then .next s
        else
          let i := q.rptr
          let s := s.modQrec qid fun q => ({ q with
            rptr := (i + 1) % 2 ^ 32, waits := if pktOp p = 0x04 then q.waits.set 0 i s.now else q.waits }.setStep i 1)
          let res :=
            if !opAllowed q (pktOp p) || sigBad p || bad s p then s.refuse qid i p 0x10 0
            else if !s.sigOk q p then s.refuse qid i p 0x11 (s.sigWord p)
            else match s.packetIn q 1 p with
              | none => .wait s 1
              | some s => work s q i p
          .next (res.settle qid i p)

/-- Words 4 to 7 that an opcode does not use are 0. -/
def zeroFrom (p : List Word) (i : Nat) : Bool := (List.range (8 - i)).all fun j => pkt p (i + j) == 0

/-- An opcode of PACKET_NOP: NOP itself, and the unlisted ones, which complete with BAD_PACKET. -/
def nopOp (o : Nat) : Bool := o == 0 || decide (4 < o ∧ o < 0x20) || decide (0x27 < o)
def nopWork (s : State) (_ : QRec) (_ : Nat) (_ : List Word) : PacketRes := .done s 0
/-- PACKET_NOP (R451); a packet of an unlisted opcode completes with BAD_PACKET. -/
def execPacketNop (qid : Nat) (s : State) : Out := s.startPacket qid nopOp (fun _ p => !zeroFrom p 4) nopWork

def writeSignalBad (_ : State) (p : List Word) : Bool :=
  (pkt p 4).bits 23 0 != 0 || (pkt p 5).bits 2 0 != 0 || decide (1 < (pkt p 7).bits 63 61) || (pkt p 7).bits 60 0 != 0
def writeSignalWork (s : State) (q : QRec) (_ : Nat) (p : List Word) : PacketRes :=
  let mode := (pkt p 7).bits 63 61
  match s.refBad q 4 (pkt p 4) 5 (pkt p 5).toNat 8 (if mode = 0 then rightW else rightW ||| rightF) with
  | some w => badCap s w
  | none =>
    let (id, off, v) := (refId (pkt p 4), (pkt p 5).toNat, (pkt p 6).toNat)
    .done (if mode = 0 then s.fwSetWord id off v else s.fwFill id off v) 0
/-- WRITE_SIGNAL (R451, R456). -/
def execWriteSignal (qid : Nat) (s : State) : Out := s.startPacket qid (· == 0x03) writeSignalBad writeSignalWork

def waitBad (_ : State) (p : List Word) : Bool :=
  (pkt p 4).bits 23 0 != 0 || (pkt p 5).bits 2 0 != 0 || decide (3 < (pkt p 7).bits 63 61) || (pkt p 7).bits 60 32 != 0
/-- A WAIT is tested: its condition, then its TIMEOUT (R456). -/
def waitWork (s : State) (q : QRec) (i : Nat) (p : List Word) : PacketRes :=
  match s.waitBadRef q p with
  | some w => badCap s w
  | none => if s.waitHolds p then .done s 0 else if s.waitOver q i p then .done s 0x04 else .wait s 1
/-- WAIT (R451, R456). -/
def execWait (qid : Nat) (s : State) : Out :=
  s.startPacket qid (· == 0x04) waitBad fun s _ i p => waitWork s (s.qrec qid) i p

-- Packets on queues (R448-R451).

/-- A queue record's four control words as QUEUE_CREATE gives them (R448). -/
def QRec.ofWords (w0 w1 w2 : Word) (idx : Nat) : QRec :=
  { valid := true, secure := w0.getLsbD 59, admin := w0.getLsbD 58, func := w0.bits 57 53, dl := w0.getLsbD 52,
    level := w0.bits 51 48, rsize := w0.bits 47 44, ringId := refId w1, ringGen := refGen w1, ringOff := w2.toNat,
    wptr := idx, rptr := idx, cptr := idx }

def createBad (s : State) (p : List Word) : Bool :=
  let (w0, w1) := (pkt p 4, pkt p 5)
  let n := QRec.ofWords w0 w1 (pkt p 6) (pkt p 7).toNat
  let id := w0.bits 11 0
  !w0.getLsbD 63 || w0.bits 62 60 != 0 || n.admin || w0.bits 43 12 != 0 || decide (id < 17)
    || (if n.dl then n.level != 0 else decide (11 < n.level)) || decide (n.rsize < 4)
    || w1.bits 23 0 != 0 || decide ((pkt p 6).toNat % 4096 ≠ 0) || (pkt p 7).bits 63 32 != 0 || (s.qrec id).valid
def createWork (s : State) (q : QRec) (_ : Nat) (p : List Word) : PacketRes :=
  let n := QRec.ofWords (pkt p 4) (pkt p 5) (pkt p 6) (pkt p 7).toNat
  if n.func ≠ q.func ∨ (n.secure ∧ !q.secure) then badCap s 4
  else match s.refBad q 5 (pkt p 5) 6 n.ringOff (80 * 2 ^ n.rsize) (rightR ||| rightW) with
    | some w => badCap s w
    | none => .done (s.setQrec ((pkt p 4).bits 11 0) n) 0
/-- QUEUE_CREATE (R448, R451). -/
def execQueueCreate (qid : Nat) (s : State) : Out := s.startPacket qid (· == 0x20) createBad createWork

/-- A queue ceases to exist. -/
def State.dropQueue (s : State) (id : Nat) : State :=
  let s := match s.hwSlotOf id with
    | some h => s.setHw h none
    | none => s
  s.setQrec id {}

def destroyBad (_ : State) (p : List Word) : Bool :=
  (pkt p 4).bits 63 12 != 0 || !zeroFrom p 5 || decide ((pkt p 4).bits 11 0 < 17)
def destroyWork (s : State) (q : QRec) (_ : Nat) (p : List Word) : PacketRes :=
  let id := (pkt p 4).bits 11 0
  if !s.ownQueue q id then badCap s 4
  else if (s.qrec id).drained then .done (s.dropQueue id) 0
  else .wait s 1
/-- QUEUE_DESTROY (R451): it waits until the queue's packets complete. -/
def execQueueDestroy (qid : Nat) (s : State) : Out := s.startPacket qid (· == 0x21) destroyBad destroyWork

def resetBad (_ : State) (p : List Word) : Bool := (pkt p 4).bits 63 12 != 0 || (pkt p 5).bits 63 32 != 0 || !zeroFrom p 6
def resetWork (s : State) (q : QRec) (_ : Nat) (p : List Word) : PacketRes :=
  let id := (pkt p 4).bits 11 0
  let i := (pkt p 5).toNat
  if !s.ownQueue q id then badCap s 4
  else .done (s.modQrec id fun x =>
    { x with rptr := i, cptr := i, wptr := i, st := 0, errStat := 0, errIdx := 0, doneMask := 0, steps := 0, waits := [], owed := [] }) 0
/-- QUEUE_RESET (R450): RPTR, CPTR and WPTR take the packet's value, and ERROR clears. -/
def execQueueReset (qid : Nat) (s : State) : Out := s.startPacket qid (· == 0x22) resetBad resetWork

/-- STATE of a record (R448): ERROR, ACTIVE by R449, WAITING, IDLE. -/
def State.queueState (s : State) (id : Nat) : Nat :=
  let q := s.qrec id
  if q.st = 3 then 3 else if s.runnable id then 1 else if q.waiting ≠ [] then 2 else 0
def bit (b : Bool) (i : Nat) : Nat := if b then 2 ^ i else 0
/-- The 64 bytes of a queue record (R448). -/
def State.recordWords (s : State) (id : Nat) : List Nat :=
  let q := s.qrec id
  [bit q.valid 63 + s.queueState id * 2 ^ 60 + bit q.secure 59 + bit q.admin 58 + q.func * 2 ^ 53 + bit q.dl 52
     + q.level * 2 ^ 48 + q.rsize * 2 ^ 44 + (if q.valid then id else 0),
   q.ringId * 2 ^ 40 + q.ringGen * 2 ^ 24, q.ringOff, q.wptr * 2 ^ 32 + q.rptr, q.cptr * 2 ^ 32 + q.doneMask.toNat * 2 ^ 24,
   q.steps.toNat, q.cqptr * 2 ^ 32, q.errStat * 2 ^ 56 + q.errIdx]

def queryBad (_ : State) (p : List Word) : Bool := (pkt p 4).bits 63 12 != 0 || (pkt p 5).bits 23 0 != 0 || !zeroFrom p 7
def queryWork (s : State) (q : QRec) (_ : Nat) (p : List Word) : PacketRes :=
  let id := (pkt p 4).bits 11 0
  if !s.ownQueue q id then badCap s 4
  else match s.refBad q 5 (pkt p 5) 6 (pkt p 6).toNat 64 rightW with
    | some w => badCap s w
    | none => .done (s.fwSet (refId (pkt p 5)) (pkt p 6).toNat ((s.recordWords id).flatMap (leBytes 8))) 0
/-- QUEUE_QUERY (R448): the record is copied out. -/
def execQueueQuery (qid : Nat) (s : State) : Out := s.startPacket qid (· == 0x23) queryBad queryWork

-- Packets on buffers (R278-R280, R451).

/-- PMAP of a device buffer: the address of its page map, which the spec leaves open but for its 4 KiB alignment (R278; log 93). -/
def State.drawPmap (s : State) : Word × State :=
  let (r, s) := s.draw
  (BitVec.ofNat 64 (r % 2 ^ 27 * 4096), s)

def allocBad (_ : State) (p : List Word) : Bool :=
  let size := (pkt p 4).toNat
  let host := (pkt p 5).getLsbD 0
  (pkt p 5).bits 55 1 != 0 || decide (2 ^ 39 < size) || !zeroFrom p 7 || (!host && pkt p 6 != 0)
    || (if host then decide (size < 8) || size % 8 != 0 else decide (size < 65536) || size % 65536 != 0)
def allocWork (s : State) (q : QRec) (_ : Nat) (p : List Word) : PacketRes :=
  let size := (pkt p 4).toNat
  let rights := (pkt p 5).bits 63 56
  let host := (pkt p 5).getLsbD 0
  let sec := rights / 4 % 2 == 1
  if sec ∧ !q.secure then badCap s 5
  else if !host ∧ s.framesLeft < size / 65536 then .done s 0x15
  else match s.freshId with
    | (none, s) => .done s 0x15
    | (some id, s) =>
      let (pmap, s) := if host then (pkt p 6, s) else s.drawPmap
      let s := s.modBuf id fun b =>
        { gen := b.gen, maxRights := rights, size := size, refCnt := 1, context := q.func * 2048, driver := true, host := host,
          secure := sec, valid := true, pmap := pmap }
      .done (if host then s else s.allocPages id false 0 (size / 65536)) 0 0 id
/-- BUF_ALLOC (R275, R278): the new ID is the completion's VALUE. -/
def execBufAlloc (qid : Nat) (s : State) : Out := s.startPacket qid (· == 0x24) allocBad allocWork

/-- A buffer of the function, named by ID and generation. -/
def State.ownBuf (s : State) (q : QRec) (r : Word) : Bool := s.fwOk q.func q.secure (refId r) (refGen r) 0 0 0
/-- A packet that names a buffer in word 4 and nothing else. -/
def bufWordBad (_ : State) (p : List Word) : Bool := (pkt p 4).bits 23 0 != 0 || !zeroFrom p 5

def freeWork (s : State) (q : QRec) (_ : Nat) (p : List Word) : PacketRes :=
  if !(s.ownBuf q (pkt p 4) && (s.buf (refId (pkt p 4))).driver) then badCap s 4
  else .done ((s.modBuf (refId (pkt p 4)) fun b => { b with driver := false }).dropRef (refId (pkt p 4))) 0
/-- BUF_FREE (R280): the driver's reference goes. -/
def execBufFree (qid : Nat) (s : State) : Out := s.startPacket qid (· == 0x25) bufWordBad freeWork

def revokeWork (s : State) (q : QRec) (_ : Nat) (p : List Word) : PacketRes :=
  if !s.ownBuf q (pkt p 4) then badCap s 4 else .done (s.bumpGen (refId (pkt p 4))) 0
/-- BUF_REVOKE (R279). -/
def execBufRevoke (qid : Nat) (s : State) : Out := s.startPacket qid (· == 0x26) bufWordBad revokeWork

def dlshareWork (s : State) (_ : QRec) (_ : Nat) (p : List Word) : PacketRes :=
  .done { s with ks := { s.ks with dlShare := (pkt p 4).toNat } } 0
/-- SET_DLSHARE (R426). -/
def execSetDlshare (qid : Nat) (s : State) : Out :=
  s.startPacket qid (· == 0x27) (fun _ p => decide (48 < (pkt p 4).toNat) || !zeroFrom p 5) dlshareWork

/-- DOORBELL (R450): dropped for a queue that is not the function's; OVERRUN when it passes the ring; else WPTR, and a queue that
becomes active is mapped. -/
def execDoorbell (abut fn qid : Nat) (value : Word) (s : State) : Out :=
  if abut = 0 ∨ 2 < abut ∨ 16 < fn then .fault .noSuchUnit
  else if s.pkg.dead then .next s
  else
    let s := s.posted abut
    let q := s.qrec qid
    let w := value.bits 31 0
    if !(s.alive && s.pkg.ready && q.valid && q.func == fn) then .next s
    else if 2 ^ q.rsize < idxDist w q.cptr then .next (s.queueError qid q.rptr 0x1B)
    else
      let s := s.modQrec qid fun q => { q with wptr := w }
      .next (if s.runnable qid then s.mapQueue qid else s)

/-- PAGE_OUT (R284, R286). -/
def execPageOut (id page : Nat) (s : State) : Out :=
  let e := s.page id (page * 65536)
  if s.alive && pageValid e && pageRes e && !pagePinned e then .next (s.pageOut id page) else .next s

/-- The RCBs, beside the context RCB, of the chain of the task whose access has met a page that is out: those that set a budget (R414,
R416; log 58). -/
def State.asker (s : State) (id : Nat) : Option Nat → List Nat
  | none => []
  | some t =>
    let k := s.task t
    let b := s.buf id
    if k.st = .free ∨ k.ctx ≠ b.context ∨ b.driver ∨ b.own then [] else ((s.ctx k.ctx).charged k.chain).filter (· != 0)
/-- PAGE_IN (R284), for a task's access or for none; one that would lift PAGESUSED above PAGES in any RCB of the chain waits (R416). -/
def execPageIn (id : Nat) (want : PageWant) (s : State) : Out :=
  let page := want.page
  let e := s.page id (page * 65536)
  let rs := s.asker id want.task
  if s.alive && pageValid e && !pageRes e && s.pageRoom id rs then
    .next (s.pageIn id page rs)
  else .next s

end Sys2Proof.Machine
end

