-- ==== Sys2Proof/Machine/Copy.lean ====
section
/-! DEFINITION. The copy engine (R298-R306): queue 0's commands, their full/empty modes, poison, and outcomes. -/

namespace Sys2Proof.Machine

/-- A transfer at work: the command, its descriptor, and its two sides. -/
structure Xfer where
  c : Nat
  code : Nat
  mode : Nat
  d : List Word
  src : Option Loc
  dst : Option Loc
  deriving DecidableEq, Repr

def Xfer.word (x : Xfer) (i : Nat) : Word := x.d.getD i 0
def copySrc (code : Nat) : Bool := code == 0xF0 || code == 0xF3 || code == 0xF4 || code == 0xF5
def copyDst (code : Nat) : Bool := code == 0xF0 || code == 0xF1 || code == 0xF2 || code == 0xF3 || code == 0xF6
/-- FEM of the command (R302); cpset with set full writes as FILL (R301). -/
def Xfer.fem (x : Xfer) : Nat := if x.code = 0xF1 then (if x.mode = 2 then 2 else 0) else x.mode % 4
def Xfer.len (x : Xfer) : Nat := (x.word 2).toNat
def Xfer.rows (x : Xfer) : Nat := if x.code = 0xF3 then (x.word 5).toNat else 1
/-- Bytes of the transfer; a cpsig writes one word (R301). -/
def Xfer.total (x : Xfer) : Nat := if x.code = 0xF6 then 8 else x.rows * x.len
/-- Offset of transfer byte t on a side, from its base word and its stride word (R301). -/
def Xfer.at_ (x : Xfer) (base stride t : Nat) : Nat :=
  let st : Int := if x.code = 0xF3 then sextN 64 (x.word stride).toNat else 0
  (off64 ((x.word base).toNat + (t / x.len : Nat) * st + (t % x.len : Nat))).toNat
def Xfer.srcAt (x : Xfer) (t : Nat) : Nat := x.at_ 0 6 t
def Xfer.dstAt (x : Xfer) (t : Nat) : Nat := x.at_ 1 7 t
/-- A bit-carrying or bit-setting form (R302). -/
def Xfer.usesBits (x : Xfer) : Bool := x.code == 0xF2 || (x.code != 0xF4 && x.code != 0xF5 && x.fem != 0)
def Xfer.srcNeed (x : Xfer) : Need :=
  match x.fem with
  | 1 => { r := true, f := true }
  | 3 => { r := true, w := true, f := true }
  | _ => { r := true }
def Xfer.dstNeed (x : Xfer) : Need := { w := true, f := x.fem != 0 }

/-- STATUS 0x10 (R298, R299, R301, R305): reserved bits, MODE, LEN, ROWS, CWOFF, a capability field its space does not use,
and a mode other than DATA in host space (R300). A non-zero SB or DB of a side that the command has no use for is malformed too
(log 116: the model's choice). -/
def copyMalformed (code : Nat) (e : Word) (d : List Word) : Bool :=
  let w := fun (i : Nat) => d.getD i 0
  let ssp := e.bits 21 20
  let dsp := e.bits 27 26
  let capSp := fun (sp : Nat) => sp == 0 || sp == 3
  let mode := e.bits 4 0
  let modeOk := match code with
    | 0xF0 | 0xF3 => decide (mode ≤ 3)
    | 0xF1 => mode == 0 || mode == 2
    | 0xF6 => decide (mode ≤ 2)
    | _ => decide (mode ≤ 1)
  let bitsForm := code == 0xF2 || (code != 0xF4 && code != 0xF5 && mode != 0)
  e.getLsbD 19 || !modeOk
    || ((w 3).bits 62 19 != 0) || ((w 3).bits 3 0 != 0)
    || ((w 4).bits 63 57 != 0) || ((w 4).bits 47 9 != 0)
    || (e.bits 25 22 != 0 && !(copySrc code && capSp ssp))
    || (e.bits 31 28 != 0 && !(copyDst code && capSp dsp))
    || !(decide (1 ≤ (w 2).toNat) && decide ((w 2).toNat ≤ 2 ^ 36))
    || (code == 0xF3 && !(decide (1 ≤ (w 5).toNat) && decide ((w 5).toNat ≤ 65536)))
    || (bitsForm && ((copySrc code && ssp == 3) || (copyDst code && dsp == 3)))

/-- The side a space code names (R298, R299); a peer that is no logical core of the context fails as it is reached (R305). -/
def State.copySide (s : State) (c space peer : Nat) (cap : Cap) : Loc :=
  match space with
  | 0 => .dev cap
  | 1 => .ls c
  | 2 => .ls (if peer < (s.ctx (ctxOfLc c)).lcount then mkLc (ctxOfLc c) peer else noCore)
  | _ => .host cap

/-- STATUS of an access that cannot be made (R305): its rights, its range, its alignment where it needs one, its page. A write into
a journal range is out of the local store (R341). A stride that no access uses is not tested (log 124: the model's choice). -/
def State.copyMiss (s : State) (c : Nat) (l : Loc) (need : Need) (words : Bool) (o n : Nat) : Option Nat :=
  let mis := words && (o % 8 != 0 || n % 8 != 0)
  match s.reach c l need o n with
  | some .cap => some 0x11
  | some .range => some 0x12
  | some .page => some (if mis then 0x14 else 0x13)
  | none =>
    let out := match l with
      | .ls k => need.w && s.queuePresent k 1 && s.inJournal k o n
      | _ => false
    if out then some 0x12 else if mis then some 0x14 else none

/-- How a transfer goes: it is over, it stopped with a STATUS at an offset with copy granules finished, it waits at an
offset, or its units are used up. -/
inductive Went where
  | over (w : Work)
  | stop (w : Work) (status off granules : Nat)
  | waits (w : Work) (prog : Nat)
  | rests (w : Work) (prog : Nat)
  deriving DecidableEq, Repr

/-- Pieces of a transfer from t to `hi`, none crossing a row or a poison granule of the destination, of whole words where the
bits move with them (R302). That one piece is one access of the engine is the model's choice (log 123). -/
def Xfer.pieces (x : Xfer) (l : Loc) (hi : Nat) : Nat → Nat → List (Nat × Nat)
  | 0, _ => []
  | fuel + 1, t =>
    if hi ≤ t then []
    else
      let n := min (min (x.len - t % x.len) (hi - t)) (l.room (x.dstAt t))
      let n := if x.fem ≠ 0 ∧ 8 ≤ n then n / 8 * 8 else n
      (t, n) :: x.pieces l hi fuel (t + n)

/-- Bytes, poison and bits a piece takes from its source, read from `s`, but for what has been read early (R43). -/
def Xfer.take (x : Xfer) (es : List Early) (s : State) (l : Loc) (t n : Nat) : List Byte × Bool × List Bool × State :=
  let o := x.srcAt t
  let (bs, s') := if x.fem = 0 then s.engineRead x.c l o n else s.engineHome x.c l o n
  let p := s.locSpot l (l.pos o)
  (Early.over es p bs,
   if es = [] then s.enginePoison l o n
   else (List.range n).any fun i => ((Early.at_ es (p.plus i)).map Kept.poison).getD (s.enginePoison l (o + i) 1),
   (List.range (n / 8)).map fun i => ((Early.at_ es (p.plus (8 * i))).map Kept.full).getD (s.engineFull l (o + 8 * i)), s')

/-- What the engine holds of the source, by transfer offset: the bytes that it can reach (R300). -/
def Xfer.keep (x : Xfer) (s : State) (l : Loc) (ts : List Nat) : Tab (Option Kept) :=
  ts.foldl (fun k t =>
    if (s.copyMiss x.c l x.srcNeed false (x.srcAt t) 1).isSome then k
    else
      let (bs, pz, _, _) := x.take [] s l t 1
      k.set none t (some ⟨bs.headD 0, pz, s.engineFull l (x.srcAt t)⟩)) []
/-- What a piece takes from its source, where the engine holds that as it stood earlier (R300). -/
def Xfer.asHeld (x : Xfer) (w : Work) (s : State) (l : Loc) (t n : Nat) : List Byte × Bool × List Bool × State :=
  let k := w.held
  let (bs, pz, fs, s) := x.take w.es s l t n
  if k = [] then (bs, pz, fs, s)
  else
    (bs.zipIdx.map fun e => ((k.get none (t + e.2)).map Kept.b).getD e.1,
     (List.range n).any fun i => ((k.get none (t + i)).map Kept.poison).getD pz,
     fs.zipIdx.map fun e => ((k.get none (t + 8 * e.2)).map Kept.full).getD e.1, s)

/-- The transfer offset that counts for a poisoned granule (R303): that of the first byte that the row moves into the granule of byte t. -/
def Xfer.granuleAt (x : Xfer) (l : Loc) (t : Nat) : Nat := t - min (l.pos (x.dstAt t) % 32) (t % x.len)

/-- The key of `held` that says that a CPSTRIDE which a stop cut goes row by row (log 27). -/
def Xfer.rowKey (x : Xfer) : Nat := x.total
/-- The rest of a row from transfer offset t, read as its source now stands (R300). -/
def Xfer.holdRow (x : Xfer) (w : Work) (t : Nat) : Work :=
  match x.src with
  | none => w
  | some ls => { w with held := (x.keep w.s ls ((List.range (x.len - t % x.len)).map (t + ·))).set none x.rowKey (some ⟨0, false, false⟩) }

/-- Setting the bits a piece sets (R302), with their words' data at the home (R44). -/
def Xfer.setBits (x : Xfer) (w : Work) (l : Loc) (t n : Nat) (src : List Bool) : Work :=
  let w := if x.fem = 0 then w else { w with s := w.s.payLines x.c }
  match x.fem with
  | 0 => w
  | 1 => (List.range (n / 8)).foldl (fun w i => w.setFull l (x.dstAt t + 8 * i) (src.getD i true) false) w
  | _ => (List.range ((l.pos (x.dstAt t) % 8 + n + 7) / 8)).foldl (fun w i => w.setFull l (x.dstAt t + 8 * i) true false) w

/-- One piece: read, then written (R301-R303). `s0` holds the source of a transfer that overlaps itself as it stood at the start
(R300). -/
def Xfer.piece (x : Xfer) (l : Loc) (s0 : Option State) (w : Work) (t n : Nat) : Except (Work × Nat) Work :=
  let got : Except Nat (List Byte × Bool × List Bool × State) :=
    match x.src with
    | none =>
      .ok ((List.range n).map fun i => BitVec.ofNat 8 ((x.word 0).toNat / 2 ^ (8 * ((x.dstAt t + i) % 8))), false, [], w.s)
    | some ls =>
      match w.s.copyMiss x.c ls x.srcNeed (x.fem != 0) (x.srcAt t) n with
      | some st => .error st
      | none => .ok (x.asHeld w (s0.getD w.s) ls t n)
  match got with
  | .error st => .error (w, st)
  | .ok (bs, pz, fs, s) =>
    let w := if s0.isSome then w else { w with s := s }
    match w.s.copyMiss x.c l x.dstNeed (x.fem != 0) (x.dstAt t) n with
    | some st => .error (w, st)
    | none =>
      let w := w.put x.c l (x.dstAt t) bs pz (x.granuleAt l t)
      .ok (x.setBits w l t n fs)

/-- The pieces of a granule; `rows`: each row is read as the engine comes to it. -/
def Xfer.runPieces (x : Xfer) (l : Loc) (s0 : Option State) (rows : Bool) (gr : Nat) : Work → List (Nat × Nat) → Went
  | w, [] => .over w
  | w, (t, n) :: ps =>
    match x.piece l s0 (if rows && (t % x.len == 0 || w.held == []) then x.holdRow w t else w) t n with
    | .error (w, st) => .stop w st t gr
    | .ok w => x.runPieces l s0 rows gr w ps

/-- The copy granules in their order (R306); `done` counts those finished, and the units of a stop are granules. -/
def Xfer.runGranules (x : Xfer) (l : Loc) (s0 : Option State) (rows : Bool) : Nat → Work → List Nat → Went
  | done, w, [] => if w.parted then .rests w done else .over w
  | done, w, g :: gs =>
    if w.out then .rests w done
    else match x.runPieces l s0 rows done w (x.pieces l (min x.total (4096 * g + 4096)) 4096 (4096 * g)) with
      | .over w => x.runGranules l s0 rows (done + 1) w.unitDone gs
      | r => r

/-- The span of positions a side covers. -/
def Xfer.span (x : Xfer) (l : Loc) (base stride : Nat) : Int × Int :=
  let st : Int := if x.code = 0xF3 then sextN 64 (x.word stride).toNat else 0
  let a : Int := l.pos (x.word base).toNat
  let b := a + ((x.rows - 1 : Nat) : Int) * st
  (min a b, max a b + x.len)
/-- Source and destination overlap within one buffer ID or one local store (R300). -/
def Xfer.overlaps (x : Xfer) (l : Loc) : Bool :=
  match x.src with
  | none => false
  | some ls =>
    let a := x.span ls 0 6
    let b := x.span l 1 7
    ls.same l && decide (a.1 < b.2) && decide (b.1 < a.2)
/-- A CPSTRIDE that a stop cut and whose ranges overlap goes on row by row (R300). -/
def Xfer.byRow (x : Xfer) (l : Loc) (w : Work) (prog : Nat) : Bool :=
  x.overlaps l && x.code == 0xF3 && prog != 0 && (decide (w.held = []) || (w.held.get none x.rowKey).isSome)
/-- cpcopy takes its granules in descending order when its overlapping destination lies above its source in the buffer or local store
(R306; log 142: DSTOFF and SRCOFF are compared with the bases of their views). -/
def Xfer.granules (x : Xfer) (l : Loc) : List Nat :=
  let gs := List.range ((x.total + 4095) / 4096)
  match x.src with
  | some ls =>
    if x.code = 0xF0 ∧ x.overlaps l ∧ ls.pos (x.word 0).toNat < l.pos (x.word 1).toNat then gs.reverse else gs
  | none => gs

/-- MOVE from transfer offset t (R302): each word is waited for until full, emptied, and written full. -/
def Xfer.moveFrom (x : Xfer) (ls l : Loc) : Nat → Work → Nat → Went
  | 0, w, _ => .over w
  | fuel + 1, w, t =>
    let n := min 8 (x.len - t % x.len)
    if x.total ≤ t then .over w
    else if w.out && t % 4096 == 0 then .rests w t
    else match w.s.copyMiss x.c ls x.srcNeed true (x.srcAt t) n with
      | some st => .stop w st t (t / 4096)
      | none =>
        if !w.s.engineFull ls (x.srcAt t) then .waits w t
        else
          let (bs, s) := w.s.engineHome x.c ls (x.srcAt t) 8
          let pz := s.enginePoison ls (x.srcAt t) 8
          let w := { w with s := s.setEngineFull ls (x.srcAt t) false }
          match w.s.copyMiss x.c l x.dstNeed true (x.dstAt t) 8 with
          | some st => .stop w st t (t / 4096)
          | none =>
            let w := w.write x.c l (x.dstAt t) bs pz (x.granuleAt l t)
            let w := { w with s := (w.s.payLines x.c).setEngineFull l (x.dstAt t) true }
            x.moveFrom ls l fuel (if (t + 8) % 4096 = 0 then w.unitDone else w) (t + 8)

/-- The transfer bytes of a list of copy granules. -/
def Xfer.bytesOf (x : Xfer) (gs : List Nat) : List Nat :=
  gs.flatMap fun g => (List.range (min x.total (4096 * g + 4096) - 4096 * g)).map (4096 * g + ·)
/-- A command that rests holds the source that it has still to move, where its ranges overlap (R300). -/
def Xfer.rest (x : Xfer) (l : Loc) (s0 : State) : Went → Went
  | .rests w prog =>
    match x.src with
    | some ls =>
      if x.overlaps l && decide (w.held = []) then
        .rests { w with held := x.keep s0 ls (x.bytesOf ((x.granules l).drop prog)) } prog
      else .rests w prog
    | none => .rests w prog
  | r => r
/-- cpcopy, cpstride and cpset (R301, R302), from their progress: the offset under MOVE, else the granules finished. Where the
ranges overlap, the source is read as it stood when the command started, or a CPCOPY resumed; a CPSTRIDE that resumed reads each row as
its source then stands (R300, R306, log 27). -/
def Xfer.transfer (x : Xfer) (l : Loc) (w : Work) (prog : Nat) : Went :=
  match x.src, x.fem with
  | some ls, 3 => x.moveFrom ls l (x.total + 1) { w with ws := [], es := [] } prog
  | _, _ =>
    let rows := x.byRow l w prog
    x.rest l w.s (x.runGranules l (if x.overlaps l && !rows then some w.s else none) rows prog w ((x.granules l).drop prog))

/-- A boundary of copy granules, and the bytes from an offset to the next (R306). -/
def copyBoundary (t : Nat) : Bool := t % 4096 == 0
def copyRoom (t : Nat) : Nat := 4096 - t % 4096

/-- cpfe (R301): the bit of every word of the range, the data untouched. -/
def Xfer.bitsFrom (x : Xfer) (l : Loc) : Nat → Work → Nat → Went
  | 0, w, _ => .over w
  | fuel + 1, w, k =>
    if x.len ≤ k then (if w.parted then .rests w k else .over w)
    else if w.out && copyBoundary k then .rests w k
    else
      let o := (x.word 1).toNat + k
      let n := min (min (x.len - k) (8 - l.pos o % 8)) (copyRoom k)
      match w.s.copyMiss x.c l { w := true, f := true } false o n with
      | some st => .stop w st k (k / 4096)
      | none =>
        let w := w.setFull l o (x.mode == 1) true
        x.bitsFrom l fuel (if copyBoundary (k + n) then w.unitDone else w) (k + n)

/-- cpprf and cpwb (R301), line by line of a device source range. Of a line that the range covers in part, cpwb with MODE 1 drops the
range's bytes (log 84: what "drops clean lines" says of such a line is the model's choice). -/
def Xfer.linesFrom (x : Xfer) (cap : Cap) : Nat → Work → Nat → Went
  | 0, w, _ => .over w
  | fuel + 1, w, k =>
    if x.len ≤ k then .over w
    else if w.out && copyBoundary k then .rests w k
    else
      let o := (x.word 0).toNat + k
      let off := cap.base + o
      let n := min (min (x.len - k) (64 - off % 64)) (copyRoom k)
      let key := byteKey cap.id off
      let next := fun (w : Work) => if copyBoundary (k + n) then w.unitDone else w
      if x.code = 0xF4 then
        let ok := x.mode == 1 && (w.s.copyMiss x.c (.dev cap) { r := true } false o n).isNone
        x.linesFrom cap fuel (next (if ok then { w with s := w.s.fetchLine x.c (key / 64) } else w)) (k + n)
      else match w.s.copyMiss x.c (.dev cap) {} false o n with
        | some st => .stop w st k (k / 4096)
        | none =>
          let s := w.s.flushKeys x.c ((List.range n).map (key + ·))
          let s := if x.mode = 1 then s.modLcore x.c fun l => l.dropRange cap.id off n else s
          x.linesFrom cap fuel (next { w with s := s }) (k + n)

/-- cpsig (R301): a write of word 0, waiting while the word is full when it is a filling one. -/
def Xfer.signal (x : Xfer) (l : Loc) (w : Work) : Went :=
  let o := (x.word 1).toNat
  match w.s.copyMiss x.c l { w := true, f := x.mode != 0 } true o 8 with
    | some st => .stop w st 0 0
    | none =>
      if x.mode = 2 ∧ w.s.engineFull l o then .waits w 0
      else
        let w := w.write x.c l o (leBytes 8 (x.word 0).toNat) false 0
        .over (if x.mode = 0 then w else { w with s := (w.s.payLines x.c).setEngineFull l o true })

/-- The effect of a command whose entry and descriptor are in order (R301). A cpprf or cpwb whose source space is not device memory
names no line, does nothing and ends Done (log 84: the model's choice). -/
def Xfer.go (x : Xfer) (w : Work) (prog : Nat) : Went :=
  match x.code with
  | 0xF4 | 0xF5 =>
    match x.src with
    | some (.dev cap) => x.linesFrom cap (x.len + 1) w prog
    | _ => .over w
  | 0xF2 =>
    match x.dst with
    | some l => x.bitsFrom l (x.len + 1) w prog
    | none => .over w
  | 0xF6 =>
    match x.dst with
    | some l => x.signal l { w with ws := [] }
    | none => .over w
  | _ =>
    match x.dst with
    | some l => x.transfer l w prog
    | none => .over w

/-- Completion record and response entry (R304). A record that would lie in the journal range is out of the local store
(R341). -/
def copyEnd (c : Nat) (cmd : Cmd) (d : List Word) (w : Work) (status off granules : Nat) : CmdRes :=
  let st := if status = 0 ∧ w.poisoned ≠ 0 then 0x01 else status
  let cen := (d.getD 3 0).getLsbD 63
  let cwoff := (d.getD 3 0).bits 18 0
  let give := cen && st != 0x10
  if give && w.s.queuePresent c 1 && w.s.inJournal c cwoff 16 then
    .fault w.s (cmd.response (if 0x10 ≤ st then st else 0x12) granules)
  else
    let s := if give then
        w.s.record c cwoff (st * 2 ^ 56 + w.poisoned % 2 ^ 32) (w.first.getD off)
      else w.s
    if 0x10 ≤ st then .fault s (cmd.response st granules)
    else .done s (if cmd.respond then some (cmd.response st w.poisoned) else none)

/-- The transfer bytes that a command has moved, from its progress (R302, R306). -/
def Xfer.moved (x : Xfer) (l : Loc) (prog : Nat) : List Nat :=
  if x.fem = 3 then List.range prog else x.bytesOf ((x.granules l).take prog)
/-- After a resume from an image, which carries the number of granules that the command had poisoned and no list of them: those of its
destination that it has written and that are poisoned, that many at most, each to be counted once (R303; log 117). -/
def Xfer.resume (x : Xfer) (w : Work) (prog : Nat) : Work :=
  match w.relist, x.dst with
  | true, some l =>
    let ts := (x.moved l prog).filter fun t => w.s.enginePoison l (x.dstAt t) 1
    let gs := (dedup (ts.map fun t => w.s.granule l (x.dstAt t))).take w.more
    { w with bad := gs, more := w.more - gs.length, relist := false }
  | _, _ => w

/-- A command with its two sides. -/
def State.xfer (s : State) (c : Nat) (cmd : Cmd) (d : List Word) : Xfer :=
  let e := cmd.entry
  let side := fun (used : Bool) (sp peer i : Nat) => if used then some (s.copySide c sp peer (cmd.capN i)) else none
  ⟨c, cmd.code, cmd.mode, d, side (copySrc cmd.code) (e.bits 21 20) ((d.getD 4 0).bits 8 0) 0,
    side (copyDst cmd.code) (e.bits 27 26) ((d.getD 4 0).bits 56 48) 1⟩

/-- A copy command from its start, or from its progress (R299-R306). -/
def copyWork (c : Nat) (cmd : Cmd) (prog : Nat) (w : Work) : CmdRes :=
  match w.descriptor c cmd with
  | none => .fault w.s (cmd.response 0x15 0)
  | some d =>
    if copyMalformed cmd.code cmd.entry d then .fault w.s (cmd.response 0x10 0)
    else
      let x := w.s.xfer c cmd d
      match x.go (x.resume w prog) prog with
      | .over w => copyEnd c cmd d w 0 (2 ^ 64 - 1) ((x.total + 4095) / 4096)
      | .stop w st off gr => copyEnd c cmd d w.landed st off gr
      | .waits w prog => .wait { w with desc := d } true prog
      | .rests w prog => .wait { w with desc := d } false prog

/-- cpcopy (R301, R302). -/
def execCpcopyCommand (c : Nat) (s : State) : Out := s.runCommand c 0 0xF0 (copyWork c)
/-- cpset (R301). -/
def execCpsetCommand (c : Nat) (s : State) : Out := s.runCommand c 0 0xF1 (copyWork c)
/-- cpfe (R301). -/
def execCpfeCommand (c : Nat) (s : State) : Out := s.runCommand c 0 0xF2 (copyWork c)
/-- cpstride (R301, R302). -/
def execCpstrideCommand (c : Nat) (s : State) : Out := s.runCommand c 0 0xF3 (copyWork c)
/-- cpprf (R301): a prefetch, with nothing visible. -/
def execCpprfCommand (c : Nat) (s : State) : Out := s.runCommand c 0 0xF4 (copyWork c)
/-- cpwb (R301). -/
def execCpwbCommand (c : Nat) (s : State) : Out := s.runCommand c 0 0xF5 (copyWork c)
/-- cpsig (R301). -/
def execCpsigCommand (c : Nat) (s : State) : Out := s.runCommand c 0 0xF6 (copyWork c)

end Sys2Proof.Machine
end

