-- ==== Sys2Proof/Machine/Gather.lean ====
section
/-! DEFINITION. The gather-scatter engine (R359-R378): queue 4's commands. -/

namespace Sys2Proof.Machine

/-- A gather-scatter command at work (R361, R362): its fields and operands, the machine, and how far it has come (R380). -/
structure Gs where
  c : Nat
  code : Nat
  mode : Nat
  d : List Word
  a : Option Loc
  b : Option Loc
  cc : Option Loc
  w : Work
  p : Progress := {}
  deriving DecidableEq, Repr

/-- How a command stopped: its state, STATUS, and the element index. -/
abbrev GsRes := Except (Gs × Nat × Nat) Gs
/-- No element index. -/
def noIndex : Nat := 2 ^ 64 - 1

def Gs.word (g : Gs) (i : Nat) : Word := g.d.getD i 0
def Gs.aOff (g : Gs) : Nat := (g.word 0).toNat
def Gs.bOff (g : Gs) : Nat := (g.word 1).toNat
def Gs.cOff (g : Gs) : Nat := (g.word 2).toNat
def Gs.cnt (g : Gs) : Nat := (g.word 3).bits 31 0
def Gs.x (g : Gs) : Nat := (g.word 3).bits 63 32
def Gs.log2 (g : Gs) : Nat := (g.word 4).bits 4 0
def Gs.seed (g : Gs) : Nat := (g.word 4).bits 63 32
def Gs.dStride (g : Gs) : Nat := (g.word 4).bits 63 32
def Gs.sStride (g : Gs) : Nat := (g.word 4).bits 31 0
def Gs.p2lo (g : Gs) : Nat := (g.word 5).bits 31 0
def Gs.p2hi (g : Gs) : Nat := (g.word 5).bits 63 32
def Gs.setState (g : Gs) (s : State) : Gs := { g with w := { g.w with s := s } }
/-- The next element, and the next but one. -/
def Gs.i (g : Gs) : Nat := g.p.unit
def Gs.next (g : Gs) (counted : Nat) : Gs := { g with p := { g.p with unit := g.p.unit + 1, pos := 0, res := g.p.res + counted } }
/-- The next position within the element (R380). -/
def Gs.step (g : Gs) : Gs := { g with p := { g.p with pos := g.p.pos + 1 } }
def Gs.addFlags (g : Gs) (fl : Num.Flags) : Gs := { g with p := { g.p with flags := g.p.flags ||| fl.toNat } }

/-- Operands a command uses (R362). -/
def gsUses (code mode : Nat) : Bool × Bool × Bool :=
  match code with
  | 0xE0 => (true, true, true)
  | 0xE1 => (true, true, mode % 2 == 1)
  | 0xE2 => (true, false, false)
  | 0xE7 => (true, true, false)
  | _ => (true, true, true)
/-- Rights of operands A, B and C (R362). -/
def gsNeed (code i : Nat) : Need :=
  match code, i with
  | 0xE0, 2 => { w := true }
  | 0xE1, 0 => { r := true, w := true, a := true }
  | 0xE2, 0 => { w := true }
  | 0xE3, 1 => { w := true }
  | 0xE4, 1 => { w := true, a := true }
  | 0xE5, 2 => { w := true }
  | 0xE6, 2 => { w := true }
  | 0xE7, 1 => { w := true }
  | _, _ => { r := true }
def gsTable (code : Nat) : Bool := code == 0xE0 || code == 0xE1 || code == 0xE2 || code == 0xE5
/-- An MX add kind (R362, R370). -/
def Gs.kind (g : Gs) : Nat := g.mode / 4
def Gs.isMxAdd (g : Gs) : Bool := g.code == 0xE4 && (g.kind == 4 || g.kind == 5)

/-- Fields an unused operand must leave zero, or a local-store operand (R360, R362). -/
def operandBad (used : Bool) (field : Nat) (ls : Bool) : Bool := (field != 0 || ls) && !(used && (field == 0 || !ls))

/-- STATUS 0x10 (R361-R363). For gsrules the count area is held against the whole span of the lists, before any write (R371; log 129: the
model's choice). -/
def gsMalformed (g : Gs) (e : Word) : Bool :=
  let u := gsUses g.code g.mode
  let sp := g.word 6
  let x := g.x
  let p1hi := (g.word 4).bits 63 32
  let p2 := (g.word 5).toNat
  e.getLsbD 19 || decide (0xFF_FFFF < g.cnt)
    || (g.word 7).bits 62 19 != 0 || (g.word 7).bits 3 0 != 0
    || sp.bits 33 3 != 0 || (g.code != 0xE5 && sp.bits 63 34 != 0)
    || operandBad u.1 (e.bits 31 28) (sp.getLsbD 0)
    || operandBad u.2.1 (e.bits 27 24) (sp.getLsbD 1)
    || operandBad u.2.2 (e.bits 23 20) (sp.getLsbD 2)
    || (gsTable g.code && ((g.word 4).bits 31 5 != 0 || decide (g.log2 < 4) || decide (24 < g.log2)))
    || (match g.code with
      | 0xE0 => x != 0 || g.mode != 0 || p2 != 0
      | 0xE1 => x != 0 || decide (3 < g.mode) || g.p2hi != 0
      | 0xE2 => x != 0 || g.mode != 0 || p2 != 0 || g.cnt != 0
      | 0xE3 => decide (2 < g.mode) || g.p2lo == 0 || g.p2hi != 0 || x % 8 != 0 || decide (x < 8) || decide (4096 < x)
      | 0xE4 => g.mode % 4 == 3 || decide (5 < g.kind) || g.p2lo == 0
          || (if g.isMxAdd then x % 32 != 0 || decide (x < 32) || decide (1024 < x)
              else g.p2hi != 0 || x % 8 != 0 || decide (x < 8) || decide (4096 < x))
      | 0xE5 => g.mode != 0 || !(x == 1 || x == 3 || x == 5) || g.p2lo == 0 || g.p2lo % 8 != 0
          || (decide (g.cOff + g.p2hi < g.cOff + x ^ 3 * g.p2lo) && decide (g.cOff < g.cOff + g.p2hi + 8 * x ^ 3))
      | 0xE6 => x != 0 || decide (15 < g.mode) || (g.word 4) != 0 || p2 != 0
      | _ => !(x == 4 || x == 8 || x == 16) || g.mode != 0 || p1hi != 0 || p2 != 0)

/-- STATUS 0x14 (R363). -/
def gsMisaligned (g : Gs) : Bool :=
  let a := fun (n x : Nat) => x % n != 0
  let tab := gsTable g.code && a 8 g.aOff
  let idx := if g.mode % 4 = 0 then 4 else 8
  tab || (match g.code with
    | 0xE0 => a 4 g.bOff || a 4 g.cOff
    | 0xE1 => a 4 g.bOff || (g.mode % 2 == 1 && a 4 g.cOff)
    | 0xE2 => false
    | 0xE3 => a idx g.cOff
    | 0xE4 =>
      let dn := if g.kind = 3 then 64 else if g.kind = 2 then 8 else 4
      a idx g.cOff || a dn g.bOff || a dn g.dStride
        || (!g.isMxAdd && (a (if g.kind = 2 then 8 else 4) g.aOff || a (if g.kind = 2 then 8 else 4) g.sStride))
    | 0xE5 => a 4 g.bOff || a 8 g.cOff || a 8 g.p2hi
    | 0xE6 => let n := if g.mode % 2 = 1 then 8 else 4; a n g.aOff || a 4 g.bOff || a n g.cOff
    | _ => a g.x g.aOff || a g.x g.bOff)

/-- STATUS of an access (R377). -/
def Miss.gs : Miss → Nat
  | .cap => 0x11
  | .range => 0x12
  | .page => 0x13

/-- Ranges a command reads and writes: operand, offset, length (R362). gsinsert and gsscadd read and write at the home element by
element (R374). The elements of gssegsum may lie anywhere from AOFF on. -/
def Gs.reads (g : Gs) : List (Option Loc × Nat × Nat) :=
  match g.code with
  | 0xE0 | 0xE5 => [(g.a, g.aOff, 8 * 2 ^ g.log2), (g.b, g.bOff, 4 * g.cnt)]
  | 0xE3 => [(g.a, g.aOff, (g.p2lo - 1) * g.sStride + g.x), (g.cc, g.cOff, 8 * g.cnt)]
  | 0xE6 => [(g.a, g.aOff, 2 ^ 64), (g.b, g.bOff, 4 * g.cnt + 4)]
  | 0xE7 => [(g.a, g.aOff, g.x * g.cnt)]
  | _ => []
def Gs.writes (g : Gs) : List (Option Loc × Nat × Nat) :=
  match g.code with
  | 0xE0 => [(g.cc, g.cOff, 4 * g.cnt)]
  | 0xE3 => [(g.b, g.bOff, (g.cnt - 1) * g.dStride + g.x)]
  | 0xE5 => [(g.cc, g.cOff, g.x ^ 3 * g.p2lo), (g.cc, g.cOff + g.p2hi, 8 * g.x ^ 3)]
  | 0xE6 => [(g.cc, g.cOff, 8 * g.cnt)]
  | 0xE7 => [(g.b, g.bOff, g.x * g.cnt)]
  | _ => []
/-- What a command writes may overlap what it reads: it then holds what its writes replace (R374). -/
def Gs.overlaps (g : Gs) : Bool :=
  g.reads.any fun a => g.writes.any fun b => match a.1, b.1 with
    | some l, some m => l.same m && decide (l.pos a.2.1 < m.pos b.2.1 + b.2.2) && decide (m.pos b.2.1 < l.pos a.2.1 + a.2.2)
    | _, _ => false
/-- A position in a buffer or a local store, as a key of its own. -/
def Loc.key (l : Loc) (p : Nat) : Nat :=
  match l with
  | .dev cap => byteKey cap.id p
  | .ls k => 2 ^ 64 + k * 2 ^ 20 + p
  | .host cap => 2 ^ 96 + byteKey cap.id p
/-- The operand whose offsets are positions. -/
def Loc.whole : Loc → Loc
  | .dev cap => .dev (BitVec.ofNat 128 (putBits cap.toNat 39 0 0))
  | l => l
/-- Bytes that a command reads, each with whether its granule is poisoned: where the command has written, what stood there before
(R374); some of them it may have read early (R43). -/
def Gs.seen (g : Gs) (es : List Early) (l : Loc) (o : Nat) (bs : List Byte) : List (Byte × Bool) :=
  let bad := g.w.s.enginePoison l o bs.length
  bs.zipIdx.map fun e =>
    let fresh := (e.1, bad && g.w.s.enginePoison l (o + e.2) 1)
    let now := match Early.at_ es ((g.w.s.locSpot l (l.pos o)).plus e.2) with
      | some k => (k.b, k.poison)
      | none => fresh
    if g.w.held = [] then now
    else match g.w.held.get none (l.key (l.pos o + e.2)) with
      | some k => (k.b, k.poison)
      | none => now
/-- What a write of the command replaces is held until the command ends; a poisoned write replaces whole granules (R277, R374). -/
def Gs.keepOld (g : Gs) (l : Loc) (o : Nat) (bs : List (Byte × Bool)) : Gs :=
  if !g.overlaps then g
  else
    let u := if bs.any Prod.snd then 32 else 1
    let lo := l.pos o / u * u
    let hi := (l.pos o + bs.length + u - 1) / u * u
    let old := g.w.s.engineRead g.c l.whole lo (hi - lo)
    { g with w := { g.w with held := old.1.zipIdx.foldl (fun t e =>
        let k := l.key (lo + e.2)
        if (t.get none k).isSome then t else t.set none k (some ⟨e.1, g.w.s.enginePoison l.whole (lo + e.2) 1, true⟩)) g.w.held } }

/-- A plain read of n bytes (R374, R378): bytes, each marked when its granule is poisoned, and the command whose core's L1 has made the
read; or a STATUS. Offsets are unbounded (R9). -/
def Gs.read (g : Gs) (i : Nat) (l : Option Loc) (o n : Nat) : Except (Gs × Nat) (List (Byte × Bool) × Gs) :=
  match l with
  | none => .error (g, 0x10)
  | some l =>
    match g.w.s.reach g.c l (gsNeed g.code i) o n with
    | some m => .error (g, m.gs)
    | none =>
      let (bs, s) := g.w.s.engineRead g.c l o n
      .ok (g.seen g.w.es l o bs, g.setState s)
/-- A word that decides something: poison stops the command (R375). -/
def Gs.key (g : Gs) (i : Nat) (l : Option Loc) (o n : Nat) : Except (Gs × Nat) (Nat × Gs) :=
  match g.read i l o n with
  | .error x => .error x
  | .ok (bs, g) => if bs.any Prod.snd then .error (g, 0x18) else .ok (leNat (bs.map Prod.fst), g)
/-- A plain write at the home (R378), bytes marked when formed from poison; `t` is the element index. -/
def Gs.write (g : Gs) (i : Nat) (l : Option Loc) (o : Nat) (bs : List (Byte × Bool)) (t : Nat) : Except (Gs × Nat) Gs :=
  match l with
  | none => .error (g, 0x10)
  | some l =>
    match g.w.s.reach g.c l (gsNeed g.code i) o bs.length with
    | some m => .error (g, m.gs)
    | none =>
      let g := g.keepOld l o bs
      .ok { g with w := g.w.writeMarked g.c l o bs t }
def clean (bs : List Byte) : List (Byte × Bool) := bs.map fun b => (b, false)

/-- A result of an element, as a stop with its index: what was done before the failing access stands (R377). -/
def atElem {α : Type} (i : Nat) (r : Except (Gs × Nat) α) : Except (Gs × Nat × Nat) α :=
  match r with
  | .error (g, st) => .error (g, st, i)
  | .ok x => .ok x

-- Hash tables (R364-R368).

/-- The home slot of a key (R364). -/
def gsHash (k seed log2 : Nat) : Nat := ((k ^^^ seed) * 0x9E37_79B1 % 2 ^ 32) >>> (32 - log2)

/-- What one slot visit finds (R365). -/
inductive Visit where
  | hit (v : Nat) | empty | other
  deriving DecidableEq, Repr

/-- Slot t of the walk for key k (R364, R365). -/
def Gs.slot (g : Gs) (k t : Nat) : Nat := (gsHash k g.seed g.log2 + t) % 2 ^ g.log2

/-- One slot visit, at the home of slot j, after the L1's write-back (R56, R365, R378); a claim writes an empty slot in the same
operation, and works on the machine itself. -/
def Gs.visit (g : Gs) (k j : Nat) (claim : Option Nat) : Except (Gs × Nat) (Visit × Gs) :=
  match g.a with
  | none => .error (g, 0x10)
  | some l =>
    let o := g.aOff + 8 * j
    match g.w.s.reach g.c l (gsNeed g.code 0) o 8 with
    | some m => .error (g, m.gs)
    | none =>
      let g := g.setState (match l with
        | .dev cap => g.w.s.atHome g.c cap.id (cap.base + o) 8
        | _ => g.w.s)
      let bs := g.seen [] l o (g.w.s.engineHome g.c l o 8).1
      if bs.any Prod.snd then .error (g, 0x18)
      else
        let x := leNat (bs.map Prod.fst)
        if x % 2 ^ 32 = k then .ok (.hit (x / 2 ^ 32), g)
        else if x % 2 ^ 32 = 0xFFFF_FFFF then
          match claim with
          | none => .ok (.empty, g)
          | some v => .ok (.empty, g.setState (g.w.s.engineWrite g.c l o (leBytes 8 (v * 2 ^ 32 + k))))
        else .ok (.other, g)

/-- find of R365 without a claim, from slot t of the walk over at most `fuel` slots: the value, when the walk ends in HIT. -/
def Gs.find (k : Nat) : Nat → Gs → Nat → Except (Gs × Nat) (Option Nat × Gs)
  | 0, g, _ => .ok (none, g)
  | fuel + 1, g, t =>
    match g.visit k (g.slot k t) none with
    | .error x => .error x
    | .ok (.hit v, g) => .ok (some v, g)
    | .ok (.empty, g) => .ok (none, g)
    | .ok (.other, g) => Gs.find k fuel g (t + 1)

/-- gsprobe (R368): the next key. -/
def Gs.probe (g : Gs) : GsRes := do
  let i := g.i
  let (k, g) ← atElem i (g.key 1 g.b (g.bOff + 4 * i) 4)
  let (v, g) ← if k = 0xFFFF_FFFF then .ok (none, g) else atElem i (Gs.find k (2 ^ g.log2) g 0)
  let g ← atElem i (g.write 2 g.cc (g.cOff + 4 * i) (clean (leBytes 4 (v.getD 0xFFFF_FFFF))) i)
  .ok (g.next (if v.isSome then 1 else 0))

/-- gsinsert (R367): the next slot visit of the next key. Every visit reads the key and the value again, since the progress record holds
neither (R380; log 147: the model's choice). -/
def Gs.insert (g : Gs) : GsRes := do
  let i := g.i
  let (k, g) ← atElem i (g.key 1 g.b (g.bOff + 4 * i) 4)
  let (v, g) ← if g.mode % 2 = 1 then atElem i (g.key 2 g.cc (g.cOff + 4 * i) 4) else .ok ((g.p2lo + i) % 2 ^ 32, g)
  if k = 0xFFFF_FFFF then .ok (g.next 0)
  else
    let j := g.slot k g.p.pos
    let (r, g) ← atElem i (g.visit k j (some v))
    match r, g.a with
    | .empty, _ => .ok (g.next 1)
    | .hit _, some l =>
      .ok ((if g.mode / 2 % 2 = 1 then g.setState (g.w.s.engineWrite g.c l (g.aOff + 8 * j + 4) (leBytes 4 v)) else g).next 0)
    | .hit _, none => .ok (g.next 0)
    | .other, _ => if 2 ^ g.log2 ≤ g.p.pos + 1 then .error (g, 0x16, i) else .ok g.step

/-- gsclear (R366): the next slot, in ascending order. -/
def Gs.clearSlot (g : Gs) : GsRes := do
  let j := g.i
  let g ← atElem j (g.write 0 g.a (g.aOff + 8 * j) (clean (leBytes 8 0xFFFF_FFFF)) j)
  .ok (g.next 1)

-- Rows (R369, R370).

/-- Index entry i (R362). -/
def Gs.index (g : Gs) (i : Nat) : Except (Gs × Nat) (Nat × Gs) :=
  match g.mode % 4 with
  | 0 => g.key 2 g.cc (g.cOff + 4 * i) 4
  | 2 => (g.key 2 g.cc (g.cOff + 8 * i) 8).map fun x => (x.1 / 2 ^ 32, x.2)
  | _ => (g.key 2 g.cc (g.cOff + 8 * i) 8).map fun x => (x.1 % 2 ^ 32, x.2)

/-- gsgather (R369): the next row. -/
def Gs.gatherRow (g : Gs) : GsRes := do
  let i := g.i
  let (x, g) ← atElem i (g.index i)
  let (row, g) ← if x = 0xFFFF_FFFF then .ok (List.replicate g.x ((0 : Byte), false), g)
    else if g.p2lo ≤ x then .error (g, 0x12, i)
    else atElem i (g.read 0 g.a (g.aOff + x * g.sStride) g.x)
  let g ← atElem i (g.write 1 g.b (g.bOff + i * g.dStride) row i)
  .ok (g.next 1)

/-- Adding one element into its destination at the home (R95, R92, R370): new contents and flags. -/
def addInto (kind : Nat) (old x : Nat) : Nat × Num.Flags :=
  match kind with
  | 0 => let r := Num.fadd .f32 .rne old x; (r.code, r.fl)
  | 1 => ((old + x) % 2 ^ 32, 0)
  | 2 => ((old + x) % 2 ^ 64, 0)
  | 3 => (wrapN 512 ((old : Int) + Num.cellAddend 160 (Num.decode .f32 x)), 0)
  | _ => (old, 0)
/-- An element that is not sent, with the flags it sets: ±0, an infinity or a NaN toward a cell (R95, R370). -/
def unsentElem (kind x : Nat) : Option Num.Flags :=
  let v := Num.decode .f32 x
  if kind ≠ 3 then none else if v.isNan || v.isInf then some Num.NV else if v.isZero then some 0 else none
/-- The MX form of R92: the element decoded with its scale, rounded to FP32, then added. -/
def addMx (e5 : Bool) (old code scale : Nat) : Nat × Num.Flags :=
  let t := Num.conv .f32 .rne (Num.applyE8M0 scale (Num.decode (if e5 then .e5m2 else .e4m3) code))
  let r := Num.fadd .f32 .rne t.code old
  (r.code, t.fl ||| r.fl)

/-- One element of a row of gsscadd: its distance from the row's base, its bytes there, whether its source is poisoned, the flags it
sets when it is not sent, and its addition. -/
structure AddElem where
  at_ : Nat
  n : Nat
  bad : Bool
  unsent : Option Num.Flags
  add : Nat → Nat × Num.Flags

/-- One addition of gsscadd; an element that is not sent makes no access. A poisoned source, or a poisoned destination granule, poisons
the destination granules (R277, R375). -/
def Gs.addElem (g : Gs) (i base : Nat) (e : AddElem) : Except (Gs × Nat) Gs :=
  match g.b, e.bad, e.unsent with
  | none, _, _ => .error (g, 0x10)
  | some _, false, some fl => .ok (g.addFlags fl)
  | some l, bad, _ =>
    let o := base + e.at_
    match g.w.s.reach g.c l (gsNeed g.code 1) o e.n with
    | some m => .error (g, m.gs)
    | none =>
      if bad || g.w.s.enginePoison l o e.n then
        .ok { g with w := g.w.writeMarked g.c l o (List.replicate e.n (0, true)) i }
      else
        let (bs, s) := g.w.s.engineHome g.c l o e.n
        let (v, fl) := e.add (leNat bs)
        .ok ((g.setState (s.engineWrite g.c l o (leBytes e.n v))).addFlags fl)

/-- The elements of a row, in ascending order. The elements before one that fails stand (R377). -/
def Gs.addRow (i base : Nat) : Gs → List AddElem → GsRes
  | g, [] => .ok g
  | g, e :: es =>
    match g.addElem i base e with
    | .error (g, st) => .error (g, st, i)
    | .ok g => Gs.addRow i base g es

/-- gsscadd (R370): the next row. -/
def Gs.scatterRow (g : Gs) : GsRes := do
  let i := g.i
  let (x, g) ← atElem i (g.index i)
  if x = 0xFFFF_FFFF then .ok (g.next 0)
  else if g.p2lo ≤ x then .error (g, 0x12, i)
  else
    let (row, g) ← atElem i (g.read 0 g.a (g.aOff + i * g.sStride) g.x)
    let (scales, g) ← if g.isMxAdd
      then atElem i (g.read 0 g.a (g.aOff + g.p2hi + i * (g.x / 32)) (g.x / 32)) else .ok ([], g)
    let es : List AddElem := if g.isMxAdd then
        row.zipIdx.map fun e =>
          let sc := scales.getD (e.2 / 32) (0, false)
          ⟨4 * e.2, 4, e.1.2 || sc.2, none, fun old => addMx (g.kind == 5) old e.1.1.toNat sc.1.toNat⟩
      else
        let u := if g.kind = 2 then 8 else 4
        (List.range (g.x / u)).map fun j =>
          let bs := (row.drop (j * u)).take u
          let v := leNat (bs.map Prod.fst)
          ⟨if g.kind = 3 then 64 * j else u * j, if g.kind = 3 then 64 else u, bs.any Prod.snd, unsentElem g.kind v,
            fun old => addInto g.kind old v⟩
    let g ← Gs.addRow i (g.bOff + x * g.dStride) g es
    .ok (g.next 1)

-- Rules, sums, compaction (R371-R373).

/-- gsrules (R371): the next (voxel, offset) step; the position is the offset q, and the pairs of each offset are counted;
RESULT counts them as they are written, so a stop reports those so far (log 145: the model's choice). Every step reads the coordinate
again (log 147). -/
def Gs.rule (g : Gs) : GsRes := do
  let (i, q, K) := (g.i, g.p.pos, g.x)
  let sp := g.word 6
  let (k, g) ← atElem i (g.key 1 g.b (g.bOff + 4 * i) 4)
  let (x, y, z) := (bits k 9 0, bits k 19 10, bits k 29 20)
  if bits k 31 30 ≠ 0 ∨ sp.bits 43 34 < x ∨ sp.bits 53 44 < y ∨ sp.bits 63 54 < z then .error (g, 0x17, i)
  else
    let r : Int := ((K - 1) / 2 : Nat)
    let px : Int := (x : Int) + (q % K : Nat) - r
    let py : Int := (y : Int) + (q / K % K : Nat) - r
    let pz : Int := (z : Int) + (q / (K * K) : Nat) - r
    let inGrid := decide (0 ≤ px ∧ px ≤ (sp.bits 43 34 : Nat) ∧ 0 ≤ py ∧ py ≤ (sp.bits 53 44 : Nat) ∧ 0 ≤ pz ∧
      pz ≤ (sp.bits 63 54 : Nat))
    let (v, g) ← if inGrid then
        atElem i (Gs.find (px.toNat + 1024 * py.toNat + 1048576 * pz.toNat) (2 ^ g.log2) g 0) else .ok (none, g)
    let n := g.p.counts.getD q 0
    let g ← match v with
      | none => .ok g
      | some v =>
        if g.p2lo < 8 * (n + 1) then .error (g, 0x16, i)
        else do
          let g ← atElem i (g.write 2 g.cc (g.cOff + q * g.p2lo + 8 * n) (clean (leBytes 8 (i * 2 ^ 32 + v))) i)
          .ok { g with p := { g.p with counts := g.p.counts.set q (n + 1), res := g.p.res + 1 } }
    .ok (if q + 1 = K ^ 3 then g.next 0 else g.step)

/-- The counts are written at completion, all or none (R371). -/
def Gs.counts (g : Gs) : GsRes :=
  let at_ : Nat → Nat := fun q => g.cOff + g.p2hi + 8 * q
  let miss : Option (Nat × Nat) := g.p.counts.zipIdx.findSome? fun e => match g.cc with
    | none => some (0x10, e.2)
    | some l => (g.w.s.reach g.c l (gsNeed g.code 2) (at_ e.2) 8).map fun m => (m.gs, e.2)
  match miss with
  | some (st, _) => .error (g, st, noIndex)
  | none => g.p.counts.zipIdx.foldlM (fun g e => atElem noIndex (g.write 2 g.cc (at_ e.2) (clean (leBytes 8 e.1)) e.2)) g

/-- Type of gssegsum (R362). -/
def Gs.segTy (g : Gs) : Ty :=
  match g.mode % 4 with
  | 0 => .f32
  | 1 => .f64
  | 2 => .i32
  | _ => .i64
def segWeight (t : Ty) : Int := if t = .f64 then 1088 else 160
/-- The bits of `sumKind`: some element, a NaN, a signaling NaN, +∞, −∞, an element other than −0. -/
def segKind (v : Num.Val) : Nat :=
  1 + (if v.isNan then 2 else 0) + (if Num.snanFl [v] = 0 then 0 else 4) + (if v.isInf && !v.neg? then 8 else 0)
    + (if v.isInf && v.neg? then 16 else 0) + (if v.isZero && v.neg? then 0 else 32)
/-- Elements added to the sum of a segment (R372): exactly, as a cell of R93 or R94, or modulo 2^w. -/
def Progress.addCodes (p : Progress) (t : Ty) (xs : List Nat) : Progress :=
  if t.isFloat then
    let vs := xs.map (Num.decode t)
    let fin := vs.filter fun v => !(v.isNan || v.isInf)
    let z := sextN 4096 p.sum + (fin.map (Num.cellAddend (segWeight t))).sum
    { p with sumKind := vs.foldl (fun k v => k ||| segKind v) p.sumKind, sum := wrapN 4096 z }
  else { p with sum := (p.sum + xs.sum) % 2 ^ t.width }
/-- The rounded sum of a segment (R97, R101, R372). -/
def Progress.segSum (p : Progress) (t : Ty) (mode : Num.Mode) : Num.Res :=
  if t.isFloat then
    let has : Nat → Bool := fun b => p.sumKind.testBit b
    let z := sextN 4096 p.sum
    let (v, f) : Num.Val × Num.Flags :=
      if has 1 then (.nan false, 0)
      else if has 3 && has 4 then (.nan false, Num.NV)
      else if has 3 then (.inf false, 0)
      else if has 4 then (.inf true, 0)
      else if z ≠ 0 then (.num (decide (z < 0)) z.natAbs (-(segWeight t)), 0)
      else if has 0 && !has 5 then (.num true 0 0, 0)
      else (.num (has 0 && decide (mode = .rdn)) 0 0, 0)
    Num.fin t mode v (f ||| (if has 2 then Num.NV else 0))
  else ⟨p.sum % 2 ^ t.width, 0⟩

/-- gssegsum (R372): the next 512 bytes of the next segment, counted from the segment's start (log 146), its start and end read again at
each (log 147); the position counts the elements summed. The model's choices: a fault names the
segment and poison the element (log 128), and the flags of a segment with a poisoned element are not gathered (log 132). -/
def Gs.segment (g : Gs) : GsRes := do
  let i := g.i
  let (lo, g) ← atElem i (g.key 1 g.b (g.bOff + 4 * i) 4)
  let (hi, g) ← atElem i (g.key 1 g.b (g.bOff + 4 * i + 4) 4)
  if hi < lo then .error (g, 0x17, i)
  else
    let t := g.segTy
    let u := t.width / 8
    let n := min (512 / u) (hi - lo - g.p.pos)
    let from_ := lo + g.p.pos
    let (bs, g) ← if n = 0 then .ok ([], g) else atElem i (g.read 0 g.a (g.aOff + u * from_) (u * n))
    let x := leNat (bs.map Prod.fst)
    let p := g.p.addCodes t ((List.range n).map fun j => x / 2 ^ (t.width * j) % 2 ^ t.width)
    let p := { p with pos := p.pos + n, poisoned := p.poisoned.or ((bs.findIdx? Prod.snd).map fun j => from_ + j / u) }
    let g := { g with p := p }
    if p.pos < hi - lo then .ok g
    else
      let r := p.segSum t (Num.Mode.ofBits (g.mode / 4))
      let bad := p.poisoned.isSome
      let g ← atElem i (g.write 2 g.cc (g.cOff + u * i) ((leBytes u r.code).map fun b => (b, bad)) (p.poisoned.getD i))
      let g := (if bad then g else g.addFlags r.fl).next 1
      .ok { g with p := { g.p with sumKind := 0, sum := 0, poisoned := none } }
/-- gssegsum of no segment reads its one start (R372). -/
def Gs.loneStart (g : Gs) : GsRes := (atElem 0 (g.key 1 g.b g.bOff 4)).map Prod.snd

/-- gscompact (R373): the next element; of one that lies in a poisoned granule the bytes under the poison are compared (log 131: the model's
choice). -/
def Gs.compact (g : Gs) : GsRes := do
  let i := g.i
  let (e, g) ← atElem i (g.read 0 g.a (g.aOff + g.x * i) g.x)
  if leNat ((e.map Prod.fst).take 4) = (g.word 4).bits 31 0 then .ok (g.next 0)
  else
    let bad := e.any Prod.snd
    let g ← atElem i (g.write 1 g.b (g.bOff + g.x * g.p.res) (e.map fun b => (b.1, bad)) i)
    .ok (g.next 1)

/-- The next unit of a command (R380). -/
def Gs.unit (g : Gs) : GsRes :=
  match g.code with
  | 0xE0 => g.probe
  | 0xE1 => g.insert
  | 0xE2 => g.clearSlot
  | 0xE3 => g.gatherRow
  | 0xE4 => g.scatterRow
  | 0xE5 => g.rule
  | 0xE6 => g.segment
  | _ => g.compact
/-- The elements of a command, and a bound of its units. -/
def Gs.elems (g : Gs) : Nat := if g.code = 0xE2 then 2 ^ g.log2 else g.cnt
def Gs.bound (g : Gs) : Nat := g.elems * (if g.code = 0xE1 then 2 ^ g.log2 else if g.code = 0xE5 then 125 else if g.code = 0xE6 then 2 ^ 26 else 1)
/-- What a command does once its elements are done. -/
def Gs.close (g : Gs) : GsRes :=
  if g.code = 0xE5 then g.counts else if g.code = 0xE6 ∧ g.cnt = 0 then g.loneStart else .ok g

/-- Units of a command, as far as it can go or as many as it may: `fuel` bounds them. -/
def Gs.go : Nat → Gs → GsRes
  | 0, g => g.close
  | fuel + 1, g =>
    if g.elems ≤ g.i then (if g.w.parted then .ok g else Gs.close { g with w := { g.w with ws := [] } })
    else if g.w.out then .ok g
    else match g.unit with
      | .error x => .error x
      | .ok g => Gs.go fuel { g with w := g.w.unitDone }

/-- STATUS 0x11 and 0x12 at the start (R363): rights and DETAIL 0x01 to 0x03 of each operand, then the table's view. -/
def Gs.startBad (g : Gs) : Option Nat :=
  let cap := fun (i : Nat) (l : Option Loc) =>
    match l with
    | some l => (g.w.s.reach g.c l (gsNeed g.code i) 0 0) == some .cap
    | none => false
  if cap 0 g.a || cap 1 g.b || cap 2 g.cc then some 0x11
  else if gsTable g.code && (match g.a with
      | some (.dev k) => decide (k.length < g.aOff + 8 * 2 ^ g.log2)
      | _ => decide (lsSize < g.aOff + 8 * 2 ^ g.log2)) then some 0x12
  else if gsMisaligned g then some 0x14
  else none

/-- Completion record and response of an engine of queues 4 and 5 (R376, R400). -/
def engineEnd (c : Nat) (cmd : Cmd) (compl : Word) (w : Work) (status idx res : Nat) (fl : Num.Flags) : CmdRes :=
  let st := if status = 0 ∧ w.poisoned ≠ 0 then 0x01 else status
  let s := if compl.getLsbD 63 && st != 0x10 then
      w.s.record c (compl.bits 18 0) (st * 2 ^ 56 + fl.toNat * 2 ^ 51 + res % 2 ^ 32) (w.first.getD idx)
    else w.s
  if 0x10 ≤ st then .fault s (cmd.response st res)
  else .done s (if cmd.respond then some (cmd.response st res) else none)

/-- A gather-scatter command from its start, or from its progress (R361-R380). -/
def gatherWork (c : Nat) (cmd : Cmd) (prog : Nat) (w : Work) : CmdRes :=
  match w.descriptor c cmd with
  | none => .fault w.s (cmd.response 0x15 0)
  | some d =>
    let u := gsUses cmd.code cmd.mode
    let loc := fun (used : Bool) (i : Nat) =>
      if used then some (if (d.getD 6 0).getLsbD i then Loc.ls c else .dev (cmd.capN i)) else none
    let g : Gs := ⟨c, cmd.code, cmd.mode, d, loc u.1 0, loc u.2.1 1, loc u.2.2 2, w, w.mark⟩
    let g := if prog = 0 ∧ cmd.code = 0xE5 then { g with p := { counts := List.replicate (g.x ^ 3) 0 } } else g
    if gsMalformed g cmd.entry then .fault w.s (cmd.response 0x10 0)
    else match if prog = 0 then g.startBad else none with
      | some st => engineEnd c cmd (d.getD 7 0) w st noIndex 0 0
      | none =>
        match g.go (g.bound + 1) with
        | .ok g =>
          if g.i < g.elems || g.w.parted then .wait { g.w with desc := d, mark := g.p } false 1
          else engineEnd c cmd (d.getD 7 0) g.w 0 noIndex g.p.res (BitVec.ofNat 5 g.p.flags)
        | .error (g, st, i) => engineEnd c cmd (d.getD 7 0) g.w.landed st i g.p.res (BitVec.ofNat 5 g.p.flags)

/-- gsprobe (R368). -/
def execGsprobeCommand (c : Nat) (s : State) : Out := s.runCommand c 4 0xE0 (gatherWork c)
/-- gsinsert (R367). -/
def execGsinsertCommand (c : Nat) (s : State) : Out := s.runCommand c 4 0xE1 (gatherWork c)
/-- gsclear (R366). -/
def execGsclearCommand (c : Nat) (s : State) : Out := s.runCommand c 4 0xE2 (gatherWork c)
/-- gsgather (R369). -/
def execGsgatherCommand (c : Nat) (s : State) : Out := s.runCommand c 4 0xE3 (gatherWork c)
/-- gsscadd (R370). -/
def execGsscaddCommand (c : Nat) (s : State) : Out := s.runCommand c 4 0xE4 (gatherWork c)
/-- gsrules (R371). -/
def execGsrulesCommand (c : Nat) (s : State) : Out := s.runCommand c 4 0xE5 (gatherWork c)
/-- gssegsum (R372). -/
def execGssegsumCommand (c : Nat) (s : State) : Out := s.runCommand c 4 0xE6 (gatherWork c)
/-- gscompact (R373). -/
def execGscompactCommand (c : Nat) (s : State) : Out := s.runCommand c 4 0xE7 (gatherWork c)

end Sys2Proof.Machine
end

