-- ==== Sys2Proof/Machine/Select.lean ====
section
/-! DEFINITION. The select-and-order engine (R386-R401): queue 5's commands. -/

namespace Sys2Proof.Machine

/-- A select-and-order command at work (R387-R389), and how far it has come (R404). -/
structure So where
  c : Nat
  code : Nat
  mode : Nat
  d : List Word
  a : Loc
  b : Loc
  cc : Loc
  w : Work
  p : Progress := {}
  deriving DecidableEq, Repr

/-- How a command stopped: its state, STATUS, and the row. -/
abbrev SoRes := Except (So × Nat × Nat) So

def So.word (g : So) (i : Nat) : Word := g.d.getD i 0
def So.cols (g : So) : Nat := (g.word 3).bits 45 32
def So.rows (g : So) : Nat := (g.word 3).bits 23 0
def So.aStride (g : So) : Nat := (g.word 4).bits 31 0
def So.bStride (g : So) : Nat := (g.word 4).bits 63 32
def So.k (g : So) : Nat := (g.word 5).bits 45 32
def So.cStride (g : So) : Nat := (g.word 5).bits 31 0
def So.param (g : So) : Nat := (g.word 6).bits 63 32
def So.keyT (g : So) : Nat := (g.word 6).bits 12 8
def So.ty (g : So) : Ty := (Ty.ofCode (BitVec.ofNat 5 g.keyT)).getD .f32
/-- Pairs on input: somerge, or IDXIN (R389). -/
def So.pairs (g : So) : Bool :=
  g.code == 0xE9 || (decide (g.code = 0xE8 ∨ g.code = 0xEA ∨ g.code = 0xEB) && g.mode / 2 % 2 == 1)
def So.wb (g : So) : Nat := g.ty.width / 8
/-- Bytes of an entry of A, and of a row of C. -/
def So.aw (g : So) : Nat := if g.code = 0xED then g.param else if g.pairs then 8 else g.wb
def So.cw (g : So) : Nat :=
  match g.code with
  | 0xE8 => 8 * g.cols
  | 0xE9 => 8 * (g.cols + g.k)
  | 0xEC => 8
  | 0xED => g.k * g.param
  | _ => 8 * g.k
def So.usesB (g : So) : Bool := g.code != 0xE8 && g.code != 0xEA
def So.need (g : So) (i : Nat) : Need :=
  if i = 2 ∨ (i = 1 ∧ g.code = 0xEB) then { w := true } else { r := true }

/-- An operand's extent: from its offset to the last byte the command could touch (R390). -/
def extent (l : Loc) (off stride rows width : Nat) : Nat × Nat := (l.pos off, l.pos off + (rows - 1) * stride + width)
def meets (l m : Loc) (x y : Nat × Nat) : Bool := l.same m && decide (x.1 < y.2) && decide (y.1 < x.2)

/-- STATUS 0x10 (R388-R390). -/
def soMalformed (g : So) (e : Word) : Bool :=
  let sp := (g.word 6).bits 2 0
  let kOk := match g.code with
    | 0xE8 => g.k == 0
    | 0xE9 => decide (1 ≤ g.k) && decide (g.cols + g.k ≤ 8192)
    | 0xEA | 0xEB => decide (1 ≤ g.k) && decide (g.k ≤ g.cols)
    | _ => decide (1 ≤ g.k) && decide (g.k ≤ 8192)
  let tyOk := match g.code, Ty.ofCode (BitVec.ofNat 5 g.keyT) with
    | 0xED, _ => g.keyT == 0
    | 0xEC, some t => t == .f32 || t == .bf16 || t == .f16
    | _, some t => t == .f32 || t == .bf16 || t == .f16 || t == .i32 || t == .n32
    | _, none => false
  let modeOk := match g.code with
    | 0xE8 | 0xEA | 0xEB => decide (g.mode ≤ 7)
    | 0xE9 => decide (g.mode ≤ 7) && g.mode / 2 % 2 == 0
    | 0xEC => decide (g.mode ≤ 15) && g.mode % 4 == 0
    | _ => g.mode == 0
  let paramOk := match g.code with
    | 0xED => decide (8 ≤ g.param) && decide (g.param ≤ 4096) && g.param % 8 == 0
    | 0xEB => true
    | _ => g.param == 0
  let xa := extent g.a (g.word 0).toNat g.aStride g.rows (g.cols * g.aw)
  let xb := if g.code = 0xEB then extent g.b (g.word 1).toNat 4 g.rows 4
    else extent g.b (g.word 1).toNat g.bStride g.rows (8 * g.k)
  let xc := extent g.cc (g.word 2).toNat g.cStride g.rows g.cw
  e.getLsbD 19 || (g.word 3).bits 63 46 != 0 || (g.word 3).bits 31 24 != 0 || (g.word 5).bits 63 46 != 0
    || (g.word 6).bits 31 13 != 0 || (g.word 6).bits 7 3 != 0
    || (g.word 7).bits 62 19 != 0 || (g.word 7).bits 3 0 != 0
    || !modeOk || decide (g.cols < 1) || decide (8192 < g.cols) || g.rows == 0 || !kOk || !tyOk || !paramOk
    || operandBad true (e.bits 31 28) (sp % 2 == 1)
    || operandBad g.usesB (e.bits 27 24) (sp / 2 % 2 == 1)
    || operandBad true (e.bits 23 20) (sp / 4 == 1)
    || (!g.usesB && g.bStride != 0)
    || meets g.cc g.a xc xa || (g.usesB && meets g.cc g.b xc xb) || (g.code == 0xEB && meets g.b g.a xb xa)

/-- STATUS 0x14 (R390); ROWB is checked with the limits of R389. -/
def soMisaligned (g : So) : Bool :=
  let a := fun (n x : Nat) => x % n != 0
  let an := if g.pairs || g.code == 0xED then 8 else g.wb
  let cn := if g.code = 0xEC then 4 else 8
  a an (g.word 0).toNat || a an g.aStride
    || ((g.code == 0xE9 || g.code == 0xEC || g.code == 0xED) && (a 8 (g.word 1).toNat || a 8 g.bStride))
    || a cn (g.word 2).toNat || a cn g.cStride

/-- A plain read (R399), unbounded in its offset (R9): bytes, each marked when its granule is poisoned, and the command whose core's L1
has made the read; or a STATUS. -/
def So.read (g : So) (i : Nat) (l : Loc) (o n : Nat) : Except Nat (List (Byte × Bool) × So) :=
  match g.w.s.reach g.c l (g.need i) o n with
  | some m => .error m.gs
  | none =>
    let (bs, s) := g.w.s.engineRead g.c l o n
    let bad := g.w.s.enginePoison l o n
    .ok (Early.marked g.w.es (s.locSpot l (l.pos o)) (bs.zipIdx.map fun e => (e.1, bad && g.w.s.enginePoison l (o + e.2) 1)), { g with w := { g.w with s := s } })
/-- Keys, pairs and selections: poison stops the command (R400). -/
def So.keys (g : So) (i : Nat) (l : Loc) (o n : Nat) : Except Nat (Nat × So) :=
  match g.read i l o n with
  | .error st => .error st
  | .ok (bs, g) => if bs.any Prod.snd then .error 0x18 else .ok (leNat (bs.map Prod.fst), g)
/-- A count that lies in a poisoned granule stops the command (R400); it is tested with the inputs of its row (log 85). -/
def So.countBad (g : So) (r : Nat) : Bool :=
  let o := (g.word 1).toNat + 4 * r
  g.code == 0xEB && (g.w.s.reach g.c g.b (g.need 1) o 4).isNone && g.w.s.enginePoison g.b o 4
def So.write (g : So) (i : Nat) (l : Loc) (o : Nat) (bs : List (Byte × Bool)) (row : Nat) : Except Nat So :=
  match g.w.s.reach g.c l (g.need i) o bs.length with
  | some m => .error m.gs
  | none => .ok { g with w := g.w.writeMarked g.c l o bs row }

-- The order of keys (R391).

/-- An entry: key and index. -/
abbrev Ent := Nat × Nat

/-- key(a) < key(b): NaNs together, above +infinity, or below −infinity with NL. -/
def keyLt (t : Ty) (nl : Bool) (a b : Nat) : Bool :=
  if t.isInt then decide (elemInt t a < elemInt t b)
  else
    let x := Num.decode t a
    let y := Num.decode t b
    if x.isNan then !y.isNan && nl else if y.isNan then !nl else Num.ltMin x y

/-- Entry x goes before entry y (R391). -/
def before (t : Ty) (dn nl : Bool) (x y : Ent) : Bool :=
  let up := keyLt t nl x.1 y.1
  let down := keyLt t nl y.1 x.1
  (if dn then down else up) || (!up && !down && decide (x.2 < y.2))
/-- Placing an entry after those it does not go before. -/
def place (t : Ty) (dn nl : Bool) (x : Ent) : List Ent → List Ent
  | [] => [x]
  | y :: ys => if before t dn nl x y then x :: y :: ys else y :: place t dn nl x ys
/-- The entries in the order of R391; equal entries keep their input order. -/
def ordered (t : Ty) (dn nl : Bool) (es : List Ent) : List Ent := es.foldl (fun acc x => place t dn nl x acc) []
/-- The merge of R394; on ties a goes first. `fuel` bounds the entries. -/
def mergeRows (t : Ty) (dn nl : Bool) : Nat → List Ent → List Ent → List Ent
  | 0, _, _ => []
  | _ + 1, [], b => b
  | _ + 1, a, [] => a
  | n + 1, x :: a, y :: b =>
    if before t dn nl y x then y :: mergeRows t dn nl n (x :: a) b else x :: mergeRows t dn nl n a (y :: b)

/-- Entries of a row: keys with their columns, or pairs (R389). -/
def So.entries (g : So) (i : Nat) (l : Loc) (o n : Nat) (pairs : Bool) : Except Nat (List Ent × So) :=
  let w := if pairs then 8 else g.wb
  (g.keys i l o (n * w)).map fun (v, g) => ((List.range n).map fun j =>
      let x := v / 2 ^ (8 * w * j)
      (x % 2 ^ g.ty.width, if pairs then x / 2 ^ 32 % 2 ^ 32 else j), g)
/-- Pairs as bytes (R389). -/
def packPairs (es : List Ent) : List (Byte × Bool) := clean (es.flatMap fun e => leBytes 8 (e.2 * 2 ^ 32 + e.1))

/-- A write that a pass makes: row, operand number, location, offset, bytes, what it adds to RESULT, and its flags. -/
structure SoOut where
  row : Nat
  i : Nat
  l : Loc
  o : Nat
  bs : List (Byte × Bool)
  res : Nat
  fl : Num.Flags := 0
  deriving DecidableEq, Repr

/-- The sums of a row (R397): selected and left-out, with their flags. -/
def So.sums (g : So) (vals : List Num.Val) (sel : List Nat) : List Byte × Num.Flags :=
  let mode := Num.Mode.ofBits (g.mode / 4)
  let one := fun (keep : Bool) =>
    let vs := vals.zipIdx.filterMap fun e => if sel.contains e.2 = keep then some e.1 else none
    let (z, f) := Num.sumExact mode vs
    Num.fin .f32 mode z (f ||| Num.snanFl vs)
  let a := one true
  let b := one false
  (leBytes 4 a.code ++ leBytes 4 b.code, a.fl ||| b.fl)

/-- One row read and ordered: the writes it makes, in their order (R393-R397). A row of sothresh that keeps no entry writes its count
alone (R396). -/
def So.row (g : So) (r : Nat) : Except Nat (List SoOut × So) := do
  let ao := (g.word 0).toNat + r * g.aStride
  let bo := (g.word 1).toNat + r * g.bStride
  let co := (g.word 2).toNat + r * g.cStride
  let nl := g.mode / 4 % 2 == 1
  let dn := g.mode % 2 == 1
  if g.code = 0xEC then
    let (bs, g) ← g.read 0 g.a ao (g.cols * g.wb)
    let (sel, g) ← g.entries 1 g.b bo g.k true
    let xs := (sel.map Prod.snd).filter (· != 0xFFFF_FFFF)
    if xs.any fun x => decide (g.cols ≤ x) then .error 0x12
    else
      let v := leNat (bs.map Prod.fst)
      let vals := (List.range g.cols).map fun c => Num.decode g.ty (v / 2 ^ (g.ty.width * c) % 2 ^ g.ty.width)
      let (out, fl) := g.sums vals xs
      let bad := bs.any Prod.snd
      .ok ([⟨r, 2, g.cc, co, out.map fun b => (b, bad), 1, if bad then 0 else fl⟩], g)
  else
    let (es, g) ← g.entries 0 g.a ao g.cols g.pairs
    let pairs := fun (n : Nat) (es : List Ent) => ({ row := r, i := 2, l := g.cc, o := co, bs := packPairs es, res := n } : SoOut)
    match g.code with
    | 0xE8 => .ok ([pairs 1 (ordered g.ty dn nl es)], g)
    | 0xEA => .ok ([pairs 1 ((ordered g.ty (!dn) nl es).take g.k)], g)
    | 0xE9 => do
      let (b, g) ← g.entries 1 g.b bo g.k true
      .ok ([pairs 1 (mergeRows g.ty dn nl (g.cols + g.k + 1) es b)], g)
    | _ =>
      if g.countBad r then .error 0x18
      else
        let tv := g.param % 2 ^ g.ty.width
        let keep := es.filter fun e => if dn then !keyLt g.ty nl tv e.1 else !keyLt g.ty nl e.1 tv
        let out := keep.take g.k
        .ok ((if out = [] then [] else [pairs out.length out])
          ++ [⟨r, 1, g.b, (g.word 1).toNat + 4 * r, clean (leBytes 4 keep.length), 0, 0⟩], g)

/-- A result of a row, as a stop with its number. -/
def So.atRow {α : Type} (g : So) (r : Nat) (x : Except Nat α) : Except (So × Nat × Nat) α :=
  match x with
  | .error st => .error (g, st, r)
  | .ok y => .ok y

/-- The rows of a pass, read before any is written (R392). -/
def So.readRows : Nat → So → Nat → Except (So × Nat × Nat) (List SoOut × So)
  | 0, g, _ => .ok ([], g)
  | n + 1, g, r => do
    let (ws, g) ← g.atRow r (g.row r)
    let (ws', g) ← So.readRows n g (r + 1)
    .ok (ws ++ ws', g)
/-- The writes of a pass. Those before one that fails stand, and count in RESULT and with their flags (R397). -/
def So.writeOuts : So → List SoOut → SoRes
  | g, [] => .ok g
  | g, x :: xs => do
    let g ← g.atRow x.row (g.write x.i x.l x.o x.bs x.row)
    So.writeOuts { g with p := { g.p with res := g.p.res + x.res, flags := g.p.flags ||| x.fl.toNat } } xs

/-- Entries a row takes in the tile store (R392). -/
def So.footprint (g : So) : Nat :=
  match g.code with
  | 0xE9 => g.cols + g.k
  | 0xEC => g.cols
  | _ => if g.cols ≤ 1 then 1 else 2 ^ ((g.cols - 1).log2 + 1)
/-- The next pass, of whole rows in ascending order (R392). -/
def So.pass (g : So) : SoRes := do
  let r := g.p.unit
  let n := min (8192 / g.footprint) (g.rows - r)
  let (ws, g) ← So.readRows n g r
  let g ← So.writeOuts g ws
  .ok { g with p := { g.p with unit := r + n } }

/-- sogather (R398): the next destination row. -/
def So.gatherRow (g : So) : SoRes := do
  let (r, j) := (g.p.unit, g.p.pos)
  let (es, g) ← g.atRow r (g.entries 1 g.b ((g.word 1).toNat + r * g.bStride + 8 * j) 1 true)
  let x := (es.getD 0 (0, 0)).2
  let (bs, g) ← if x = 0xFFFF_FFFF then .ok (List.replicate g.param ((0 : Byte), false), g)
    else if g.cols ≤ x then .error (g, 0x12, r)
    else g.atRow r (g.read 0 g.a ((g.word 0).toNat + r * g.aStride + x * g.param) g.param)
  let g ← g.atRow r (g.write 2 g.cc ((g.word 2).toNat + r * g.cStride + j * g.param) bs r)
  .ok { g with p := if j + 1 < g.k then { g.p with pos := j + 1 } else { g.p with unit := r + 1, pos := 0 } }

/-- A bound of the units: rows, or the destination rows of sogather. -/
def So.bound (g : So) : Nat := if g.code = 0xED then g.rows * g.k else g.rows
/-- RESULT so far: rows or pairs, or the destination rows of sogather. -/
def So.result (g : So) : Nat := if g.code = 0xED then g.p.unit * g.k + g.p.pos else g.p.res
/-- Units of a command, passes or destination rows, as far as it can go or as many as it may (R404); `fuel` bounds them. -/
def So.go : Nat → So → SoRes
  | 0, g => .ok g
  | fuel + 1, g =>
    if g.rows ≤ g.p.unit || g.w.out then .ok g
    else do
      let g ← if g.code = 0xED then g.gatherRow else g.pass
      So.go fuel { g with w := g.w.unitDone }

/-- STATUS 0x11 and 0x14 at the start (R390). -/
def So.startBad (g : So) : Option Nat :=
  let cap := fun (i : Nat) (l : Loc) => (g.w.s.reach g.c l (g.need i) 0 0) == some .cap
  if cap 0 g.a || (g.usesB && cap 1 g.b) || cap 2 g.cc then some 0x11
  else if soMisaligned g then some 0x14 else none

/-- A select-and-order command from its start, or from its progress (R388-R404). -/
def selectWork (c : Nat) (cmd : Cmd) (prog : Nat) (w : Work) : CmdRes :=
  match w.descriptor c cmd with
  | none => .fault w.s (cmd.response 0x15 0)
  | some d =>
    let loc := fun (i : Nat) => if (d.getD 6 0).getLsbD i then Loc.ls c else .dev (cmd.capN i)
    let g : So := ⟨c, cmd.code, cmd.mode, d, loc 0, loc 1, loc 2, w, w.mark⟩
    let ends := fun (g : So) (st r : Nat) => engineEnd c cmd (d.getD 7 0) g.w st r g.result (BitVec.ofNat 5 g.p.flags)
    if soMalformed g cmd.entry then .fault w.s (cmd.response 0x10 0)
    else match if prog = 0 then g.startBad else none with
      | some st => ends g st noIndex
      | none =>
        match So.go (g.bound + 1) g with
        | .ok g => if g.p.unit < g.rows || g.w.parted then .wait { g.w with desc := d, mark := g.p } false 1 else ends g 0 noIndex
        | .error (g, st, r) => ends { g with w := g.w.landed } st r

/-- sosort (R393). -/
def execSosortCommand (c : Nat) (s : State) : Out := s.runCommand c 5 0xE8 (selectWork c)
/-- somerge (R394). -/
def execSomergeCommand (c : Nat) (s : State) : Out := s.runCommand c 5 0xE9 (selectWork c)
/-- sotopk (R395). -/
def execSotopkCommand (c : Nat) (s : State) : Out := s.runCommand c 5 0xEA (selectWork c)
/-- sothresh (R396). -/
def execSothreshCommand (c : Nat) (s : State) : Out := s.runCommand c 5 0xEB (selectWork c)
/-- sosums (R397). -/
def execSosumsCommand (c : Nat) (s : State) : Out := s.runCommand c 5 0xEC (selectWork c)
/-- sogather (R398). -/
def execSogatherCommand (c : Nat) (s : State) : Out := s.runCommand c 5 0xED (selectWork c)

end Sys2Proof.Machine
end

