-- ==== Sys2Proof/Machine/Units.lean ====
section
/-! DEFINITION. An engine going on by a number of its units (R306, R344, R380, R404): the commands a stop may find part done. -/

namespace Sys2Proof.Machine

/-- The work of a queue whose commands stop at unit boundaries: copy granules, an mld as a whole, rows of an mst, units of queues 4 and 5. -/
def unitWork (c q code : Nat) : Option (Cmd → Nat → Work → CmdRes) :=
  match q with
  | 0 => some (copyWork c)
  | 1 => if code = 0xD0 ∨ code = 0xD1 then some (loadWork c) else none
  | 3 => if code = 0xD8 then some (storeWork c) else none
  | 4 => some (gatherWork c)
  | 5 => some (selectWork c)
  | _ => none

/-- The command whose turn it is on a queue starts or goes on, by n of its units; a command that has no units takes none. What was still to
arrive of it has arrived; where words of it arrive later, or have been read early, it does one unit at most (R43). -/
def State.runUnits (c q n : Nat) (ws : List Spot) (s : State) : Out :=
  let a := Agent.queue c q
  let es := s.readBy a
  let s := (s.landFor a).forget a
  let n := if ws = [] ∧ es = [] then n else min n 1
  if !(s.coreRuns c && s.queuePresent c q) then .next s
  else match (s.queue c q).turn with
    | none => .next s
    | some (cmd, x) => match unitWork c q cmd.code with
      | none => .next s
      | some work => .next (s.runOn c q cmd x (some n) ws es work)

/-- A command that may read its operands now: it has started, it does not move word by word, and an mld has its slots (R302, R329). -/
def State.readsNow (s : State) (c q : Nat) (cmd : Cmd) : Bool :=
  match q with
  | 0 => copySrc cmd.code && !((cmd.code == 0xF0 || cmd.code == 0xF3) && cmd.mode % 4 == 3)
  | 1 => !cmd.loadBad && cmd.slotsOpen (s.lcore c).mx
  | 4 | 5 => true
  | _ => false
/-- An engine that reads at the home: mld, and a transfer that takes the bits with the words (R302, R329). -/
def homeUnits (q : Nat) (cmd : Cmd) : Bool := q == 1 || (q == 0 && cmd.mode % 4 != 0)
/-- The started command of a queue reads some words of its next unit now (R43). -/
def State.readAhead (c q : Nat) (ws : List Spot) (s : State) : State :=
  if !(s.coreRuns c && s.queuePresent c q) then s
  else match (s.queue c q).started with
    | none => s
    | some cmd =>
      if s.readsNow c q cmd then
        ws.foldl (fun s w => s.readWord (.queue c q) c (homeUnits q cmd) (fun _ b => b) w) (s.landFor (.queue c q))
      else s

end Sys2Proof.Machine
end

