-- ==== Sys2Proof/Machine/Image.lean ====
section
/-! DEFINITION. Context images (R462, R463, R510): what each section holds, as pieces written and as fields read back. A piece is
an offset, a width in bytes and a little-endian value; bytes that no piece covers are 0. -/

namespace Sys2Proof.Machine

abbrev Sect := Nat × Nat × Nat

/-- Pieces moved up by an offset. -/
def shift (o : Nat) (ps : List Sect) : List Sect := ps.map fun p => (o + p.1, p.2)
/-- Consecutive words. -/
def wordsAt (o : Nat) (ws : List Nat) : List Sect := ws.zipIdx.map fun e => (o + 8 * e.2, 8, e.1)
/-- The entries of a table, `stride` bytes apart. -/
def tabAt {α : Type} (o stride width : Nat) (f : α → Nat) (t : Tab α) : List Sect :=
  t.map fun e => (o + stride * e.1, width, f e.2)
/-- A table read from its entries. -/
def tabOf {α : Type} [DecidableEq α] (d : α) (n : Nat) (f : Nat → α) : Tab α :=
  (List.range n).filterMap fun i => if f i = d then none else some (i, f i)
/-- n bits, bit i for key i, from a table whose unlisted keys read `d`. -/
def bitsNat (d : Bool) (n : Nat) (t : Tab Bool) : Nat :=
  (List.range n).foldl (fun x i => if t.get d i then x + 2 ^ i else x) 0
def bitsTab (d : Bool) (n x : Nat) : Tab Bool := tabOf d n fun i => x.testBit i

/-- A reader of little-endian values: offset, width. -/
abbrev Reader := Nat → Nat → Nat
def Reader.word (rd : Reader) (o : Nat) : Word := BitVec.ofNat 64 (rd o 8)
def Reader.words (rd : Reader) (o n : Nat) : Tab Word := tabOf 0 n fun i => rd.word (o + 8 * i)
def Reader.bytes (rd : Reader) (o n : Nat) : Tab Byte := tabOf 0 n fun i => BitVec.ofNat 8 (rd (o + i) 1)

/-- A capability whose ID becomes another; a null ID stays 0 (R464). -/
def Cap.withId (c : Cap) (id : Nat) : Cap :=
  BitVec.ofNat 128 (if c.id = 0 then c.toNat else putBits c.toNat 127 104 id)
def mapCap (f : Nat → Nat) (c : Cap) : Cap := Cap.withId c (f c.id)

-- Page-out records (R284).

def recPieces (r : PageRec) : List Sect :=
  tabAt 0 1 1 BitVec.toNat r.data ++
    [(0x10000, 1024, bitsNat true 8192 r.fe), (0x10400, 256, bitsNat false 2048 r.park), (0x10500, 256, bitsNat false 2048 r.poison)]
def readRec (rd : Reader) (o : Nat) : PageRec :=
  { data := rd.bytes o 65536, fe := bitsTab true 8192 (rd (o + 0x10000) 1024),
    park := bitsTab false 2048 (rd (o + 0x10400) 256), poison := bitsTab false 2048 (rd (o + 0x10500) 256) }

-- Strands (R463).

/-- The barrier ticket, the node word and the strand word (R463); `ident` gives the identifier of a task-table entry. -/
def Strand.tailWords (t : Strand) (ident : Nat → Nat) : List Nat :=
  [match t.ticket with
    | some (n, ph) => 2 ^ 63 + n * 2 ^ 32 + ph
    | none => 0,
   (match t.node with
    | some n => ident n * 2 ^ 32
    | none => 0) + t.iter.getD 0,
   bit t.node.isSome 63 + bit t.iter.isSome 62 + bit t.stopped 61]
/-- The control words of a strand block in order (R463). -/
def Strand.ctlWords (t : Strand) (ident : Nat → Nat) : List Nat :=
  [t.lcGet 0, t.lcGet 1, t.lcGet 2, t.pc, t.status, t.trapCause, t.trapPc, t.trapVal, t.trapStat, t.fpctl, t.fectl,
    t.feBudget, t.timeCmp, t.scratch0, t.scratch1, t.prio].map BitVec.toNat ++ t.tailWords ident
/-- Predicates with p0 as it reads. -/
def Strand.predPieces (t : Strand) (o : Nat) : List Sect := (o, 128, 2 ^ 1024 - 1) :: tabAt o 128 128 BitVec.toNat t.p
/-- A task strand's block. -/
def Strand.pieces (t : Strand) (f : Nat → Nat) (ident : Nat → Nat) : List Sect :=
  tabAt 0 4 4 BitVec.toNat t.v ++ tabAt 0x10000 8 8 BitVec.toNat t.a ++ t.predPieces 0x18000
    ++ tabAt 0x1B000 8 8 BitVec.toNat t.s ++ tabAt 0x1B200 16 16 (fun c => (mapCap f c).toNat) t.b
    ++ tabAt 0x1B300 32 32 BitVec.toNat t.q ++ wordsAt 0x1B500 (t.ctlWords ident)
/-- The handler strand's block. -/
def Strand.handlerPieces (t : Strand) (f : Nat → Nat) (ident : Nat → Nat) : List Sect :=
  tabAt 0 8 8 BitVec.toNat t.s ++ t.predPieces 0x200
    ++ tabAt 0x3200 16 16 (fun c => (mapCap f c).toNat) t.b ++ wordsAt 0x3300 (t.ctlWords ident)

/-- The control words of strand k read back, reserved bits 0 (R3), PC a multiple of 8 (R106; log 108); STRAND is the strand's own, SECURE the world
of the context (R105, R112), and `entry` gives the task-table entry of an identifier. -/
def readCtl (rd : Reader) (o k : Nat) (sec : Bool) (entry : Nat → Option Nat) (now : Nat) (t : Strand) : Strand :=
  let w : Nat → Word := fun i => rd.word (o + 8 * i)
  let cr : Nat → Cr → Word := fun i c => w i &&& Cr.fields c
  { t with
    lc := Tab.setList 0 [] 0 [w 0, w 1, w 2], pc := (w 3).put 2 0 0
    status := ((cr 4 .status).put 15 12 (2 * k + bit sec 0)), trapCause := cr 5 .trapCause,
    trapPc := cr 6 .trapPc, trapVal := w 7, trapStat := cr 8 .trapStat, fpctl := cr 9 .fpctl, fectl := cr 10 .fectl,
    feBudget := w 11, timeCmp := w 12, scratch0 := w 13, scratch1 := w 14, prio := cr 15 .prio,
    ticket := if (w 16).getLsbD 63 then some ((w 16).bits 43 32, (w 16).bits 31 0) else none,
    node := if (w 18).getLsbD 63 then entry ((w 17).bits 63 32) else none,
    iter := if (w 18).getLsbD 62 then some ((w 17).bits 31 0) else none,
    stopped := (w 18).getLsbD 61, startedAt := now }
def readPreds (rd : Reader) (o : Nat) : Tab Pred :=
  tabOf 0 96 fun i => if i = 0 then 0 else BitVec.ofNat 1024 (rd (o + 128 * i) 128)
def readSregs (rd : Reader) (o : Nat) : Tab Word := tabOf 0 64 fun i => if i = 0 then 0 else rd.word (o + 8 * i)
def readBregs (rd : Reader) (o : Nat) (f : Nat → Nat) : Tab Cap :=
  tabOf 0 16 fun i => mapCap f (BitVec.ofNat 128 (rd (o + 16 * i) 16))
def readStrand (rd : Reader) (o k : Nat) (sec : Bool) (f : Nat → Nat) (entry : Nat → Option Nat) (now : Nat) : Strand :=
  readCtl rd (o + 0x1B500) k sec entry now
    { v := tabOf 0 16384 fun i => BitVec.ofNat 32 (rd (o + 4 * i) 4)
      a := tabOf 0 4096 fun i => rd.word (o + 0x10000 + 8 * i)
      p := readPreds rd (o + 0x18000)
      s := readSregs rd (o + 0x1B000)
      b := readBregs rd (o + 0x1B200) f
      q := tabOf 0 16 fun i => BitVec.ofNat 256 (rd (o + 0x1B300 + 32 * i) 32) }
/-- The handler strand has no loop counters and no node (R104): the words for them are not read. -/
def readHandler (rd : Reader) (o : Nat) (sec : Bool) (f : Nat → Nat) (now : Nat) (active : Bool) : Strand :=
  { readCtl rd (o + 0x3300) 4 sec (fun _ => none) now
      { s := readSregs rd o, p := readPreds rd (o + 0x200), b := readBregs rd (o + 0x3200) f, active := active } with
    lc := [], node := none, iter := none }

-- Logical cores (R463).

def taskStrandOff (k : Nat) : Nat := 0xC000 + 0x1C000 * k

/-- Word 0 of a command entry: its code and sequence number (log 19). -/
def Cmd.pieces (x : Cmd) (o : Nat) (f : Nat → Nat) : List Sect :=
  [(o, 8, x.code * 2 ^ 32 + x.seq % 2 ^ 32), (o + 8, 8, x.entry.toNat)]
    ++ x.caps.zipIdx.map fun e => (o + 16 + 16 * e.2, 16, (mapCap f e.1).toNat)
/-- A command entry of queue 0, 4 or 5 read back. -/
def readCmd (rd : Reader) (o : Nat) (q : Nat) (f : Nat → Nat) : Cmd :=
  { code := rd (o + 4) 1, seq := rd o 4, entry := rd.word (o + 8),
    caps := (List.range (if q = 0 then 2 else 3)).map fun i => mapCap f (BitVec.ofNat 128 (rd (o + 16 + 16 * i) 16)) }
/-- A command placed back on a matrix queue from its journal entry (R342, R345). -/
def readJournal (rd : Reader) (o seq : Nat) : Cmd :=
  let w : Nat → Nat := fun i => rd (o + 8 * i) 8
  { code := bits (w 0) 31 24, seq := seq, tmpl := BitVec.ofNat 128 (w 1 + 2 ^ 64 * w 2),
    caps := [BitVec.ofNat 128 (w 3 + 2 ^ 64 * w 4)],
    streams := [BitVec.ofNat 256 (w 5 + 2 ^ 64 * w 6 + 2 ^ 128 * w 7 + 2 ^ 192 * w 8)], prio := bits (w 0) 20 16 }

/-- Byte offsets in the local store of the ID fields of the journal's capabilities (R341, R342, R464): VALID entries alone. -/
def journalIds (rd : Reader) (jbase : Nat) : List Nat :=
  ((List.range 192).map fun i => jbase + i / 64 * 0x2000 + i % 64 * 128).filterMap fun o =>
    if (rd o 8).testBit 0 then some (o + 24 + 13) else none

/-- The matrix state at 0x7_C000 (R344; log 19): one word for each slot, the poison of each slot, of the region, and the words of
the groups, RFLAGS and DONESEQ. -/
def slotWord (x : Slot) : Nat :=
  (match x.st with
    | .free => 0
    | .claimed => 1
    | .full => 2) * 2 ^ 62
  + (match x.info with
    | [a, b, c, d, e] => 2 ^ 61 + e * 2 ^ 32 + d * 2 ^ 24 + c * 2 ^ 16 + b * 2 ^ 8 + a
    | _ => 0)
def Matrix.pieces (m : Matrix) (done : List Nat) : List Sect :=
  tabAt 0 8 8 slotWord m.slots ++ tabAt 0x400 64 64 (fun x => bitsNat false 512 x.poison) m.slots
    ++ [(0x2400, 1024, bitsNat false 8192 m.regionPoison)]
    ++ wordsAt 0x2800 ([bitsNat false 32 m.groups, m.rflags.toNat] ++ done)
def readSlot (rd : Reader) (o v : Nat) (data : Tab Byte) : Slot :=
  let w := rd.word (o + 8 * v)
  { st := match w.bits 63 62 with
      | 0 => .free
      | 1 => .claimed
      | _ => .full
    data := data
    poison := bitsTab false 512 (rd (o + 0x400 + 64 * v) 64)
    info := if w.getLsbD 61 then [w.bits 7 0, w.bits 15 8, w.bits 23 16, w.bits 31 24, w.bits 47 32] else [] }

/-- Words of the receive directory (R463; log 19). -/
def dirWords (window : List Packet) : List Nat :=
  (window.foldl (fun (acc : List Nat × Nat) p =>
    (acc.1 ++ [p.sender * 2 ^ 48 + p.words.length * 2 ^ 32 + acc.2], acc.2 + 8 * p.words.length)) ([], 0)).1
def readDir (rd : Reader) (n : Nat) : List Packet :=
  (List.range 512).filterMap fun i =>
    let w := rd.word (0x7000 + 8 * i)
    let len := w.bits 47 32
    if len = 0 then none
    else some { sender := w.bits 63 48, dest := n, words := (List.range len).map fun j => rd.word (0x6000 + w.bits 31 0 + 8 * j) }

-- Progress records (R306, R380, R404; log 19).

/-- A transfer offset or index that may be absent. -/
def optWord (x : Option Nat) : Nat :=
  match x with
  | some b => 2 ^ 63 + b % 2 ^ 63
  | none => 0
def readOpt (n : Nat) : Option Nat := if n.testBit 63 then some (n % 2 ^ 63) else none
/-- Granules that a started command has poisoned (R303). -/
def Queue.poisoned (x : Queue) : Nat := x.more + x.bad.length

/-- Queue 0, 64 bytes: the entry with the high 24 bits of the count of poisoned granules in word 0; PROGRESS and the low 8 bits; and the
offset of the first. -/
def Queue.progress0 (x : Queue) (f : Nat → Nat) : List Sect :=
  match x.started with
  | none => []
  | some cmd =>
    let n := x.poisoned
    cmd.pieces 0x4000 f ++ [(0x4005, 3, n / 256), (0x4030, 8, n % 256 * 2 ^ 53 + x.prog % 2 ^ 53),
      (0x4038, 8, optWord x.firstBad)]
def readProgress0 (rd : Reader) (f : Nat → Nat) (x : Queue) : Queue :=
  if rd 0x4000 8 = 0 then x
  else
    let w := rd 0x4030 8
    { x with started := some (readCmd rd 0x4000 0 f), prog := w % 2 ^ 53, firstBad := readOpt (rd 0x4038 8),
             more := rd 0x4005 3 * 256 + bits w 60 53, relist := true }

/-- Queue 4, 1,216 bytes: the entry, what `Progress` holds, and the descriptor. -/
def Queue.progress4 (x : Queue) (f : Nat → Nat) : List Sect :=
  match x.started with
  | none => []
  | some cmd =>
    let p := x.mark
    cmd.pieces 0x4040 f
      ++ wordsAt 0x4080 [p.unit, p.pos, p.res, p.counts.length * 2 ^ 32 + p.sumKind * 256 + p.flags, optWord p.poisoned,
        optWord x.firstBad, x.poisoned, x.prog]
      ++ p.counts.zipIdx.map (fun e => (0x40C0 + 4 * e.2, 4, e.1)) ++ [(0x42C0, 512, p.sum)]
      ++ wordsAt 0x44C0 (x.desc.map BitVec.toNat)
def readProgress4 (rd : Reader) (f : Nat → Nat) (x : Queue) : Queue :=
  if rd 0x4040 8 = 0 then x
  else
    let w : Nat → Nat := fun i => rd (0x4080 + 8 * i) 8
    let prog := w 7
    { x with
      started := some (readCmd rd 0x4040 4 f), prog := prog, more := w 6, firstBad := readOpt (w 5)
      mark :=
        { unit := w 0, pos := w 1, res := w 2, flags := w 3 % 256, sumKind := bits (w 3) 15 8, poisoned := readOpt (w 4)
          counts := (List.range (w 3 / 2 ^ 32)).map fun i => rd (0x40C0 + 4 * i) 4, sum := rd 0x42C0 512 }
      desc := if prog = 0 then [] else (List.range 8).map fun i => rd.word (0x44C0 + 8 * i) }

/-- What queue 5's record holds beside the next row, in 37 bits: RESULT of sothresh modulo 2^32 with a bit for one beyond; of sogather the
position in the row; of sogather and sosums the first row with a poisoned granule. The flags of sosums take five of the bits. -/
def Queue.extra5 (x : Queue) (code : Nat) : Nat :=
  match code with
  | 0xEB => x.mark.res % 2 ^ 32 + bit (decide (2 ^ 32 ≤ x.mark.res)) 32
  | 0xEC => x.mark.flags % 32 + x.firstBad.getD 0 * 2 ^ 5
  | _ => x.mark.pos + x.firstBad.getD 0 * 2 ^ 13
/-- Queue 5, 64 bytes (R404): the next row and five of those bits lie in word 0, the others in what the entry and the capabilities, once
captured and checked, have no use for: the entry's bits 31:19, the rights that the start of the command has tested, and the mode of
sogather. -/
def Queue.progress5 (x : Queue) (f : Nat → Nat) : List Sect :=
  match x.started with
  | none => []
  | some cmd =>
    let e := x.extra5 cmd.code
    let w := (cmd.entry.put 31 19 (e / 2 ^ 5)).put 4 4 (bit x.firstBad.isSome 0)
    let w := if cmd.code = 0xED then w.put 3 0 (e / 2 ^ 33) else w
    let caps := cmd.caps.zipIdx.map fun c => BitVec.ofNat 128 (putBits c.1.toNat 87 83 (e / 2 ^ (18 + 5 * c.2)))
    ({ cmd with entry := w, caps := caps } : Cmd).pieces 0x4640 f
      ++ [(0x4644, 4, x.mark.unit * 256 + e % 32 * 8 + (cmd.code - 0xE7))]
/-- The rights that the start of a command has tested for an operand (R389), in the place of R, W, F, A and T. -/
def rights5 (code i : Nat) : Nat := if i = 2 ∨ (i = 1 ∧ code = 0xEB) then 8 else 16
def readProgress5 (rd : Reader) (f : Nat → Nat) (x : Queue) : Queue :=
  if rd 0x4640 8 = 0 then x
  else
    let h := rd 0x4644 4
    let w := rd.word 0x4648
    let cap : Nat → Nat := fun i => rd (0x4650 + 16 * i) 16
    let (code, unit) := (h % 8 + 0xE7, h / 256)
    let e := h / 8 % 32 + w.bits 31 19 * 2 ^ 5 + ((List.range 3).map fun i => bits (cap i) 87 83 * 2 ^ (18 + 5 * i)).sum
      + if code = 0xED then w.bits 3 0 * 2 ^ 33 else 0
    let some_ := w.getLsbD 4
    let w := (w.put 31 19 0).put 4 4 0
    { x with
      started := some
        { code := code, seq := rd 0x4640 4, entry := if code = 0xED then w.put 3 0 0 else w
          caps := (List.range 3).map fun i => mapCap f (BitVec.ofNat 128 (putBits (cap i) 87 83 (rights5 code i))) }
      prog := 1
      more := bit some_ 0
      firstBad := if !some_ then none else some (e / 2 ^ (if code = 0xEC then 5 else 13))
      mark :=
        { unit := unit, pos := if code = 0xED then e % 2 ^ 13 else 0, res := if code = 0xEB then e else unit
          flags := if code = 0xEC then e % 32 else 0 } }

/-- FULL slots in slot map order. -/
def Matrix.fullSlots (m : Matrix) : List (Nat × Slot) := m.slots.filter fun e => e.2.st == .full
/-- The region is omitted when it is all zero, every group EMPTY and RFLAGS 0 (R463). -/
def Matrix.hasRegion (m : Matrix) : Bool :=
  !(decide (m.region = []) && decide (m.groups = []) && decide (m.rflags = 0) && decide (m.regionPoison = []))
def LCore.recordSize (l : LCore) : Nat :=
  0x104000 + (if l.mx.hasRegion then 0x40000 else 0) + 0x4000 * l.mx.fullSlots.length

/-- Running tasks of a context, in the order of their identifiers. -/
def State.runningTasks (s : State) (x : Nat) : List Nat :=
  sortBy (fun a b => decide ((s.task a).ident < (s.task b).ident)) ((s.tasksOf x).filter fun t => (s.task t).st == .running)
/-- The subscriptions that an image carries for a logical core, by task and then in the order of the node (R297). -/
def State.coreSubs (s : State) (c : Nat) : List Sub :=
  (s.runningTasks (ctxOfLc c)).flatMap fun t => s.subs.filter fun (u : Sub) => u.task == t && u.lcore == c

/-- The next tile of a subscription, and whether it has stopped (log 19). -/
def Sub.tileWord (u : Sub) : Nat := bit u.stopped 63 + u.next

/-- A logical-core record (R463). -/
def State.corePieces (s : State) (c : Nat) (f : Nat → Nat) : List Sect :=
  let l := s.lcore c
  let ident : Nat → Nat := fun t => (s.task t).ident
  let st : Nat → Strand := fun k => s.strand (mkStrand c k)
  let lsRd : Reader := fun o n => l.lsNat o n
  wordsAt 0 ([(s.logCore c).toNat, l.handler.toNat, l.trapVec.toNat, l.msgInfo.toNat, bit (st 4).active 0, l.sendBuf.length, 0, 0]
      ++ (List.range 6).map (fun q => (s.queueStatus c q).toNat) ++ [0, 0] ++ (List.range 6).map (fun q => (l.queue q).nextSeq)
      ++ [0, 0, 0, 0, 0, 0] ++ [bit l.mx.hasRegion 0, l.mx.fullSlots.length])
    ++ ((s.coreSubs c).take 4).zipIdx.map (fun e => (8 * (24 + e.2), 8, e.1.tileWord))
    ++ tabAt 0x400 16 16 BitVec.toNat l.templates
    ++ (List.range 6).flatMap (fun q => wordsAt (0x800 + 256 * q) ((l.queue q).resp.map BitVec.toNat))
    ++ (List.range 6).flatMap (fun q => (l.queue q).cmds.zipIdx.flatMap fun e => e.1.pieces (0x1000 + 2048 * q + 64 * e.2) f)
    ++ (l.queue 0).progress0 f ++ (l.queue 4).progress4 f ++ (l.queue 5).progress5 f
    ++ wordsAt 0x5000 (l.sendBuf.map BitVec.toNat)
    ++ wordsAt 0x6000 (l.window.flatMap fun p => p.words.map BitVec.toNat)
    ++ wordsAt 0x7000 (dirWords l.window)
    ++ shift 0x8000 ((st 4).handlerPieces f ident)
    ++ (List.range 4).flatMap (fun k => shift (taskStrandOff k) ((st k).pieces f ident))
    ++ shift 0x7C000 (l.mx.pieces ((List.range 6).map fun q => (l.queue q).doneSeq.toNat))
    ++ tabAt 0x80000 1 1 BitVec.toNat l.ls
    ++ (if s.queuePresent c 1 then (journalIds lsRd (s.ctx (ctxOfLc c)).jbase).map fun o => (0x80000 + o, 3, f (l.lsNat o 3)) else [])
    ++ [(0x100000, 8192, bitsNat true 65536 l.lsFe), (0x102000, 2048, bitsNat false 16384 l.lsPoison)]
    ++ (if l.mx.hasRegion then tabAt 0x104000 1 1 BitVec.toNat l.mx.region else [])
    ++ l.mx.fullSlots.zipIdx.flatMap fun e =>
      tabAt (0x104000 + (if l.mx.hasRegion then 0x40000 else 0) + 0x4000 * e.2) 1 1 BitVec.toNat e.1.2.data

/-- The size of a record that stands in an image. -/
def recordSizeAt (rd : Reader) : Nat := 0x104000 + (if (rd 224 8).testBit 0 then 0x40000 else 0) + 0x4000 * rd 232 8

/-- The matrix state read back. -/
def readMatrix (rd : Reader) : Matrix :=
  let o := 0x7C000
  let reg := (rd 224 8).testBit 0
  let blocks := 0x104000 + if reg then 0x40000 else 0
  let full := (List.range 128).filter fun v => decide (2 ≤ (rd.word (o + 8 * v)).bits 63 62)
  { slots := tabOf {} 128 fun v =>
      readSlot rd o v (if full.contains v then rd.bytes (blocks + 0x4000 * full.idxOf v) 16384 else [])
    region := if reg then rd.bytes 0x104000 0x40000 else []
    groups := bitsTab false 32 (rd (o + 0x2800) 8)
    rflags := BitVec.ofNat 5 (rd (o + 0x2808) 8)
    regionPoison := bitsTab false 8192 (rd (o + 0x2400) 1024) }

/-- A queue read back: its unstarted commands, responses and numbers; matrix queues take their journal entries from DONESEQ + 1
(R345), without those that are discarded or that a later command has overwritten since. -/
def readQueue (rd lsRd : Reader) (jbase q : Nat) (f : Nat → Nat) : Queue :=
  let st := rd.word (64 + 8 * q)
  let next := rd (128 + 8 * q) 8
  let done := rd (0x7C000 + 0x2810 + 8 * q) 8
  let absent := st.getLsbD 2
  let x : Queue :=
    { resp := (List.range (st.bits 23 16)).map fun i => rd.word (0x800 + 256 * q + 8 * i)
      nextSeq := max next 1, doneSeq := BitVec.ofNat 64 done, fault := st.getLsbD 1 }
  if isMatrixQ q then
    if absent then x
    else
      let seqs := (List.range (next - 1 - done)).map (done + 1 + ·)
      let at_ : Nat → Nat := fun n => jbase + (q - 1) * 0x2000 + n % 64 * 128
      let mine : Nat → Bool := fun n =>
        let w := lsRd (at_ n) 8
        w.testBit 0 && !w.testBit 1 && w / 2 ^ 32 == n % 2 ^ 32
      { x with cmds := (seqs.filter mine).map fun n => readJournal lsRd (at_ n) n }
  else
    let x := { x with
      cmds := (List.range (st.bits 15 8)).map fun i => readCmd rd (0x1000 + 2048 * q + 64 * i) q f, stall := st.getLsbD 0 }
    match q with
    | 0 => readProgress0 rd f x
    | 4 => readProgress4 rd f x
    | _ => readProgress5 rd f x

/-- A logical core read back from its record; the reader's offsets count from the record. -/
def readCore (rd : Reader) (n jbase : Nat) (f : Nat → Nat) : LCore :=
  let ls0 := rd.bytes 0x80000 0x80000
  let absent := (rd 72 8).testBit 2
  let raw : Reader := fun o m => rd (0x80000 + o) m
  let ids := if absent then [] else journalIds raw jbase
  let ls := ids.foldl (fun t o => Tab.setList 0 t o (leBytes 3 (f (raw o 3)))) ls0
  let lsRd : Reader := fun o m => leNat (Tab.getList 0 ls o m)
  { templates := tabOf 0 64 fun i => BitVec.ofNat 128 (rd (0x400 + 16 * i) 16)
    queues := tabOf {} 6 fun q => readQueue rd lsRd jbase q f
    ls := ls
    lsFe := bitsTab true 65536 (rd 0x100000 8192)
    lsPoison := bitsTab false 16384 (rd 0x102000 2048)
    window := readDir rd n
    sendBuf := (List.range (rd 40 8)).map fun i => rd.word (0x5000 + 8 * i)
    handler := rd.word 8 &&& Cr.fields .handler
    trapVec := rd.word 16 &&& Cr.fields .trapVec
    msgInfo := rd.word 24 &&& Cr.fields .msgInfo
    mx := readMatrix rd }

-- What an image carries behind its sections, within LENGTH, as no section has a place for it (log 20).

def up64 (n : Nat) : Nat := (n + 63) / 64 * 64
/-- A record: its kind, the logical core that it concerns, a count, and where it begins. -/
structure TailRec where
  kind : Nat
  core : Nat
  count : Nat
  off : Nat
  deriving DecidableEq, Repr
/-- Bytes of a record: a checkpointed strand, what a logical core has more, or what a command of queue 4 holds (R374, R435). -/
def tailLen (kind n : Nat) : Nat :=
  match kind with
  | 1 => 64 + 0x1C000
  | 2 => 64 + up64 (8 * n)
  | _ => 64 + up64 (16 * n)
def tailHead (kind core n : Nat) : Sect := (0, 8, kind * 2 ^ 56 + core * 2 ^ 40 + n)
/-- The records from an offset on; `fuel` bounds them. -/
def readTail (rd : Reader) (len : Nat) : Nat → Nat → List TailRec
  | 0, _ => []
  | fuel + 1, o =>
    let w := rd.word o
    let r : TailRec := ⟨w.bits 63 56, w.bits 55 40, w.bits 39 0, o⟩
    if r.kind = 0 ∨ 3 < r.kind ∨ len < o + tailLen r.kind r.count then []
    else r :: readTail rd len fuel (o + tailLen r.kind r.count)

/-- The place of a byte that a command of queue 4 holds, for an image and back: in a buffer, by its index; or in its local store (R374, R464). -/
def heldWords (f : Nat → Nat) (e : Nat × Option Kept) : List Nat :=
  match e.2 with
  | none => [0, 0]
  | some k =>
    let flags := k.b.toNat + bit k.poison 8 + bit k.full 9
    if e.1 < 2 ^ 64 then [f (e.1 / 2 ^ 40) * 2 ^ 40 + e.1 % 2 ^ 40, flags] else [e.1 % 2 ^ 20, flags + 2 ^ 10]
def readHeld (rd : Reader) (o n c : Nat) (f : Nat → Nat) : Tab (Option Kept) :=
  (List.range n).foldl (fun t i =>
    let (a, b) := (rd (o + 16 * i) 8, rd (o + 16 * i + 8) 8)
    let key := if b.testBit 10 then 2 ^ 64 + c * 2 ^ 20 + a else f (a / 2 ^ 40) * 2 ^ 40 + a % 2 ^ 40
    t.set none key (some ⟨BitVec.ofNat 8 b, b.testBit 8, b.testBit 9⟩)) []
/-- What a logical core has more: the poison of its receive range and the tiles of its subscriptions beyond four; and the bytes that the
command of its queue 4 holds. Each record has a size and its pieces. -/
def State.coreTail (s : State) (c : Nat) (f : Nat → Nat) : List (Nat × List Sect) :=
  let l := s.lcore c
  let rx := bitsNat false 128 (slice l.lsPoison 16384 128)
  let subs := (s.coreSubs c).drop 4
  let held := (l.queue 4).held
  (if rx = 0 ∧ subs = [] then []
   else [(tailLen 2 subs.length, tailHead 2 (coreOfLc c) subs.length :: (8, 16, rx) :: wordsAt 64 (subs.map Sub.tileWord))])
  ++ (if held = [] then []
   else [(tailLen 3 held.length, tailHead 3 (coreOfLc c) held.length :: wordsAt 64 (held.flatMap (heldWords f)))])
/-- The record of a kind for logical core n, as a reader from where it begins: 0 where there is none. -/
def Reader.recOf (tail : Reader) (rs : List TailRec) (kind n : Nat) : Reader := fun o w =>
  match rs.find? fun r => r.kind == kind && r.core == n with
  | some r => tail (r.off + o) w
  | none => 0
/-- What a logical core has more, read back. -/
def LCore.withTail (l : LCore) (tail : Reader) (rs : List TailRec) (n c : Nat) (f : Nat → Nat) : LCore :=
  let l := { l with lsPoison := unslice false l.lsPoison 16384 (bitsTab false 128 (tail.recOf rs 2 n 8 16)) }
  match rs.find? fun r => r.kind == 3 && r.core == n with
  | some r => l.setQueue 4 { l.queue 4 with held := readHeld tail (r.off + 64) r.count c f }
  | none => l

-- Tasks (R510).

def TaskSt.code : TaskSt → Nat
  | .free | .waiting => 0
  | .ready => 1
  | .running => 2
  | .done => 3
  | .failed => 4
def TaskSt.ofCode : Nat → TaskSt
  | 0 => .waiting
  | 1 => .ready
  | 2 => .running
  | 3 => .done
  | _ => .failed
/-- An empty interval is written as NEXT 1, END 0; that of a task that is never to be killed, as NEXT 2, END 0 (log 94). -/
def Part.words (noKill : Bool) (p : Part) : List Nat :=
  [(if p.end_ < p.next then (if noKill then 2 else 1) * 2 ^ 32 else p.next * 2 ^ 32 + p.end_), p.core * 2 ^ 32 + p.starts * 2 ^ 8 + p.active]
/-- A participant read back shows that its task is never to be killed. -/
def Part.noKill (p : Part) : Bool := p.next == 2 && p.end_ == 0
/-- The four words of a task record (R510); `po` is the offset of its participant records. A task that waits has had no promotion and has not
become READY. -/
def State.taskWords (s : State) (t po : Nat) : List Nat :=
  let k := s.task t
  let live := k.st == .ready || k.st == .running
  let promo := if k.st == .waiting then 0 else (s.now - k.promoAt) / 1000 % 2 ^ 32
  [k.ident * 2 ^ 32 + k.node * 2 ^ 16 + k.graph * 2 ^ 8 + TaskSt.code k.st * 2 ^ 5 + bit k.spawned 4 + (if k.dl then 15 else k.level),
   (if live then (s.now - k.readyAt) / 1000 % 2 ^ 32 * 2 ^ 32 else 0) + promo,
   k.pending * 2 ^ 48 + k.parts.length * 2 ^ 32 + (if k.spawned then k.spawner else 0), po]
/-- Section 5: the task records, then the participant records. -/
def State.taskSection (s : State) (ts : List Nat) : List Nat :=
  let base := 32 * ts.length
  let recs := ts.foldl (fun (acc : List Nat × Nat) t =>
    (acc.1 ++ s.taskWords t acc.2, acc.2 + 16 * (s.task t).parts.length)) ([], base)
  recs.1 ++ ts.flatMap fun t => (s.task t).parts.flatMap (Part.words (s.task t).noKill)
/-- A participant record read back. -/
def readPart (rd : Reader) (o : Nat) : Part :=
  let (w0, w1) := (rd.word o, rd.word (o + 8))
  { core := w1.bits 40 32, next := w0.bits 63 32, end_ := w0.bits 31 0, starts := w1.bits 15 8, active := w1.bits 7 0 }

end Sys2Proof.Machine
end

