-- ==== Sys2Proof/Machine/Quotas.lean ====
section
/-! DEFINITION. The links of the mesh (R13) and the paths over them (R477), the circuits of the Trestle (R481, R482), and the quota
tables of the router outputs (R479). -/

namespace Sys2Proof.Machine

-- Links (R13; numbered by log 21).

def dieAt (r c : Nat) : Nat := ((List.range 31).find? fun d => diePos d == some (r, c)).getD 0
/-- The dies a link joins: rows 0 to 3 along the rows, then along the columns, then the three links of row 4. -/
def linkEnds (l : Nat) : Nat × Nat :=
  if l < 24 then (dieAt (l / 6) (l % 6), dieAt (l / 6) (l % 6 + 1))
  else if l < 45 then (dieAt ((l - 24) / 7) ((l - 24) % 7), dieAt ((l - 24) / 7 + 1) ((l - 24) % 7))
  else (dieAt 3 (2 * (l - 45) + 1), dieAt 4 (2 * (l - 45) + 1))

/-- The die that receives the credit returns of a link direction. -/
def linkDie (l : Nat) : Nat := if l % 2 = 0 then (linkEnds (l / 2)).2 else (linkEnds (l / 2)).1
/-- The die whose router sends on a link direction. -/
def linkFrom (l : Nat) : Nat := if l % 2 = 0 then (linkEnds (l / 2)).1 else (linkEnds (l / 2)).2
/-- Some flit of a source die crosses a link direction (R477): along the source's row, and then along a column; a source in row 4 stands
first at the row-3 die of its column. -/
def crosses (d l : Nat) : Bool :=
  match diePos d, diePos (linkFrom l), diePos (linkDie l) with
  | some (r, c), some (ra, ca), some (rb, cb) =>
    if ra = 4 then d == linkFrom l
    else if ra = rb then min r 3 == ra && (if ca < cb then decide (c ≤ ca) else decide (ca ≤ c))
    else d != linkDie l && (if ra < rb then decide (min r 3 ≤ ra) else decide (ra ≤ min r 3))
  | _, _, _ => false

-- Circuits (R481, R482).

def connSrc (w : Word) : Nat := w.bits 59 55
def connDst (w : Word) : Nat := w.bits 54 50
def connFirst (w : Word) : Nat := w.bits 49 45
def connCount (w : Word) : Nat := w.bits 44 39
/-- The fields of an entry that a write sets: VALID and the RW fields (R482). -/
def connFields (w : Word) : Word := w &&& 0x8FFF_FF80_0000_0000
/-- The die that a Trestle port serves (R481). -/
def portDie (p : Nat) : Nat := if p = 31 then 0 else p
def State.connState (s : State) (e : Nat) : Nat := s.fab.connSt.get 0 e

-- Quotas (R479).

/-- A context of the deadline class (R414). -/
def Ctx.deadline (c : Ctx) : Bool := (c.rcb 0 3).getLsbD 4
/-- Entries of the slot table of a physical die that deadline-class contexts own (R309). -/
def State.dlOwned (s : State) (d : Nat) : Nat :=
  (s.ctxs.map fun e =>
    if e.2.st != .absent && Ctx.deadline e.2 then
      (e.2.deck.filter fun x => x.2.getLsbD 15 && (e.2.vdies.get 0 (x.1 / 64)).bits 4 0 == d).length
    else 0).sum
/-- Flits of a source die can leave through a router output: a link direction 0 to 95, or 96 and a circuit, which is active and serves
its own die alone (R477, R483). -/
def State.outputServes (s : State) (o d : Nat) : Bool :=
  if o < 96 then crosses d o else s.connState (o - 96) == 2 && portDie (connSrc (s.fab.conns.get 0 (o - 96))) == d
/-- The quotas of one output: 16 flits a frame for each owned entry of a source die (R310), in the order of the dies while the sum stays
within 1,536 (log 24). -/
def State.outputQuotas (s : State) (owned : List (Nat × Nat)) (q : Tab Nat) (o : Nat) : Tab Nat :=
  ((owned.filter fun e => s.outputServes o e.1).foldl (fun (acc : Tab Nat × Nat) e =>
    let n := min (16 * e.2) (1536 - acc.2)
    (acc.1.set 0 (o * 32 + e.1) n, acc.2 + n)) (q, 0)).1
/-- The quota tables of every output (R479): that of source die d at output o stands at 32 × o + d. -/
def State.setQuotas (s : State) : State :=
  let owned := ((List.range 32).map fun d => (d, s.dlOwned d)).filter fun e => e.2 != 0
  let outs := List.range 96 ++ (s.fab.connSt.filter fun e => e.2 == 2).map fun e => 96 + e.1
  { s with fab := { s.fab with quotas := if owned = [] then [] else outs.foldl (s.outputQuotas owned) [] } }

end Sys2Proof.Machine
end

