-- ==== Sys2Proof/Machine/Contexts.lean ====
section
/-! DEFINITION. Contexts: the checks of an image and its launch record (R413, R414, R459, R462, R466), restore onto a population
(R468-R470), LAUNCH_IMAGE (R459), FREEZE (R460, R461), the end of a launch (R442) and the returns to waiting steps (R453). -/

namespace Sys2Proof.Machine

-- The end of a context (R442, R459 step 6, R461 step 8).

/-- Full fence of system scope on every logical core of a context (R68, R442). -/
def State.fenceAll (s : State) (x : Nat) : State :=
  ((s.lcKeys).filter fun c => ctxOfLc c == x).foldl (fun s c =>
    (s.writeBackAll c).modLcore c fun l => { l with l1 := [], roc := [], wrote := [] }) s
/-- Everything that a context holds is released. -/
def State.endContext (s : State) (x : Nat) : State :=
  let c := s.ctx x
  let mine := s.lcKeys.filter fun c => ctxOfLc c == x
  let s := mine.foldl (fun s c => s.stopEngines c) s
  let s := (s.tasksOf x).foldl (fun s t => s.freeTask t) s
  let gone : Nat → Bool := fun c => ctxOfLc c == x
  let s : State := { (s.setCtx x {}).setQuotas with
    strands := s.strands.filter fun e => !gone (lcOf e.1)
    lcores := s.lcores.filter fun e => !gone e.1
    entries := s.entries.filter fun e => !gone e.lcore
    saved := s.saved.filter fun e => !(match e.2.node with
      | some n => (s.task n).ctx == x || decide ((s.task n).st = TaskSt.free)
      | none => true)
    subs := s.subs.filter fun (u : Sub) => !gone u.lcore
    regions := s.regions.filter fun (r : Region) => r.ctx != x
    fills := s.fills.filter fun f => !gone f.lcore }
  let s := s.modBuf c.backBuf fun b => { b with own := false }
  (c.bufIds.map Prod.fst ++ [c.backBuf]).foldl (fun s b => s.dropRef b) s
/-- A packet at a waiting step completes from outside it (R454, R459, R497), at once when the pages that this reaches can be in memory;
else STATUS is owed to it (R455). -/
def State.endPacket (s : State) (qid i status : Nat) : State :=
  let owe := s.owe qid i status 0
  match s.ringIn (s.qrec qid) i with
  | none => owe
  | some s => match s.packetAt (s.qrec qid) i with
    | none => s.queueError qid i 0x11
    | some p => match s.fwIn (s.qrec qid).func (s.qrec qid).secure ((s.qrec qid).endRefs p) with
      | none => owe
      | some s => s.completePacket qid i p status 0 0

/-- Some task of the launch has failed (R442). -/
def State.launchFailed (s : State) (x : Nat) : Bool := (s.tasksOf x).any fun t => (s.task t).st == .failed
/-- R442 and step 6 of R459: the full fence, and the context's end. -/
def State.endLaunch (s : State) (x : Nat) : State := (s.fenceAll x).endContext x

/-- CONTEXT_ENDING_ERROR (R497): strands and engines stop, tasks not DONE become FAILED with CANCELLED, the launching packet
completes with FAILED at the end of the launch, whose fence writes every dirty byte back (R442), and a FREEZE in progress with
NOT_RUNNING. An entry that a versioned task has reserved is no task yet (R185). -/
def State.killContext (s : State) (x : Nat) : State :=
  let c := s.ctx x
  if c.st = .absent then s
  else
    let s := ((s.tasksOf x).filter fun t => (s.task t).st.live && !(s.task t).reserved).foldl
      (fun s t => (s.markFailed t).logFault t 0x06 0 0) s
    let s := (s.endLaunch x).endPacket c.launchQ c.launchIdx 1
    match c.freezer with
    | some (q, i) => s.endPacket q i 0x03
    | none => s

-- Reading an image (R462).

/-- A reader of a buffer from an offset on. -/
def State.reader (s : State) (id off : Nat) : Reader := fun o n => s.fwNat id (off + o) n
/-- One image of a chain: its buffer and the offset of its header. -/
structure Img where
  id : Nat
  off : Nat
  deriving DecidableEq, Repr
def State.imgRd (s : State) (m : Img) : Reader := s.reader m.id m.off
/-- Header words. -/
def State.hdr (s : State) (m : Img) (i : Nat) : Word := (s.imgRd m).word (8 * i)
def State.sectOff (s : State) (m : Img) (i : Nat) : Nat := (s.hdr m (16 + 2 * i)).toNat
def State.sectLen (s : State) (m : Img) (i : Nat) : Nat := (s.hdr m (17 + 2 * i)).toNat
/-- A section: bytes beyond its length read 0. -/
def State.section (s : State) (m : Img) (i : Nat) : Reader := fun o n =>
  if o + n ≤ s.sectLen m i then (s.imgRd m) (s.sectOff m i + o) n else 0
def State.lcount (s : State) (m : Img) : Nat := (s.hdr m 2).bits 63 48
def State.nbufs (s : State) (m : Img) : Nat := (s.hdr m 2).bits 47 24
def State.isFresh (s : State) (m : Img) : Bool := (s.hdr m 0).getLsbD 18
def pageRecLen : Nat := 16 + 67072
/-- What follows the sections of an image, within its LENGTH (log 20): the first byte, the bytes, and the records there. -/
def State.tailOff (s : State) (m : Img) : Nat :=
  (List.range 16).foldl (fun o i => if s.sectLen m i = 0 then o else max o (up64 (s.sectOff m i + s.sectLen m i))) 4096
def State.tailRd (s : State) (m : Img) : Reader := s.reader m.id (m.off + s.tailOff m)
def State.tailRecs (s : State) (m : Img) : List TailRec :=
  let len := (s.hdr m 3).toNat - s.tailOff m
  readTail (s.tailRd m) len (len / 64) 0

/-- Lengths that sections may have; a fresh image has none of sections 5, 7, 9, 10 and 11 (R462, R466). -/
def State.sectBad (s : State) (m : Img) (i : Nat) : Bool :=
  let n := s.sectLen m i
  let l := s.lcount m
  let bad := match i with
    | 0 => n != 56
    | 1 => n != 8192 + l
    | 2 => n % 64 != 0 || n == 0 || decide (4096 * 64 < n)
    | 3 => n != 64 * s.nbufs m
    | 4 => n % 8 != 0 || decide (2048 < n)
    | 6 => n != 32768 && n != 0
    | 8 => n != 2560 && n != 0
    | 12 => n % pageRecLen != 0
    | 13 | 14 | 15 => n != 0
    | 5 => s.isFresh m && n != 0
    | 7 => if s.isFresh m then n != 0 else n != 160 * l
    | 9 => if s.isFresh m then n != 0 else n != 8200
    | _ => s.isFresh m && n != 0
  bad || decide (s.sectOff m i % 64 ≠ 0) || (n != 0 && decide ((s.hdr m 3).toNat < s.sectOff m i + n))

/-- The header checks of R462 (BAD_IMAGE). -/
def State.headerBad (s : State) (m : Img) : Bool :=
  let w0 := s.hdr m 0
  w0.bits 63 32 != 0x4B494D47 || w0.bits 31 24 != 1 || w0.bits 23 20 != 0 || w0.bits 15 0 != 0
    || (s.hdr m 2).bits 23 0 != 0 || (s.hdr m 5).bits 63 19 != 0
    || (s.hdr m 7).bits 47 40 != 0 || decide ((s.hdr m 7).bits 39 0 % 32 ≠ 0)
    || (List.range 8).any (fun i => s.hdr m (8 + i) != 0)
    || decide (s.lcount m < 1) || decide (320 < s.lcount m)
    || (w0.getLsbD 19 && (decide ((s.hdr m 5).toNat % 4096 ≠ 0) || decide (0x80000 < (s.hdr m 5).toNat + 0x6000)))
    || (w0.getLsbD 18 && ((s.hdr m 1).bits 31 0 != 0 || w0.getLsbD 16))
    || (List.range 16).any (s.sectBad m)
/-- The chain: one LINEAGE, SEQ falling by one at each link, an end whose INCR is 0 (R459). -/
def State.chainBad (s : State) : List Img → Bool
  | [] => true
  | [m] => (s.hdr m 0).getLsbD 16
  | a :: b :: t =>
    (s.hdr a 1).bits 63 32 != (s.hdr b 1).bits 63 32 || decide ((s.hdr a 1).bits 31 0 ≠ (s.hdr b 1).bits 31 0 + 1)
      || s.chainBad (b :: t)
/-- Every record of section 12 as {buffer index, page number} (R462). -/
def State.pageAt (s : State) (m : Img) (idx page : Nat) : Option PageRec :=
  ((List.range (s.sectLen m 12 / pageRecLen)).find? fun i =>
    s.section m 12 (i * pageRecLen) 8 == idx && s.section m 12 (i * pageRecLen + 8) 8 == page).map fun i =>
      readRec (s.section m 12) (i * pageRecLen + 16)
/-- The newest image of a chain that holds a page (R463). -/
def State.chainPage (s : State) (ms : List Img) (idx page : Nat) : Option PageRec := ms.findSome? fun m => s.pageAt m idx page

-- Restore: buffers and pages (R463-R465).

/-- A buffer entry (R463): its module ID; none when an IMPORT names no live buffer of the function, its world and generation. -/
def State.importId (s : State) (q : QRec) (w2 : Word) : Option Nat :=
  if s.fwOk q.func q.secure (refId w2) (refGen w2) 0 0 0 then some (refId w2) else none
/-- A restored page: a page-out record in a fresh physical page, or an empty one (R275, R465). -/
def State.restorePage (s : State) (src : State) (ms : List Img) (id idx page : Nat) : State :=
  let s := s.allocPage id page false
  match src.chainPage ms idx page with
  | some r => s.putRec (s.pa id (page * 65536) / 65536) r
  | none => s
/-- One buffer of the image; a device buffer's page map has an address of its own (R278, log 93). -/
def State.restoreBuf (s src : State) (q : QRec) (x : Nat) (ms : List Img) (m : Img) (idx : Nat) : Option State :=
  let rd := src.section m 3
  let o := 64 * (idx - 1)
  let (w0, w1, w2, w3) := (rd.word o, rd.word (o + 8), rd.word (o + 16), rd.word (o + 24))
  let size := w0.bits 39 0
  if w1.getLsbD 2 then
    match s.importId q w2 with
    | none => none
    | some id => some (s.modCtx x fun c => { c with bufIds := c.bufIds ++ [(id, w1.bits 63 48, true)] })
  else
    match s.freshId with
    | (none, _) => none
    | (some id, s) =>
      let host := w1.getLsbD 1
      let (pmap, s) := if host then (w3, s) else s.drawPmap
      let s := s.modBuf id fun _ =>
        { gen := w1.bits 63 48, maxRights := w0.bits 47 40, size := size, context := x, host := host,
          secure := w1.getLsbD 0, valid := true, pmap := pmap }
      let s := if host then s else (List.range (size / 65536)).foldl (fun s p => s.restorePage src ms id idx p) s
      some (s.modCtx x fun c => { c with bufIds := c.bufIds ++ [(id, w1.bits 63 48, false)] })
/-- A buffer entry of the secure world in an image that a non-secure queue restores (R451). -/
def State.bufEntryBad (s : State) (q : QRec) (m : Img) (idx : Nat) : Bool :=
  ((s.section m 3).word (64 * (idx - 1) + 8)).getLsbD 0 && !q.secure
/-- A buffer entry that breaks the launch record (R278, R463, R466): reserved bits, and the size of a buffer that is no IMPORT. -/
def State.bufEntryMalformed (s : State) (m : Img) (idx : Nat) : Bool :=
  let rd := s.section m 3
  let o := 64 * (idx - 1)
  let (w0, w1) := (rd.word o, rd.word (o + 8))
  let size := w0.bits 39 0
  w1.bits 47 3 != 0 || (List.range 4).any (fun i => rd.word (o + 32 + 8 * i) != 0)
    || (!w1.getLsbD 2 && (decide (2 ^ 39 < size)
      || if w1.getLsbD 1 then decide (size < 8) || size % 8 != 0 else decide (size < 65536) || size % 65536 != 0))

-- Restore: the launch record (R410-R414, R421, R466, R34, R292, R293).

/-- Does an RCB break R414? -/
def Ctx.rcbBad (c : Ctx) (k : Nat) : Bool :=
  let w : Nat → Word := c.rcb k
  let kind := (w 0).bits 63 62
  let set : Nat → Bool := fun b => (w 0).getLsbD b
  let par := (w 0).bits 31 16
  let chain := c.chainFrom 9 k
  kind == 3 || (if k = 0 then kind != 0 || par != 0xFFFF || (w 0).bits 60 56 != 31 else kind == 0 || par == 0xFFFF)
    || (w 0).getLsbD 61 || (w 0).bits 55 50 != 0 || (w 0).bits 47 32 != 0 || (w 0).bits 15 0 != 0 || (w 0).bits 49 48 == 3
    || (w 3).bits 39 5 != 0 || (w 4).bits 15 0 != 0 || (w 6).bits 55 0 != 0 || w 7 != 0
    || (if k = 0 then decide ((w 2).bits 63 32 < 100) || decide (1_000_000 < (w 2).bits 63 32) else (w 2).bits 63 32 != 0)
    || (set 56 && ((w 1).bits 63 32 == 0 || (w 1).bits 31 0 == 0))
    || (set 57 && (if (w 3).getLsbD 4 then (w 3).bits 3 0 != 0 || (w 2).bits 31 0 == 0 || decide (1_000_000 < (w 2).bits 31 0)
          else decide (11 < (w 3).bits 3 0) || (w 2).bits 31 0 != 0))
    || chain.getLast? != some 0 || chain.any (fun r => decide (c.nrcb ≤ r))
    || (kind == 1 && (c.rcb par 0).bits 63 62 == 2)

/-- The entry list of a node (R20): class codes 1 to 4, none repeated, up to the first 0. -/
def State.classList (s : State) (x g n : Nat) : List Nat := ((List.range 3).map (s.entryClass x g n)).takeWhile (· != 0)
def classesBad (l : List Nat) : Bool := l.isEmpty || l.any (fun k => decide (4 < k)) || decide (l.Nodup) == false

/-- A buffer-list capability of the image (R413): of ID 0, or an index of an entry whose MAXRIGHTS it keeps within. -/
def State.capBad (s : State) (x : Nat) (c : Cap) : Bool :=
  if c.id = 0 then false
  else decide ((s.ctx x).bufIds.length < c.id)
    || (c.rights &&& (s.buf ((s.ctx x).bufOf c.id)).maxRights) &&& 0xF8 != c.rights &&& 0xF8

/-- A subscription that fails R293. -/
def State.subBad (s : State) (x g n i : Nat) : Bool :=
  let (q, ctl) := s.subRecord x g n i
  let f := StreamF.of q
  let u : Sub := { loader := true, task := 0, lcore := 0, stream := q, cap := 0, ctl := ctl, next := 0, stopped := false }
  let kind := (u.word 0).bits 63 62
  let cap := s.bufEntry x g n ((u.word 0).bits 59 56)
  kind == 3 || (u.word 0).bits 61 60 != 0 || (u.word 0).bits 55 32 != 0 || (u.word 3).bits 39 19 != 0
    || (kind != 0 && (!f.vecOk false false 0 || f.skind != 0 || f.cstride != 0 || decide (f.w < 8) || u.ntiles == 0
      || decide (u.nslots < 1) || decide (64 < u.nslots) || decide ((u.word 3).bits 55 40 < 2) || decide (1024 < (u.word 3).bits 55 40)
      || (u.word 3).bits 5 0 != 0 || decide (u.slotSize - 64 < u.rowCount * u.rowBytes)
      || decide (lsSize < (u.word 3).bits 18 0 + u.slotSize * u.nslots)
      || (if kind = 1 then !cap.r else !cap.w || cap.roc)))
/-- Two rings of a node overlap (R293). -/
def State.ringsOverlap (s : State) (x g n k : Nat) : Bool :=
  let ring : Nat → Nat × Nat := fun i =>
    let w := (s.subRecord x g n i).2.getD 3 0
    (w.bits 18 0, w.bits 18 0 + 64 * w.bits 55 40 * w.bits 63 56)
  let used : Nat → Bool := fun i => ((s.subRecord x g n i).2.getD 0 0).bits 63 62 != 0
  (List.range k).any fun i => (List.range i).any fun j =>
    used i && used j && decide ((ring i).1 < (ring j).2) && decide ((ring j).1 < (ring i).2)

/-- The subscriptions of a node that fail R293, singly or by their rings. -/
def State.subsBad (s : State) (x g n : Nat) : Bool :=
  let k := (s.nodeWord x g n 0).bits 55 53
  (List.range k).any (fun i => s.subBad x g n i) || s.ringsOverlap x g n k

/-- A region entry that breaks R412. -/
def State.regionBad (s : State) (x g n o : Nat) : Bool :=
  let (w0, w1) := (s.graphWord x g o, s.graphWord x g (o + 8))
  decide (s.nbuf x g n ≤ w1.bits 63 60) || w1.bits 59 40 != 0 || w1.bits 39 0 == 0
    || decide ((s.bufEntry x g n (w1.bits 63 60)).length < w0.toNat + w1.bits 39 0)
/-- An edge record that breaks R412, R413 or R281. -/
def State.edgeBad (s : State) (x g n i size : Nat) : Bool :=
  let w := s.edgeWord x g n i
  let o := (s.nodeWord x g n 5).bits 31 0 + 16 * i
  let nreg := w.bits 36 32
  let dst := w.bits 63 48
  let src := s.bufEntry x g n (w.bits 47 44)
  let old := s.bufEntry x g dst (w.bits 43 40)
  decide (s.nnodes x g ≤ dst) || w.bits 38 37 != 0 || s.graphWord x g (o + 8) != 0 || decide (16 < nreg)
    || w.bits 3 0 != 0 || (nreg != 0 && decide (size < w.bits 31 0 + 16 * nreg))
    || (List.range nreg).any (fun r => s.regionBad x g n (w.bits 31 0 + 16 * r))
    || (w.getLsbD 39 && (decide (s.nbuf x g n ≤ w.bits 47 44) || decide (s.nbuf x g dst ≤ w.bits 43 40) || !src.t
      || (old != 0 && old.id != src.id)))

/-- A node record that breaks R410, R413 or R20. -/
def State.nodeBad (s : State) (x g n size : Nat) : Bool :=
  let w : Nat → Word := s.nodeWord x g n
  let kind := (w 0).bits 63 62
  let rcb := (w 0).bits 47 32
  let c := s.ctx x
  let (lo, hi) := ((w 3).bits 63 32, (w 3).bits 31 0)
  let nb := s.nbuf x g n
  let nsub := (w 0).bits 55 53
  decide (1 < kind) || (w 0).getLsbD 56 || decide (4 < nsub) || decide (16 < nb)
    || decide ((w 0).bits 15 0 < 1) || decide (4096 < (w 0).bits 31 16 + (w 0).bits 15 0)
    || (List.range ((w 0).bits 15 0)).any (fun i => !(c.groups.get 0 ((w 0).bits 31 16 + i)).getLsbD 15)
    || (w 1).bits 59 56 != 0 || (w 1).bits 27 24 != 0 || (w 2).bits 59 56 != 0 || (w 2).bits 31 13 != 0
    || classesBad (s.classList x g n)
    || (if (w 0).getLsbD 61 then (w 2).bits 12 0 == 0 || decide (4096 < (w 2).bits 12 0) else (w 2).bits 12 0 != 0)
    || (if kind = 0 then lo != 0 || hi != 0 else decide (hi < lo))
    || (rcb != 0xFFFF && (decide (c.nrcb ≤ rcb) || (c.rcb rcb 0).bits 63 62 != 2))
    || (w 4).bits 35 32 != 0 || (w 4).bits 5 0 != 0 || (w 5).bits 3 0 != 0
    || (nb != 0 && decide (size < (w 4).bits 63 32 + 16 * nb)) || (nsub != 0 && decide (size < (w 4).bits 31 0 + 64 * nsub))
    || (s.nout x g n != 0 && decide (size < (w 5).bits 31 0 + 16 * s.nout x g n))
    || w 14 != 0 || w 15 != 0 || ((w 0).getLsbD 57 && ((w 5).bits 63 48 != 0 || s.nout x g n != 0))
    || (List.range nb).any (fun j => s.capBad x (s.bufEntry x g n j))
    || s.subsBad x g n
    || (List.range (s.nout x g n)).any fun i => s.edgeBad x g n i size

/-- The number of edges of a graph that name a node. -/
def State.inEdges (s : State) (x g n : Nat) : Nat := ((List.range (s.nnodes x g)).map fun m => (s.dsts x g m).count n).sum
/-- Nodes that no remaining node has an edge to are removed, round by round; what is left lies on a cycle. -/
def State.onCycle (s : State) (x g : Nat) : Nat → List Nat → List Nat
  | 0, l => l
  | f + 1, l => s.onCycle x g f (l.filter fun n => l.any fun m => (s.dsts x g m).contains n)
/-- A graph that breaks R409 to R413. -/
def State.graphBad (s : State) (x g : Nat) : Bool :=
  let b := s.buf (s.graphBuf x g)
  let w0 := s.graphWord x g 0
  let off := (s.graphWord x g 8).toNat
  let n := s.nnodes x g
  b.host || !b.valid || w0.bits 15 0 != 0 || (List.range 6).any (fun i => s.graphWord x g (16 + 8 * i) != 0)
    || decide ((s.ctx x).nrcb ≤ w0.bits 31 16) || decide (n < 1) || decide (65536 < n) || off % 64 != 0
    || decide (b.size < off + 128 * n)
    || (List.range n).any (fun k => s.nodeBad x g k b.size || decide ((s.nodeWord x g k 5).bits 63 48 ≠ s.inEdges x g k))
    || s.onCycle x g n (List.range n) != []

/-- A slot-table entry that breaks R308. -/
def deckEntryBad (e : Word) : Bool :=
  e.bits 12 9 != 0 || decide (1 < e.bits 14 13)
    || (e.getLsbD 15 && decide ((if e.bits 14 13 = 0 then 319 else 3) < e.bits 8 0))
/-- Tables of the launch record (R22, R226, R308, R421, R466): reserved bits of every entry, the fields of the valid ones. -/
def State.tablesBad (s : State) (x : Nat) (m : Img) : Bool :=
  let c := s.ctx x
  let n := c.bufIds.length
  let code := (s.hdr m 6).bits 63 48
  (List.range 20).any (fun v =>
    let e := c.vdies.get 0 v
    e.bits 14 12 != 0 || e.bits 7 5 != 0 || (e.getLsbD 15 && (decide (e.bits 11 8 < 3) || decide (6 < e.bits 11 8))))
  || (List.range 4096).any (fun i =>
    let e := c.groups.get 0 i
    e.bits 14 9 != 0 || (e.getLsbD 15 && decide (c.lcount ≤ e.bits 8 0)))
  || (List.range c.lcount).any (fun i =>
    let e := c.lcTable.get 0 i
    e.bits 7 5 != 0 || decide (19 < e.bits 4 0) || !(c.vdies.get 0 (e.bits 4 0)).getLsbD 15)
  || decide (code < 1) || decide (n < code) || decide (n < (s.hdr m 7).bits 63 48)
  || (List.range (s.sectLen m 4 / 8)).any (fun g =>
    let e := (s.section m 4).word (8 * g)
    e.bits 63 24 != 0 || e == 0 || decide (n < e.toNat))
  || (List.range c.nrcb).any c.rcbBad
  || (List.range 1280).any (fun k => deckEntryBad (c.slotTables.get 0 k))
  || (List.range (s.nbufs m)).any (fun k => s.bufEntryMalformed m (k + 1))
  || (s.isFresh m && (List.range 4096).any fun b => (c.barriers.get 0 b).bits 63 16 != 0)
/-- MALFORMED (R20, R413, R466). -/
def State.malformed (s : State) (x : Nat) (m : Img) : Bool :=
  s.tablesBad x m || (List.range (s.ctx x).graphs.length).any (s.graphBad x)

-- Restore: the population (R21, R22, R468, R469, R502).

/-- The kind of a die (R12, R18). -/
def dieKind (d : Nat) : Nat :=
  if d = 0 then 1 else if d ≤ 2 then 2 else if d ≤ 10 then 3 else if d ≤ 18 then 4 else if d ≤ 20 then 5
  else if d ≤ 22 then 6 else if d ≤ 30 then 7 else 8
def State.die (s : State) (d : Nat) : Die := s.pkg.dies.get {} d
def State.modDie (s : State) (d : Nat) (f : Die → Die) : State := { s with pkg := { s.pkg with dies := s.pkg.dies.set {} d (f (s.die d)) } }
/-- A die that may take logical cores of a world (R502): in service, of the world or free to change it. -/
def State.dieOpen (s : State) (sec : Bool) (d : Nat) : Bool :=
  (s.die d).inService && ((s.die d).secure == sec || !(s.lcores.any fun e => e.2.die == d))
/-- The die with the fewest virtual dies of the context mapped to it so far, ties to the lower number (R468). -/
def fewest (used : List Nat) (ds : List Nat) : Option Nat :=
  pick (fun a b => decide (used.count a < used.count b)) ds
/-- The physical die of virtual die v of kind k (R468); one of whose kind the other world holds every die is mapped to a vector die, as
one whose kind has none in service (log 137). -/
def State.mapDie (s : State) (sec : Bool) (used : List Nat) (v k : Nat) : Option Nat :=
  let of_ : Nat → List Nat := fun k => ((List.range 20).map (· + 3)).filter fun d => dieKind d == k && s.dieOpen sec d
  if (of_ k).contains (v + 3) then some (v + 3)
  else match fewest used (of_ k) with
    | some d => some d
    | none => fewest used (of_ 4)
/-- Every valid compute virtual die in ascending order, with its physical die. -/
def State.mapDies (s : State) (x : Nat) : Option (List (Nat × Nat)) :=
  (List.range 20).foldl (fun acc v =>
    match acc with
    | none => none
    | some l =>
      let e := (s.ctx x).vdies.get 0 v
      if !e.getLsbD 15 then some l
      else (s.mapDie (s.ctx x).secure (l.map Prod.snd) v (e.bits 11 8)).map fun d => l ++ [(v, d)]) (some [])
/-- The virtual-die table as restore writes it (R22). -/
def State.writeVdies (s : State) (x : Nat) (l : List (Nat × Nat)) : State :=
  let s := s.modCtx x fun c =>
    { c with vdies := l.foldl (fun t e => t.set 0 e.1 ((t.get 0 e.1).put 4 0 e.2)) c.vdies }
  (List.range 8).foldl (fun s p =>
    let e : Word := if (s.die (23 + p)).inService then BitVec.ofNat 64 (0x8700 + 23 + p) else 0
    s.modCtx x fun c => { c with vdies := c.vdies.set 0 (20 + p) e }) s
/-- The physical die of logical core n. -/
def Ctx.dieOf (c : Ctx) (n : Nat) : Nat := (c.vdies.get 0 ((c.lcTable.get 0 n).bits 4 0)).bits 4 0
/-- The slot of logical core n (R469). -/
def State.slotFor (s : State) (x n : Nat) : Nat :=
  let c := s.ctx x
  ((List.range n).filter fun m => c.dieOf m == c.dieOf n).length % (s.die (c.dieOf n)).nCores
/-- Some slot would host more than 4 logical cores of the context (R469). -/
def State.overHosted (s : State) (x : Nat) : Bool :=
  let c := s.ctx x
  (List.range c.lcount).any fun n =>
    let k := (s.die (c.dieOf n)).nCores
    k == 0 || decide (4 * k < ((List.range c.lcount).filter fun m => c.dieOf m == c.dieOf n).length)
/-- Compute virtual dies of a context that lie on a physical die. -/
def Ctx.onDie (c : Ctx) (d : Nat) : List Nat :=
  (List.range 20).filter fun v => (c.vdies.get 0 v).getLsbD 15 && (c.vdies.get 0 v).bits 4 0 == d
/-- A die holds a world (R502); where it held the other, an all-open slot table is loaded on it. -/
def State.takeWorld (s : State) (d : Nat) (sec : Bool) : State :=
  if (s.die d).secure == sec then s
  else
    let s : State := { s with ctxs := s.ctxs.map fun e =>
      (e.1, { e.2 with deck := e.2.deck.filter fun w => !(e.2.onDie d).contains (w.1 / 64) }) }
    s.modDie d fun e => { e with secure := sec }
/-- Logical core n is bound to its slot; the lowest on a slot that has no resident is resident first (R469). -/
def State.bindCore (s : State) (x n : Nat) : State :=
  let d := (s.ctx x).dieOf n
  let sl := s.slotFor x n
  let pos := ((List.range 16).filter fun i => (s.die d).cores.getLsbD i).getD sl 0
  let free := !(s.lcores.any fun e => e.2.resident && e.2.die == d && e.2.pos == pos)
  (s.takeWorld d (s.ctx x).secure).modLcore (mkLc x n) fun l =>
    { l with die := d, pos := pos, resident := free, turnStart := s.now }

/-- Some enabled core of the context's physical dies offers a class (R19, R21). -/
def State.classOffered (s : State) (x cls : Nat) : Bool :=
  let c := s.ctx x
  ((List.range 20).filter fun v => (c.vdies.get 0 v).getLsbD 15).any fun v =>
    let d := (c.vdies.get 0 v).bits 4 0
    let e := s.die d
    match cls with
    | 1 => decide (0 < e.nCores)
    | 2 => dieKind d == 3 && (List.range 16).any fun i => e.cores.getLsbD i && e.arrays.getLsbD (i / 4)
    | 3 => dieKind d == 5 && decide (0 < e.nCores)
    | 4 => dieKind d == 6 && decide (0 < e.nCores)
    | _ => false
/-- The list position a node resolves to (R21), once it has a participant (R422). -/
def State.resolve (s : State) (x g n : Nat) : Option Nat :=
  match (s.classList x g n).findIdx? fun k => s.classOffered x k with
  | none => none
  | some i =>
    if (s.placed x g n).any fun c => s.offers (mkLc x c) (s.entryClass x g n i) then some i else none
/-- Every node of every graph is resolved; none: CLASS_MISSING. -/
def State.resolveAll (s : State) (x : Nat) : Option State :=
  (List.range (s.ctx x).graphs.length).foldl (fun acc g =>
    (List.range (s.nnodes x g)).foldl (fun (acc : Option State) n =>
      match acc with
      | none => none
      | some s => (s.resolve x g n).map fun i =>
          s.modCtx x fun c => { c with classes := c.classes.set 0 (g * 65536 + n) i }) acc) (some s)

-- Restore: deck-ring tables (R308, R309).

/-- Slot table entry k of a virtual die, as it stands on the die: entries of logical cores that it does not host are open. -/
def State.deckEntry (s : State) (x v k : Nat) : Word :=
  let c := s.ctx x
  let e := c.slotTables.get 0 (v * 64 + k)
  let n := e.bits 8 0
  if e.getLsbD 15 && e.bits 14 13 == 0 && (decide (c.lcount ≤ n) || c.dieOf n != (c.vdies.get 0 v).bits 4 0) then 0 else e
/-- Slot k of a physical die is owned through a table other than that of virtual die v of context x, or through one of a deadline-class
context. -/
def State.deckTaken (s : State) (x v d k : Nat) (dl : Bool) : Bool :=
  s.ctxs.any fun e => (!dl || Ctx.deadline e.2) && (e.2.onDie d).any fun u =>
    (e.1 != x || u != v) && (e.2.deck.get 0 (u * 64 + k)).getLsbD 15
/-- Entry k of the slot table of a physical die (R308): the entry that owns the slot, or an open one. -/
def State.slotEntry (s : State) (d k : Nat) : Word :=
  ((s.ctxs.flatMap fun e => (e.2.onDie d).map fun u => e.2.deck.get 0 (u * 64 + k)).find? fun w => w.getLsbD 15).getD 0
/-- A rotation of a table under which no owned entry collides, or none with one of a deadline-class context. -/
def State.rotationOk (s : State) (x v : Nat) (dl : Bool) (r : Nat) : Bool :=
  let d := ((s.ctx x).vdies.get 0 v).bits 4 0
  (List.range 64).all fun k => !((s.deckEntry x v k).getLsbD 15 && s.deckTaken x v d ((k + r) % 64) dl)
/-- The other contexts outside the deadline class give up an entry of a die (R309). -/
def State.yieldSlot (s : State) (x d k : Nat) : State :=
  { s with ctxs := s.ctxs.map fun e =>
      if e.1 == x || Ctx.deadline e.2 then e
      else (e.1, { e.2 with deck := (e.2.onDie d).foldl (fun t u => t.set 0 (u * 64 + k) 0) e.2.deck }) }
/-- The table of virtual die v stands on its die, rotated by r: entries of others that it displaces become open, and its own become
open where another keeps the slot. -/
def State.loadDeck (s : State) (x v r : Nat) : State :=
  let d := ((s.ctx x).vdies.get 0 v).bits 4 0
  let dl := (s.ctx x).deadline
  (List.range 64).foldl (fun s k =>
    let p := (k + r) % 64
    let e := s.deckEntry x v k
    let s := if dl && e.getLsbD 15 then s.yieldSlot x d p else s
    let e := if s.deckTaken x v d p false then 0 else e
    s.modCtx x fun c => { c with deck := c.deck.set 0 (v * 64 + p) e }) s
/-- Loading the tables (R309), virtual die by virtual die and the lowest rotation that serves each, with no second try (log 143); a die
that takes an entry holds the context's world (R502). A rotation that serves every context is taken, if one does. Else a deadline-class context takes a rotation that
serves every other of its class, and without one is refused (none: DECK_REFUSED); another gives up its colliding entries. -/
def State.loadDecks (s : State) (x : Nat) : Option State :=
  ((List.range 20).filter fun v => ((s.ctx x).vdies.get 0 v).getLsbD 15).foldl (fun acc v =>
    acc.bind fun s =>
      let s := if (List.range 64).any fun k => (s.deckEntry x v k).getLsbD 15 then
          s.takeWorld (((s.ctx x).vdies.get 0 v).bits 4 0) (s.ctx x).secure else s
      match (List.range 64).find? (s.rotationOk x v false), (s.ctx x).deadline with
      | some r, _ => some (s.loadDeck x v r)
      | none, true => ((List.range 64).find? (s.rotationOk x v true)).map fun r => s.loadDeck x v r
      | none, false => some (s.loadDeck x v 0)) (some s)

-- Restore: tasks, cores and the rest (R418, R420, R463, R510).

/-- A fresh image: every node whose SPAWN is 0 takes an entry; none: NO_TASKS. -/
def State.freshTasks (s : State) (x : Nat) : Option State :=
  ((s.graphNodes x).filter fun e => !(s.nodeWord x e.1 e.2 0).getLsbD 57).foldl (fun acc e =>
    match acc with
    | none => none
    | some s => match s.freeEntry with
      | (none, _) => none
      | (some t, s) =>
        let s := s.newTask t x e.1 e.2 false 0 (s.nodeChain x e.1 e.2)
        some (if (s.task t).pending = 0 then s.readyTask t else s)) (some s)
/-- The entry of a restored task with an identifier. -/
def State.entryOf (s : State) (x ident : Nat) : Option Nat := (s.tasksOf x).find? fun t => (s.task t).ident == ident
/-- An image shows that a versioned task is to run unversioned (R290, R437): it is RUNNING, which no versioned task is in an image
(R461), or the fault log holds a record of its overflow, or its participants show it (log 94). -/
def State.ranOver (s : State) (x ident st : Nat) : Bool :=
  st == 2 || (List.range 256).any fun j =>
    let w := (s.ctx x).faultLog.get 0 (4 * j)
    w.bits 63 32 == ident && w.bits 15 8 == 0x03
/-- An identifier that a restored task keeps (R458) is not given again: the generation of the entry that it names is past its own (R418). -/
def State.reserveIdent (s : State) (ident : Nat) : State :=
  s.modTask (ident % 65536) fun k => if k.gen ≤ ident / 65536 then { k with gen := (ident / 65536 + 1) % 65536 } else k
/-- The participants of a restored task (R21, R422): of one that has not run, those that the class resolved now gives it; of a RUNNING one,
those of its record, of which cores that do not offer that class make no more starts, and where none does, those of that class
as well (log 134). -/
def State.partsNow (s : State) (x g n st : Nat) (ps : List Part) : List Part :=
  let now := s.participants x g n
  let here := fun (p : Part) => now.any fun q => q.core == p.core
  if st < 2 then now
  else if st ≠ 2 then ps
  else ps.map (fun p => if here p then p else { p with starts := 0 }) ++ if ps.any here then [] else now
/-- A restored task record (R510); times count back from now. -/
def State.readTask (s : State) (x : Nat) (rd : Reader) (o t : Nat) : State :=
  let (w0, w1, w2) := (rd.word o, rd.word (o + 8), rd.word (o + 16))
  let (g, n, sp) := (w0.bits 15 8, w0.bits 31 16, w0.getLsbD 4)
  let s := s.reserveIdent (w0.bits 63 32)
  let gen := (s.task t).gen
  let parts := (List.range (w2.bits 47 32)).map fun i => readPart rd ((rd.word (o + 24)).toNat + 16 * i)
  let ranOver := s.ranOver x (w0.bits 63 32) (w0.bits 7 5) || parts.any Part.noKill
  let s := s.newTask t x g n sp (w2.bits 31 0) (s.nodeChain x g n)
  s.modTask t fun k =>
    { k with
      gen := gen, st := TaskSt.ofCode (w0.bits 7 5), ident := w0.bits 63 32, pending := w2.bits 63 48,
      level := if w0.bits 3 0 = 15 then k.level else w0.bits 3 0,
      readyAt := s.now - w1.bits 63 32 * 1000, promoAt := s.now - w1.bits 31 0 * 1000,
      absDl := s.now - w1.bits 63 32 * 1000 + k.relDl * 1000, startedAt := s.now,
      begun := decide (w0.bits 7 5 = 2),
      versioned := k.versioned && !ranOver, noKill := k.versioned && ranOver, parts := s.partsNow x g n (w0.bits 7 5) parts }
/-- The chain of a restored child goes on with its spawner's (R415, R510); a chain of n spawners takes n rounds. -/
def State.rechain (s : State) (x : Nat) : Nat → State
  | 0 => s
  | f + 1 => State.rechain ((s.tasksOf x).foldl (fun s t =>
      let k := s.task t
      if !k.spawned then s
      else match s.entryOf x k.spawner with
        | none => s
        | some u => s.modTask t fun k =>
            let c := k.fromChain (s.ctx x) (s.childChain x k.graph k.node (s.task u).chain)
            { c with level := k.level, absDl := k.readyAt + c.relDl * 1000 }) s) x f
/-- The task records of an image end where the first participant record begins (R510). -/
def State.oldTasks (s : State) (x : Nat) (rd : Reader) (len : Nat) : Option State :=
  let po : Nat → Nat := fun i => (rd.word (32 * i + 24)).toNat
  let count := match (List.range (len / 32)).find? fun k => (List.range (k + 1)).any fun i => decide (po i ≤ 32 * (k + 1)) with
    | some k => k + 1
    | none => 0
  ((List.range count).foldl (fun acc i =>
    match acc with
    | none => none
    | some s => match s.freeEntry with
      | (none, _) => none
      | (some t, s) => some (s.readTask x rd (32 * i) t)) (some s)).map fun s => s.rechain x (s.tasksOf x).length

/-- The remaining starts of RUNNING tasks stand in the queues again (R461, R510). -/
def State.requeue (s : State) (x : Nat) : State :=
  ((s.tasksOf x).filter fun t => (s.task t).st == .running).foldl (fun s t =>
    let n := s.emission
    let es := ((s.task t).parts.filter fun p => p.starts != 0).map fun p =>
      (⟨t, mkLc x p.core, p.starts, n, .keystone, none⟩ : Entry)
    { s.modTask t fun k => { k with emitted := true, emissionNo := n } with emission := n + 1, entries := s.entries ++ es }) s

/-- The checkpointed strands that an image carries behind its sections stand in the queues again, each with one start (R435; log 20). -/
def State.oldSaved (s : State) (x : Nat) (tail : Reader) (rs : List TailRec) : State :=
  (rs.filter fun r => r.kind == 1).foldl (fun s r =>
    let t := readStrand tail (r.off + 64) 0 (s.ctx x).secure (s.ctx x).bufOf (s.entryOf x) s.now
    match t.node with
    | none => s
    | some n =>
      { s with
        emission := s.emission + 1
        saved := s.saved.set {} s.emission t
        entries := s.entries ++ [⟨n, mkLc x r.core, 1, (s.task n).emissionNo, .keystone, some s.emission⟩] }) s

/-- The subscriptions of a node that had begun on a logical core go on from the tiles of the record (R297, R463). -/
def State.resumeSubs (s : State) (t c : Nat) (next : Nat → Word) : State :=
  let k := s.task t
  (List.range ((s.nodeWord k.ctx k.graph k.node 0).bits 55 53)).foldl (fun s i =>
    let (q, ctl) := s.subRecord k.ctx k.graph k.node i
    if (ctl.getD 0 0).bits 63 62 = 0 then s
    else
      let u : Sub :=
        { loader := (ctl.getD 0 0).bits 63 62 == 1, task := t, lcore := c, stream := q,
          cap := s.bufEntry k.ctx k.graph k.node ((ctl.getD 0 0).bits 59 56), ctl := ctl,
          next := (next (s.subs.filter fun (u : Sub) => u.lcore == c).length).bits 62 0
          stopped := (next (s.subs.filter fun (u : Sub) => u.lcore == c).length).getLsbD 63 }
      { s with subs := s.subs ++ [u] }) s

/-- Initial status of strand k: its number and the world (R112). -/
def idleStatus (sec : Bool) (k : Nat) : Word := BitVec.ofNat 64 (k * 2 ^ 13 + (if sec then 0x1000 else 0))
/-- A logical core of a fresh image (R107, R110, R462). -/
def State.freshCore (s : State) (x n : Nat) (m : Img) : State :=
  let c := mkLc x n
  let s := s.modLcore c fun l =>
    { l with trapVec := BitVec.ofNat 64 ((s.hdr m 6).bits 47 24 * 8), handler := BitVec.ofNat 64 ((s.hdr m 6).bits 23 0 * 8) }
  (List.range 5).foldl (fun s k => s.setStrand (mkStrand c k) { status := idleStatus (s.ctx x).secure k }) s
/-- Some strand of a participant has started on a node, whose subscriptions have then begun (log 50). -/
def State.partBegun (s : State) (t : Nat) (p : Part) : Bool :=
  let k := s.task t
  decide (p.starts < (s.nodeWord k.ctx k.graph k.node 0).bits 59 58 + 1)
/-- A logical core of a later image (R463), with the packet that it has closed (R230), and what the records behind the sections say of it. -/
def State.oldCore (s : State) (x n : Nat) (rd tail : Reader) (rs : List TailRec) (msgs : List (Packet × Bool)) : State :=
  let c := mkLc x n
  let f := (s.ctx x).bufOf
  let entry := s.entryOf x
  let s := s.modLcore c fun l =>
    { (readCore rd n (s.ctx x).jbase f).withTail tail rs n c f with
      die := l.die, pos := l.pos, resident := l.resident, turnStart := l.turnStart, closings := msgs.length
      closed := (msgs.find? fun e => e.2 && e.1.sender == n).map Prod.fst }
  let s := s.setStrand (mkStrand c 4) (readHandler rd 0x8000 (s.ctx x).secure f s.now ((rd 32 8).testBit 0))
  let s := (List.range 4).foldl (fun s k => s.setStrand (mkStrand c k) (readStrand rd (taskStrandOff k) k (s.ctx x).secure f entry s.now)) s
  ((s.runningTasks x).filter fun t => ((s.task t).part n).any (s.partBegun t)).foldl
    (fun s t => s.resumeSubs t c fun i =>
      if i < 4 then rd.word (8 * (24 + i)) else (tail.recOf rs 2 n).word (64 + 8 * (i - 4))) s
/-- The logical-core records in order; `o` is the offset of the next (R463). -/
def State.oldCores (s : State) (x : Nat) (sec tail : Reader) (rs : List TailRec) (msgs : List (Packet × Bool)) : Nat → Nat → Nat → State
  | 0, _, _ => s
  | f + 1, n, o =>
    let rd : Reader := fun a b => sec (o + a) b
    (s.oldCore x n rd tail rs msgs).oldCores x sec tail rs msgs f (n + 1) (o + recordSizeAt rd)

/-- Capability IDs of the buffer lists become module IDs (R464). -/
def State.rewriteLists (s : State) (x : Nat) : State :=
  (s.listPlaces x).foldl (fun s e =>
    s.fwSetNat e.1 e.2 16 (mapCap (s.ctx x).bufOf (BitVec.ofNat 128 (s.fwNat e.1 e.2 16))).toNat) s
/-- DIRTY of every page, and DIRTYCNT, become 0 (R465). -/
def State.cleanBuf (s : State) (id : Nat) : State :=
  let s := s.modBuf id fun b => { b with dirtyCnt := 0 }
  { s with pages := s.pages.map fun e => if e.1 / 2 ^ 24 = id then (e.1, e.2 &&& ~~~(BitVec.ofNat 64 (2 ^ 61))) else e }
def Ctx.ownBufs (c : Ctx) : List (Nat × Nat) :=
  (c.bufIds.zipIdx.filter fun e => !e.1.2.2).map fun e => (e.1.1, e.2 + 1)

/-- The pages of the backing areas of a context (R470). -/
def State.backingPages (s : State) (x : Nat) : Nat := ((List.range (s.ctx x).lcount).map fun n => s.backingOf (mkLc x n)).sum
/-- The Keystone allocates the pinned backing buffer of a context, which holds the backing area of each of its logical cores (R470); none
when no buffer ID is left. What they hold is written by `State.layAreas`. -/
def State.layBacking (s : State) (x : Nat) : Option State :=
  let pages := s.backingPages x
  match s.freshId with
  | (none, _) => none
  | (some id, s) =>
    let (pmap, s) := s.drawPmap
    let s := s.modBuf id fun b =>
      { gen := b.gen, size := pages * 65536, refCnt := 1, context := x, own := true, secure := (s.ctx x).secure, valid := true,
        pmap := pmap }
    let s := (s.allocPages id true 0 pages).modCtx x fun c => { c with backBuf := id }
    some ((List.range (s.ctx x).lcount).foldl (fun s n => s.modLcore (mkLc x n) fun l => { l with backing := s.backingOf (mkLc x n) }) s)
/-- Slots that a cluster leaves to logical core c while the logical cores of context x from number n on hold their runs alone. -/
def State.slotsLeft (s : State) (x n c : Nat) : Nat :=
  128 - (((s.clusterOf c).filter (· != c)).map fun y =>
    if ctxOfLc y = x ∧ n ≤ coreOfLc y then (s.lcore y).runSlots else (s.lcore y).held).sum
/-- The slots of the resident logical cores of a context are bound (R345): the runs of all first; none, NO_PAGES, when one cannot be;
then the CLAIMED-EMPTY slots. -/
def State.bindSlots (s : State) (x : Nat) : Option State :=
  let ns := (List.range (s.ctx x).lcount).filter fun n => (s.lcore (mkLc x n)).resident
  if ns.any fun n => decide (s.slotsLeft x 0 (mkLc x n) < (s.lcore (mkLc x n)).runSlots) then none
  else some (ns.foldl (fun s n => s.modLcore (mkLc x n) fun l => l.rebind (s.slotsLeft x (n + 1) (mkLc x n))) s)

/-- Packets of section 10, each with whether it is the closed packet of its sender; a packet begins with a word {SENDER, DEST, LEN}
(R462; log 19). -/
def readMessages (x : Nat) (rd : Reader) (len : Nat) : Nat → Nat → Nat → List (Packet × Bool)
  | 0, _, _ => []
  | f + 1, no, o =>
    if len ≤ o then []
    else
      let w := rd.word o
      let n := w.bits 9 0
      let p : Packet :=
        { sender := w.bits 63 48, dest := w.bits 47 32, words := (List.range n).map fun i => rd.word (o + 8 + 8 * i)
          rel := w.getLsbD 30, closer := if w.getLsbD 29 then some (mkStrand (mkLc x (w.bits 63 48)) (w.bits 28 26)) else none
          no := no }
      (p, w.getLsbD 31) :: readMessages x rd len f (no + 1) (o + 8 + 8 * n)
/-- The header word of a packet of section 10. -/
def Packet.header (p : Packet) (closed : Bool) : Nat :=
  p.sender * 2 ^ 48 + p.dest * 2 ^ 32 + bit closed 31 + bit p.rel 30
    + (match p.closer with
      | some k => 2 ^ 29 + numOf k * 2 ^ 26
      | none => 0) + p.words.length
/-- The packets in flight of an image. -/
def State.messages (s : State) (x : Nat) (m : Img) : List (Packet × Bool) :=
  readMessages x (s.section m 10) (s.sectLen m 10) (s.sectLen m 10) 0 0

/-- The tables of a context from its image (R462, R466). -/
def State.readCtx (s : State) (x : Nat) (m : Img) (sec : Bool) (qid i : Nat) : Ctx :=
  let n := s.lcount m
  let nr := s.sectLen m 2 / 64
  { st := .restoring, secure := sec, lineage := (s.hdr m 1).bits 63 32, seq := (s.hdr m 1).bits 31 0, lcount := n,
    jbase := if (s.hdr m 0).getLsbD 19 then (s.hdr m 5).toNat else 0x7A000,
    codeIdx := (s.hdr m 6).bits 63 48, logIdx := (s.hdr m 7).bits 63 48, logOff := (s.hdr m 7).bits 39 0,
    launchQ := qid, launchIdx := i,
    vdies := tabOf 0 28 fun k => BitVec.ofNat 64 (s.section m 0 (2 * k) 2),
    groups := tabOf 0 4096 fun k => BitVec.ofNat 64 (s.section m 1 (2 * k) 2),
    lcTable := tabOf 0 n fun k => BitVec.ofNat 64 (s.section m 1 (8192 + k) 1),
    rcbs := (s.section m 2).words 0 (8 * nr), nrcb := nr,
    graphs := (List.range (s.sectLen m 4 / 8)).map fun g => s.section m 4 (8 * g) 8,
    barriers := (s.section m 6).words 0 4096,
    faultLog := (s.section m 9).words 0 1024, faultHead := s.section m 9 8192 8,
    inFlight := ((s.messages x m).filter fun e => !e.2).map Prod.fst,
    park := if s.sectLen m 7 = 0 then [] else tabOf 0 (20 * n) fun k =>
      let w := (s.section m 7).word (8 * k)
      (if k % 4 = 0 then w.put 0 0 0 else w) ^^^ parkReset (k % 4),
    slotTables := tabOf 0 1280 fun k => BitVec.ofNat 64 (s.section m 8 (2 * k) 2),
    restoredAt := s.now }

/-- The images that a LAUNCH_IMAGE names, newest first (R459). -/
def State.chainImgs (s : State) (p : List Word) : List Img :=
  let id := refId (pkt p 4)
  ⟨id, (pkt p 5).toNat⟩ :: (List.range ((pkt p 7).bits 63 60)).map fun j =>
    let o := (pkt p 6).toNat + 16 * j
    ⟨refId (s.fwWord id o), (s.fwWord id (o + 8)).toNat⟩
/-- A buffer that holds an image can be read over the header and the image's length (R455); the failing word. -/
def State.imagesBad (s : State) (q : QRec) (p : List Word) : Option Nat :=
  let (id, gen, n) := (refId (pkt p 4), refGen (pkt p 4), (pkt p 7).bits 63 60)
  let len : Img → Nat := fun m => max 4096 (s.hdr m 3).toNat
  match s.refBad q 4 (pkt p 4) 5 (pkt p 5).toNat 4096 rightR with
  | some w => some w
  | none =>
    if !s.fwOk q.func q.secure id gen (pkt p 5).toNat (len ⟨id, (pkt p 5).toNat⟩) rightR then some 5
    else if n = 0 then none
    else if !s.fwOk q.func q.secure id gen (pkt p 6).toNat (16 * n) rightR then some 6
    else if (List.range n).any fun j =>
        let w := s.fwWord id ((pkt p 6).toNat + 16 * j)
        let o := (s.fwWord id ((pkt p 6).toNat + 16 * j + 8)).toNat
        !(s.fwOk q.func q.secure (refId w) (refGen w) o 4096 rightR
          && s.fwOk q.func q.secure (refId w) (refGen w) o (len ⟨refId w, o⟩) rightR) then some 6
    else none

/-- A period starts at the restore: USED 0, TOKLEFT TOKMAX; PAGESUSED is what the context holds (R416, R470). -/
def Ctx.openPeriod (c : Ctx) (pages : Nat) : Ctx :=
  ((List.range c.nrcb).foldl (fun c k => c.setRcb k 5 (BitVec.ofNat 64 (if k = 0 then pages % 2 ^ 32 else 0))) c).newPeriod

/-- A subscription that fails R293 at dispatch makes the launch record malformed: nothing of the launch goes on, and its packet completes
with MALFORMED (log 87). -/
def State.malformedLaunch (s : State) (x : Nat) : State :=
  let c := s.ctx x
  (s.endLaunch x).endPacket c.launchQ c.launchIdx 0x12
/-- STRAND_START (R293, R428): an idle task strand takes the highest-ranked entry of its core queue. While its core is about to change hands
(R431) it does so only for the head of the physical core's queue, and the promise ends (log 135). -/
def execStrandStart (c k : Nat) (s : State) : Out :=
  if 3 < k then .fault .noSuchUnit
  else
    let t := s.strand (mkStrand c k)
    if !(s.coreRuns c && t.node.isNone && !t.stopped) then .next s
    else
      let s := s.moveEntries
      let l := s.lcore c
      let own := l.handTo.isNone || (s.coreHead l.die l.pos).any fun e => e.lcore == c
      let s := if l.handTo.isSome && own then s.modLcore c fun l => { l with handTo := none } else s
      match if !own then none else pick s.outranks (s.entries.filter fun e => decide (e.place = .core) && e.lcore == c) with
      | none => .next s
      | some e =>
        let n := s.task e.task
        match e.resume with
        | some id => .next ((s.takeStart e).resumeStrand e k id)
        | none =>
          let v := (s.takeStart e).startOrder e.task e.lcore
          if !v.subsBegun e.task c && v.subsBad n.ctx n.graph n.node then .next (v.malformedLaunch n.ctx)
          else .next (v.startNode e k)

/-- LAUNCH_IMAGE's own fields are out of range (R459). -/
def launchBad (_ : State) (p : List Word) : Bool :=
  (pkt p 4).bits 23 11 != 0 || (pkt p 5).toNat % 65536 != 0 || (pkt p 6).toNat % 16 != 0 || (pkt p 7).bits 59 0 != 0
/-- Steps 1 to 3 of LAUNCH_IMAGE (R459): the status of the first check that fails, or the machine with the context RESTORING. -/
def State.restore (s : State) (q : QRec) (qid i : Nat) (p : List Word) : Except (Nat × Nat) State :=
  let x := q.func * 2048 + (pkt p 4).bits 10 0
  match s.imagesBad q p with
  | some w => .error (0x11, w)
  | none =>
    if (s.ctx x).st ≠ .absent then .error (0x1A, 0)
    else
      let src := s
      let ms := s.chainImgs p
      let m : Img := ⟨refId (pkt p 4), (pkt p 5).toNat⟩
      let sec := (s.hdr m 0).getLsbD 17
      let nb := s.nbufs m
      if ms.any s.headerBad || s.chainBad ms || (sec && !q.secure) || (List.range nb).any (fun k => s.bufEntryBad q m (k + 1)) then
        .error (0x17, 0)
      else
        let s := s.setCtx x (src.readCtx x m sec qid i)
        match (List.range nb).foldl (fun (acc : Option State) k =>
            match acc with
            | none => none
            | some s => s.restoreBuf src q x ms m (k + 1)) (some s) with
        | none => .error (0x17, 0)
        | some s =>
          let s := s.modCtx x fun c => { c with code := Cap.make (c.bufOf c.codeIdx) (s.buf (c.bufOf c.codeIdx)).gen 0x80
                                                  (s.buf (c.bufOf c.codeIdx)).size 0 }
          if s.malformed x m then .error (0x12, 0)
          else match s.mapDies x with
          | none => .error (0x13, 0)
          | some l =>
            let s := (s.rewriteLists x).writeVdies x l
            let hosting := s.overHosted x
            let s := (List.range (s.ctx x).lcount).foldl (fun s n => s.bindCore x n) s
            match s.resolveAll x with
            | none => .error (0x13, 0)
            | some s =>
              if hosting then .error (0x18, 0)
              else match s.loadDecks x with
              | none => .error (0x16, 0)
              | some s =>
                let fresh := src.isFresh m
                match if fresh then s.freshTasks x else s.oldTasks x (src.section m 5) (src.sectLen m 5) with
                | none => .error (0x14, 0)
                | some s =>
                  let n := (s.ctx x).lcount
                  let s := if fresh then (List.range n).foldl (fun s k => s.freshCore x k m) s
                    else (s.oldCores x (src.section m 11) (src.tailRd m) (src.tailRecs m) (src.messages x m) n 0 0).requeue x
                      |>.oldSaved x (src.tailRd m) (src.tailRecs m)
                  let held := ((s.ctx x).ownBufs.map fun b => (s.buf b.1).resident).sum + s.backingPages x
                  if (src.framesLeft : Nat) < held ∨ ((s.ctx x).rcb 0 1).bits 31 0 < held then .error (0x15, 0)
                  else match (s.layBacking x).bind fun s => s.bindSlots x with
                  | none => .error (0x15, 0)
                  | some s =>
                    let s := (s.ctx x).ownBufs.foldl (fun s b => s.cleanBuf b.1) (s.recount x)
                    .ok (s.modCtx x fun c => c.openPeriod held).setQuotas

/-- A step of LAUNCH_IMAGE (R451, R459): the checks, the binding and the copy-in, after which it stands at step 3; the start of
dispatch, after which it stands at step 5; the end of the launch. -/
def State.launchStep (s : State) (qid i : Nat) (p : List Word) : PacketRes :=
  let q := s.qrec qid
  match q.stepOf i, s.launched qid i with
  | 1, _ => match s.restore q qid i p with
    | .error (st, d) => .done s st d
    | .ok s' => .wait s' 3
  | 3, some x => .wait (s.modCtx x fun c => { c with st := .running }) 5
  | 5, some x => .done (s.endLaunch x) (if s.launchFailed x then 1 else 0)
  | n, _ => .wait s n
/-- LAUNCH_IMAGE (R459). -/
def execLaunchImage (qid : Nat) (s : State) : Out :=
  s.startPacket qid (· == 0x01) launchBad fun s _ i p => s.launchStep qid i p

-- FREEZE (R460, R461).

/-- The stop of R461, steps 1 to 5. -/
def State.stopContext (s : State) (x : Nat) : State :=
  let cs := s.lcKeys.filter fun c => ctxOfLc c == x
  let s := ((s.tasksOf x).filter fun t => (s.task t).versioned && (s.task t).st == .running).foldl (fun s t => s.discardRun t) s
  let s := cs.foldl (fun s c => (s.stopStrands c).stopEngines c) s
  let s := (s.landFills fun f => ctxOfLc f.lcore == x).fenceAll x
  { s with regions := s.regions.filter fun (r : Region) => r.ctx != x }

/-- The dirty pages of a context's own device buffers: buffer index, ID, page (R286, R463). -/
def State.dirtyPages (s : State) (x : Nat) : List (Nat × Nat × Nat) :=
  ((s.ctx x).ownBufs.filter fun b => !(s.buf b.1).host).flatMap fun b =>
    ((List.range ((s.buf b.1).size / 65536)).filter fun p => pageDirty (s.page b.1 (p * 65536))).map fun p => (b.2, b.1, p)
/-- The record of a page, resident or out (R284). -/
def State.captured (s : State) (id page : Nat) : PageRec :=
  let e := s.page id (page * 65536)
  if pageRes e then s.pageRec (s.pa id (page * 65536) / 65536) else s.backing.get {} (pageKey id page)
/-- ID fields of buffer lists that lie in a captured page hold buffer indices (R462). -/
def State.listFixes (s : State) (x id page : Nat) (f : Nat → Nat) : List Sect :=
  (s.graphNodes x).flatMap fun e =>
    if s.graphBuf x e.1 ≠ id then []
    else ((List.range (s.nbuf x e.1 e.2)).map (s.bufOff x e.1 e.2)).filterMap fun o =>
      if o / 65536 = page then some (16 + o % 65536 + 13, 3, f (s.fwNat id (o + 13) 3)) else none
/-- Checkpointed strands of a context in the order of their numbers, each with its logical core (R435). -/
def State.savedOf (s : State) (x : Nat) : List (Nat × Strand) :=
  s.saved.filterMap fun e => (s.entries.find? fun f => f.resume == some e.1 && ctxOfLc f.lcore == x).map fun f => (f.lcore, e.2)
/-- The sections of an image: number, length and pieces (R462, R466, R510). Sections 13 to 15 are empty. -/
def State.sections (s : State) (x : Nat) : List (Nat × Nat × List Sect) :=
  let c := s.ctx x
  let n := c.lcount
  let f : Nat → Nat := fun id => (c.bufIds.findIdx? fun b => b.1 == id).elim 0 (· + 1)
  let ts := s.tasksOf x
  let tsec := s.taskSection ts
  let cores := (List.range n).map (mkLc x)
  let coreParts := cores.foldl (fun (acc : List Sect × Nat) k =>
    (acc.1 ++ shift acc.2 (s.corePieces k f), acc.2 + (s.lcore k).recordSize)) ([], 0)
  let closed := cores.filterMap fun k => (s.lcore k).closed.map fun p => (p, true)
  let msgs := (sortBy (fun a b => decide (a.1.no < b.1.no)) ((c.inFlight.map fun p => (p, false)) ++ closed)).flatMap fun e =>
    e.1.header e.2 :: e.1.words.map BitVec.toNat
  let pages := s.dirtyPages x
  [(0, 56, tabAt 0 2 2 BitVec.toNat c.vdies),
   (1, 8192 + n, tabAt 0 2 2 BitVec.toNat c.groups ++ tabAt 8192 1 1 BitVec.toNat c.lcTable),
   (2, 64 * c.nrcb, tabAt 0 8 8 BitVec.toNat c.rcbs),
   (3, 64 * c.bufIds.length, c.bufIds.zipIdx.flatMap fun e =>
      let b := s.buf e.1.1
      wordsAt (64 * e.2) [(e.2 + 1) % 65536 * 2 ^ 48 + b.maxRights * 2 ^ 40 + b.size,
        b.gen * 2 ^ 48 + bit e.1.2.2 2 + bit b.host 1 + bit b.secure 0,
        if e.1.2.2 then e.1.1 * 2 ^ 40 + b.gen * 2 ^ 24 else 0, if b.host then b.pmap.toNat else 0]),
   (4, 8 * c.graphs.length, wordsAt 0 c.graphs),
   (5, 8 * tsec.length, wordsAt 0 tsec),
   (6, 32768, tabAt 0 8 8 BitVec.toNat c.barriers),
   (7, 160 * n, (List.range (20 * n)).map fun i => (8 * i, 8, (c.parkWord (i / 4) (i % 4)).toNat)),
   (8, 2560, tabAt 0 2 2 BitVec.toNat c.slotTables),
   (9, 8200, tabAt 0 8 8 BitVec.toNat c.faultLog ++ [(8192, 8, c.faultHead)]),
   (10, 8 * msgs.length, wordsAt 0 msgs),
   (11, coreParts.2, coreParts.1),
   (12, pageRecLen * pages.length, pages.zipIdx.flatMap fun e =>
      let (idx, id, page) := e.1
      shift (pageRecLen * e.2)
        (wordsAt 0 [idx, page] ++ shift 16 (recPieces (s.captured id page)) ++ s.listFixes x id page f))]
/-- The records behind the sections: of each logical core, then the checkpointed strands; their bytes (log 20). -/
def State.tailPieces (s : State) (x : Nat) : List Sect × Nat :=
  let c := s.ctx x
  let f : Nat → Nat := fun id => (c.bufIds.findIdx? fun b => b.1 == id).elim 0 (· + 1)
  let strands := (s.savedOf x).map fun e =>
    (tailLen 1 0, tailHead 1 (coreOfLc e.1) 0 :: shift 64 (e.2.pieces f fun t => (s.task t).ident))
  (((List.range c.lcount).flatMap fun n => s.coreTail (mkLc x n) f) ++ strands).foldl (fun (acc : List Sect × Nat) r =>
    (acc.1 ++ shift acc.2 r.2, acc.2 + r.1)) ([], 0)
/-- The sections laid out one after another from 4,096 on, each on a multiple of 64: number, offset, length, pieces. -/
def layout : Nat → List (Nat × Nat × List Sect) → List (Nat × Nat × Nat × List Sect) × Nat
  | o, [] => ([], o)
  | o, (i, n, ps) :: t =>
    let (l, e) := layout (o + up64 n) t
    ((i, o, n, ps) :: l, e)
/-- The header (R462); JBASE is given in every captured image (log 121). -/
def State.headerPieces (s : State) (x len : Nat) (l : List (Nat × Nat × Nat × List Sect)) : List Sect :=
  let c := s.ctx x
  wordsAt 0 [0x4B494D47 * 2 ^ 32 + 2 ^ 24 + 2 ^ 19 + bit c.secure 17 + 2 ^ 16,
      c.lineage * 2 ^ 32 + (c.seq + 1) % 2 ^ 32, c.lcount * 2 ^ 48 + c.bufIds.length * 2 ^ 24, len, s.now, c.jbase,
      c.codeIdx * 2 ^ 48, c.logIdx * 2 ^ 48 + c.logOff]
    ++ l.flatMap fun e => wordsAt (128 + 16 * e.1) [if e.2.2.1 = 0 then 0 else e.2.1, e.2.2.1]
/-- Writing an image: its bytes all 0, then its pieces. -/
def State.writeImage (s : State) (id off len : Nat) (ps : List Sect) : State :=
  ps.foldl (fun s p => s.fwSet id (off + p.1) (leBytes p.2.1 p.2.2)) (s.fwSet id off (List.replicate len 0))

-- Backing areas (R470, R473).

/-- Where the backing area of logical core n of a context begins in the backing buffer (log 111). -/
def State.areaAt (s : State) (x n : Nat) : Nat := 65536 * ((List.range n).map fun i => (s.lcore (mkLc x i)).backing).sum
/-- A logical core that is not resident keeps its whole record in its backing area (R470): in the layout of R463, with the buffer IDs of the
module (log 111). -/
def State.layArea (s : State) (x n : Nat) : State :=
  let c := mkLc x n
  if (s.lcore c).resident then s
  else s.writeImage (s.ctx x).backBuf (s.areaAt x n) (s.lcore c).recordSize (s.corePieces c id)
/-- The backing areas of every context hold the records of its logical cores that are not resident: what a switch or a checkpoint of a
logical core writes there (R473), and what has reached its local store and receive store since (R39, R64, R470). -/
def State.layAreas (s : State) : State :=
  s.ctxs.foldl (fun s e =>
    if e.2.st = .absent ∨ e.2.backBuf = 0 then s else (List.range e.2.lcount).foldl (fun s n => s.layArea e.1 n) s) s

/-- The entries of a stretch of a table that differ between two machines, from its start, as the second has them. -/
def changedIn {α : Type} [DecidableEq α] (d : α) (a b : Tab α) (lo n : Nat) : Tab α :=
  let (x, y) := (slice a lo n, slice b lo n)
  (y.filter fun e => decide (x.get d e.1 ≠ e.2)) ++ (x.filterMap fun e => if y.any (fun f => f.1 == e.1) then none else some (e.1, d))
/-- Words of the packets of a window, one after another, become others. -/
def rewindow : List Packet → List Word → List Packet
  | [], _ => []
  | p :: ps, ws => { p with words := ws.take p.words.length } :: rewindow ps (ws.drop p.words.length)
/-- One byte of the receive store of a logical core. -/
def LCore.setRx (l : LCore) (o : Nat) (b : Byte) : LCore :=
  let ws := l.window.flatMap Packet.words
  { l with window := rewindow l.window (ws.set (o / 8) (BitVec.ofNat 64 (putBits (ws.getD (o / 8) 0).toNat (o % 8 * 8 + 7) (o % 8 * 8) b.toNat))) }
/-- What a turn has changed in a page of the backing area of a logical core that is not resident, as bytes and as poisoned granules: `at_` is
the page's offset in the record. The local store begins at 0x8_0000 and the receive store at 0x6000 (R463). -/
def State.takePage (t s : State) (c id off at_ : Nat) : State :=
  if s.pa id off ≠ t.pa id off then t
  else
    let lo := t.pa id off
    let put := fun (l : LCore) (e : Nat × Byte) =>
      let o := at_ + e.1
      if 0x80000 ≤ o ∧ o < 0x100000 then l.setLs (o - 0x80000) [e.2]
      else if 0x6000 ≤ o ∧ o < 0x7000 then l.setRx (o - 0x6000) e.2 else l
    let taint := fun (l : LCore) (e : Nat × Bool) =>
      let g := at_ / 32 + e.1
      if 0x4000 ≤ g ∧ g < 0x8000 then { l with lsPoison := l.lsPoison.set false (g - 0x4000) e.2 }
      else if 0x300 ≤ g ∧ g < 0x380 then { l with lsPoison := l.lsPoison.set false (0x4000 + (g - 0x300)) e.2 } else l
    t.modLcore c fun l =>
      (changedIn false s.poison t.poison (lo / 32) 2048).foldl taint ((changedIn 0 s.mem t.mem lo 65536).foldl put l)
/-- The backing area of a logical core that is not resident is the home of its local store and receive store (R39, R64, R470): what a turn
has written or poisoned there, they hold. -/
def State.takeAreas (t s : State) : State :=
  if t.mem = s.mem ∧ t.poison = s.poison then t
  else s.ctxs.foldl (fun t e =>
    if e.2.st = .absent ∨ e.2.backBuf = 0 ∨ (t.ctx e.1).backBuf ≠ e.2.backBuf then t
    else (List.range e.2.lcount).foldl (fun t n =>
      let c := mkLc e.1 n
      let a := s.areaAt e.1 n
      if (s.lcore c).resident || (t.lcore c).resident || a != t.areaAt e.1 n then t
      else (0 :: (List.range 8).map (8 + ·)).foldl (fun t p => t.takePage s c e.2.backBuf (a + 65536 * p) (65536 * p)) t) t) t

/-- The image that stands for a stopped context: where its sections lie, and its length with what follows them (R461, R462; log 20). -/
def State.imageOf (s : State) (x : Nat) : List (Nat × Nat × Nat × List Sect) × Nat :=
  let (l, o) := layout 4096 (s.sections x)
  (l, o + (s.tailPieces x).2)
/-- Why an image of a length does not go into the buffer a FREEZE names (R460, R461): NO_ROOM, CAPABILITY. -/
def State.imageMiss (s : State) (q : QRec) (p : List Word) (len : Nat) : Option (Nat × Nat) :=
  let (id, off) := (refId (pkt p 5), (pkt p 6).toNat)
  match s.refBad q 5 (pkt p 5) 6 off len rightW with
  | none => none
  | some 5 => some (0x11, 5)
  | some w => some (if (s.buf id).size < off + len then (0x19, 0) else (0x11, w))
/-- The context resumes (R461). -/
def State.resumeContext (s : State) (x : Nat) : State :=
  s.modCtx x fun c => { c with st := .running, freezer := none, imageLen := 0 }
/-- Steps 7 and 8 of R461 for a stopped context: the image, and what becomes of the context. -/
def State.captureImage (s : State) (x : Nat) (p : List Word) : PacketRes :=
  let (l, len) := s.imageOf x
  let (id, off) := (refId (pkt p 5), (pkt p 6).toNat)
  let c := s.ctx x
  let (tail, n) := s.tailPieces x
  let s := (s.writeImage id off len ((l.flatMap fun e => shift e.2.1 e.2.2.2) ++ shift (len - n) tail)).writeImage id off 0 (s.headerPieces x len l)
  let s := s.keepImage id off ((c.bufIds.filter fun b => b.2.2).map Prod.fst)
  let s := c.ownBufs.foldl (fun s b => s.cleanBuf b.1) s
  let seq := (c.seq + 1) % 2 ^ 32
  let units := ceilDiv len 65536
  if (pkt p 4).getLsbD 63 then .done ((s.endContext x).endPacket c.launchQ c.launchIdx 0x02) 0 (seq % 2 ^ 24) units
  else .done ((s.modCtx x fun c => { c with seq := seq }).resumeContext x) 0 (seq % 2 ^ 24) units

/-- FREEZE's own fields are out of range (R460). -/
def freezeBad (_ : State) (p : List Word) : Bool :=
  (pkt p 4).bits 62 11 != 0 || (pkt p 5).bits 23 0 != 0 || (pkt p 6).toNat % 65536 != 0 || pkt p 7 != 0
/-- A step of FREEZE (R451, R460, R461): the test of the context, after which it is FREEZING and the packet stands at step 3; the stop,
after which it stands at step 4; the capture. A context that an error has ended meanwhile is not running (R497). -/
def State.freezeStep (s : State) (qid i : Nat) (p : List Word) : PacketRes :=
  let q := s.qrec qid
  let x := freezeCtx q p
  match q.stepOf i, (s.ctx x).st with
  | _, .absent => .done s 0x03
  | 3, .freezing =>
    let s' := (s.unsave x).stopContext x
    let len := (s'.imageOf x).2
    match s'.imageMiss q p len with
    | some (st, d) => .done (s.resumeContext x) st d
    | none => .wait (s'.modCtx x fun c => { c with imageLen := len }) 4
  | 4, .freezing =>
    match s.imageMiss q p (s.imageOf x).2 with
    | some (st, d) => .done (s.resumeContext x) st d
    | none => s.captureImage x p
  | _, .running =>
    match s.imageMiss q p 4096 with
    | some (st, d) => .done s st d
    | none => .wait (s.modCtx x fun c => { c with st := .freezing, freezer := some (qid, i) }) 3
  | n, _ => .wait s n
/-- FREEZE (R460). -/
def execFreeze (qid : Nat) (s : State) : Out := s.startPacket qid (· == 0x02) freezeBad fun s _ i p => s.freezeStep qid i p

-- Returns to waiting steps (R453).

/-- What packet i of a queue does at the step at which it stands. -/
def State.packetStep (s : State) (qid i : Nat) (p : List Word) : PacketRes :=
  let q := s.qrec qid
  match q.owed.get 0 i, pktOp p with
  | n + 1, _ => .done s (n % 256) (n / 256)
  | 0, 0x01 => s.launchStep qid i p
  | 0, 0x02 => s.freezeStep qid i p
  | 0, 0x03 => writeSignalWork s q i p
  | 0, 0x04 => waitWork s q i p
  | 0, 0x20 => createWork s q i p
  | 0, 0x21 => destroyWork s q i p
  | 0, 0x22 => resetWork s q i p
  | 0, 0x23 => queryWork s q i p
  | 0, 0x24 => allocWork s q i p
  | 0, 0x25 => freeWork s q i p
  | 0, 0x26 => revokeWork s q i p
  | 0, 0x27 => dlshareWork s q i p
  | 0, _ => nopWork s q i p
/-- The processor returns to the waiting step of packet i of a queue, whose condition holds, and goes on from it (R453). -/
def State.goOn (s : State) (qid i : Nat) : State :=
  if !(s.alive && (s.qrec qid).waiting.contains i && s.stepReady qid i) then s
  else match (s.enter qid).bind fun s => s.ringIn (s.qrec qid) i with
    | none => s
    | some s' =>
      let q := s'.qrec qid
      match s'.packetAt q i with
      | none => s'.queueError qid i 0x11
      | some p => match s'.packetIn q (q.dueStep i) p with
        | none => s
        | some s => (s.packetStep qid i p).settle qid i p
/-- WAITING_STEP_RESUME (R453, R455, R459, R460). -/
def execWaitingStepResume (qid i : Nat) (s : State) : Out := .next (s.goOn qid i)
/-- LAUNCH_END (R442): the launching packet goes on from the step at which it waits for the end of the launch. -/
def execLaunchEnd (x : Nat) (s : State) : Out :=
  if s.launchOver x then .next (s.goOn (s.ctx x).launchQ (s.ctx x).launchIdx) else .next s
/-- WAIT_TIMEOUT (R456): TIMEOUT has passed since a WAIT started, and its condition does not hold. -/
def execWaitTimeout (qid i : Nat) (s : State) : Out :=
  match (s.ringIn (s.qrec qid) i).bind fun s => s.packetAt (s.qrec qid) i with
  | some p => if pktOp p = 0x04 ∧ s.waitOver (s.qrec qid) i p then .next (s.goOn qid i) else .next s
  | none => .next s

end Sys2Proof.Machine
end

