-- ==== Sys2Proof/Machine/Control.lean ====
section
/-! DEFINITION. Predicate instructions (R175), branches and calls (R176), and zero-overhead loops (R177-R180). -/

namespace Sys2Proof.Machine

/-- A truth table applied to two predicate registers: bit 2a + b of tt (R141, R175). -/
def plogBits (tt : BitVec 4) (a b : Pred) : Pred :=
  let sel := fun (i : Nat) (x : Pred) => if tt.getLsbD i then x else 0
  sel 0 (~~~a &&& ~~~b) ||| sel 1 (~~~a &&& b) ||| sel 2 (a &&& ~~~b) ||| sel 3 (a &&& b)

/-- Ones among the low n bits. -/
def onesIn (p : Pred) : Nat → Nat
  | 0 => 0
  | n + 1 => (if p.getLsbD n then 1 else 0) + onesIn p n
/-- The lowest one at or above 1,024 - n; 1,024 when there is none. -/
def firstOne (p : Pred) : Nat → Nat
  | 0 => 1024
  | n + 1 => if p.getLsbD (1023 - n) then 1023 - n else firstOne p n

/-- The bits lo ≤ e < hi of a predicate (R175). -/
def rangeBits (lo hi : Nat) : Pred :=
  let lo := min lo 1024
  let hi := min hi 1024
  if hi ≤ lo then 0 else BitVec.ofNat 1024 (2 ^ hi - 2 ^ lo)

/-- plog (R175). -/
def execPlog (g : Guard) (tt : BitVec 4) (d a b : PR) (s : State) : Out :=
  s.pure (.plog g tt d a b) g .any fun t => t.wp d (plogBits tt (t.rp a) (t.rp b))

/-- pcnt (R175). -/
def execPcnt (g : Guard) (d : SR) (a : PR) (s : State) : Out :=
  s.pure (.pcnt g d a) g .any fun t => t.ws d (BitVec.ofNat 64 (onesIn (t.rp a) 1024))

/-- pfirst (R175). -/
def execPfirst (g : Guard) (d : SR) (a : PR) (s : State) : Out :=
  s.pure (.pfirst g d a) g .any fun t => t.ws d (BitVec.ofNat 64 (firstOne (t.rp a) 1024))

/-- prange (R175). -/
def execPrange (g : Guard) (d : PR) (a b : SR) (s : State) : Out :=
  s.pure (.prange g d a b) g .any fun t => t.wp d (rangeBits (t.rs a).toNat (t.rs b).toNat)

/-- psplat (R175). -/
def execPsplat (g : Guard) (d : PR) (a : SR) (s : State) : Out :=
  s.pure (.psplat g d a) g .any fun t => t.wp d (splat (t.rs a != 0))

/-- A branch to a target: misaligned when its bits 2:0 are not zero, and then nothing is written (R132, R176). -/
def State.branchTo (s : State) (t : Strand) (target : Word) : Out :=
  if target.toNat % 8 ≠ 0 then s.raise 0x04 0 target else s.retireTo t target

/-- br (R176). -/
def execBr (g : Guard) (off : BitVec 32) (s : State) : Out :=
  s.run (.br g off) g .any fun t => s.branchTo t (t.pc + 8 * off.signExtend 64)

/-- call (R176). -/
def execCall (g : Guard) (d : SR) (off : BitVec 32) (s : State) : Out :=
  s.run (.call g d off) g .any fun t => s.branchTo (t.ws d (t.pc + 8)) (t.pc + 8 * off.signExtend 64)

/-- jmp (R176). -/
def execJmp (g : Guard) (a : SR) (off : BitVec 32) (s : State) : Out :=
  s.run (.jmp g a off) g .any fun t => s.branchTo t (t.rs a + 8 * off.signExtend 64)

/-- callr: the target from s[A] as read before the link is written (R176). -/
def execCallr (g : Guard) (d a : SR) (off : BitVec 32) (s : State) : Out :=
  s.run (.callr g d a off) g .any fun t => s.branchTo (t.ws d (t.pc + 8)) (t.rs a + 8 * off.signExtend 64)

/-- ret (R176). -/
def execRet (g : Guard) (a : SR) (s : State) : Out :=
  s.run (.ret g a) g .any fun t => s.branchTo t (t.rs a)

/-- lcN from its fields (R177). -/
def lcMake (len start count : Nat) : Word := BitVec.ofNat 64 (len * 2 ^ 56 + start * 2 ^ 32 + count)

/-- Another active counter ends at word e (R178). -/
def Strand.lcClash (t : Strand) (n e : Nat) : Bool :=
  [0, 1, 2].any fun j => j != n && lcHit (t.lcGet j) e

/-- loop (R178). -/
def execLoop (g : Guard) (n : LR) (a : SR) (len : BitVec 8) (imm : BitVec 32) (s : State) : Out :=
  s.run (.loop g n a len imm) g .task fun t =>
    let c := if a = 0 then imm.toNat else (t.rs a).toNat
    let w := t.pc.toNat / 8
    let bad := s.raise 0x01 7 (wordOf (.loop g n a len imm))
    if 0xFFFF_FFFF < c then bad
    else if 0xFF_FFFF < w + 1 then bad
    else if c ≠ 0 ∧ t.lcClash n.toNat (w + 1 + len.toNat) then bad
    else
      let t := t.lcSet n.toNat (lcMake len.toNat (w + 1) c)
      if c = 0 then s.retireTo t (BitVec.ofNat 64 ((w + len.toNat + 2) * 8)) else s.retire t

/-- lbrk (R180). -/
def execLbrk (g : Guard) (n : LR) (s : State) : Out :=
  s.run (.lbrk g n) g .task fun t =>
    let x := t.lcGet n.toNat
    if lcCount x ≠ 0 then
      s.retireTo (t.lcSet n.toNat (x.put 31 0 0)) (BitVec.ofNat 64 ((lcStart x + lcLen x + 1) * 8))
    else s.retire t

/-- lcget (R180). -/
def execLcget (g : Guard) (a : SR) (n : LR) (s : State) : Out :=
  s.pure (.lcget g a n) g .task fun t => t.ws a (t.lcGet n.toNat)

/-- lcset (R180). -/
def execLcset (g : Guard) (n : LR) (a : SR) (s : State) : Out :=
  s.pure (.lcset g n a) g .task fun t => t.lcSet n.toNat (t.rs a)

end Sys2Proof.Machine
end

