-- ==== Sys2Proof/Machine/Errors.lean ====
section
/-! DEFINITION. The error log (R499), fatal errors and the dump (R501), the discovery and remap tables (R17, R18), and the links
of R13. -/

namespace Sys2Proof.Machine

-- Discovery (R17, R18).

/-- Enabled arrays of a die (R18). -/
def Die.nArrays (e : Die) : Nat := ((List.range 4).filter fun i => e.arrays.getLsbD i).length
/-- MATSLOTS: the slots of a matrix die that offer the matrix class. -/
def Die.matSlots (e : Die) : Nat :=
  (((List.range 16).filter fun i => e.cores.getLsbD i).zipIdx.map fun p =>
    if e.arrays.getLsbD (p.1 / 4) then 2 ^ p.2 else 0).sum
def isCompute (d : Nat) : Bool := decide (3 ≤ d) && decide (d ≤ 22)
/-- CLASSMASK of a die, at bits 19:16. -/
def classMask (d : Nat) (e : Die) : Nat :=
  if !isCompute d || e.nCores == 0 || !e.inService then 0
  else 1 + (if dieKind d = 3 ∧ e.matSlots ≠ 0 then 2 else 0) + (if dieKind d = 5 then 4 else 0) + (if dieKind d = 6 then 8 else 0)
/-- A die as its entry shows it: as it stood before a change whose entries are still to be written (R18). -/
def State.shownDie (s : State) (d : Nat) : Die :=
  match s.pkg.changing with
  | some c => if c.die = d ∧ c.made < 3 then c.old else s.die d
  | none => s.die d
/-- Word w of die entry d. The ARRAYS of a retired matrix die are 0 too, and no part of ENARRAYS (log 95). -/
def State.dieEntry (s : State) (d w : Nat) : Nat :=
  let e := s.shownDie d
  let (row, col) := match diePos d with
    | some (r, c) => (r, c)
    | none => (15, 15)
  match w with
  | 0 => dieKind d * 2 ^ 44 + row * 2 ^ 36 + col * 2 ^ 32 + classMask d e * 2 ^ 16
      + (if isCompute d && e.inService then e.nCores * 2 ^ 8 else 0)
      + (if dieKind d = 3 ∧ e.inService then e.nArrays * 2 ^ 5 else 0) + bit e.retired 1 + bit e.inService 0
  | 1 => (if dieKind d = 7 then 64 * 2 ^ 16 else 0) + (if dieKind d = 3 ∧ e.inService then e.matSlots else 0)
  | _ => 0
/-- Word w of the table's header. -/
def State.discHeader (s : State) (w : Nat) : Nat :=
  let on := ((List.range 32).map fun d => (d, s.shownDie d)).filter fun e => e.2.inService
  match w with
  | 0 => 0x4B4C4941 * 2 ^ 32 + 2 ^ 24 + 32 * 2 ^ 16 + 32 * 2 ^ 8 + 1
  | 1 => (on.map fun e => e.2.nCores).sum * 2 ^ 32 + (on.map fun e => e.2.nArrays).sum * 2 ^ 24
      + (on.filter fun e => isCompute e.1 && e.2.nCores != 0).length * 2 ^ 16
      + (on.filter fun e => dieKind e.1 == 7).length * 2 ^ 8 + s.pkg.changes.toNat
  | 2 => 256 * 2 ^ 16 + 512
  | _ => 0
/-- Word j of the discovery table; 0 until bring-up completes. -/
def State.discWord (s : State) (j : Nat) : Nat :=
  if !s.pkg.ready then 0 else if j < 8 then s.discHeader j else s.dieEntry ((j - 8) / 4) ((j - 8) % 4)
/-- The remap entry of a slot of a compute die (R17). -/
def State.remapByte (s : State) (d slot : Nat) : Nat :=
  if !s.pkg.ready then 0
  else match ((List.range 16).filter fun i => (s.die d).inService && (s.die d).cores.getLsbD i)[slot]? with
    | some p => 0x80 + p
    | none => 0

-- The error log (R499).

/-- The kinds of the log. -/
def errClass (kind : Nat) : Nat :=
  match kind with
  | 0x02 | 0x04 => 1
  | 0x05 | 0x09 | 0x0A => 2
  | 0x08 | 0x0C | 0x0D => 3
  | _ => 0
/-- A record is written whole, and then HEAD. -/
def State.newRecord (s : State) (kind die unit addr detail key : Nat) : State :=
  let j := s.ks.logHead
  let ws := [s.now, kind * 2 ^ 56 + errClass kind * 2 ^ 52 + die * 2 ^ 47 + unit * 2 ^ 38 + 1, addr, detail]
  let s := s.setHome logBuf (0x40 + 32 * (j % 1024)) (ws.flatMap (leBytes 8))
  let s := s.setHomeNat logBuf 0 8 ((j + 1) % 2 ^ 64)
  { s with ks := { s.ks with logHead := j + 1, lastErr := s.ks.lastErr.set none key (some (s.now, j)) } }
/-- ERROR_RECORD (R499): counted in the unit's last record of its kind within 1 ms, a closed limit (R8), else a new record, whole, and then HEAD, and
from class 1 on MSI-X vector 255 of the physical function. Before READY there is no log. -/
def State.logError (s : State) (kind die unit addr detail : Nat) : State :=
  let key := (kind * 32 + die) * 512 + unit
  let off : Nat → Nat := fun j => 0x40 + 32 * (j % 1024)
  let new : Unit → State := fun _ =>
    let s := s.newRecord kind die unit addr detail key
    if errClass kind = 0 then s else s.sendMsix 0 255
  if !s.pkg.ready then s
  else match s.ks.lastErr.get none key with
    | some (t, j) =>
      if s.now - t ≤ 1_000_000 ∧ s.ks.logHead ≤ j + 1024 then
        s.setHomeNat logBuf (off j + 8) 4 (min (s.homeNat logBuf (off j + 8) 4 + 1) 0xFFFF_FFFF)
      else new ()
    | none => new ()

-- Fatal errors (R501).

def CtxSt.code : CtxSt → Nat
  | .absent => 0
  | .restoring => 1
  | .running => 2
  | .freezing => 3
/-- The dump (R501). The words of the firmware cores and of the die status are open (log 22). -/
def State.dump (s : State) (cause die : Nat) : State :=
  let set : State → Nat → List Nat → State := fun s o ws => s.setHome dumpBuf o (ws.flatMap (leBytes 8))
  let open_ := (List.range 4352).map fun i => (Config.freeValue (s.freeCtr + i)).toNat
  let log := s.homeBytes logBuf 0 0x8040
  let s0 := s
  let s := { s with freeCtr := s.freeCtr + 4352 }
  let s := set s 0 [0x44554D50, cause, s.now, die]
  let s := set s 0x1000 (open_.take 4096)
  let s := s.setHome dumpBuf 0x9000 log
  let s := set s 0x12000 ((List.range 4096).flatMap s0.recordWords)
  let s := set s 0x52000 ((List.range 64).flatMap fun h =>
    match s0.mapped h with
    | some q => [q, (s0.qrec q).steps.toNat]
    | none => [0, 0])
  let s := set s 0x52400 (((s0.ctxs.filter fun e => e.2.st != .absent).take 1024).flatMap fun e =>
    [e.1 * 2 ^ 48 + CtxSt.code e.2.st, e.2.launchQ * 2 ^ 32 + e.2.launchIdx])
  set s 0x56400 (open_.drop 4096)
/-- FATAL_ERROR (R501): the module stops; the record, the dump but for a thermal trip of a Pier, MSI-X vector 255. -/
def State.fatalError (s : State) (cause kind die unit detail : Nat) : State :=
  let s := s.logError kind die unit 0 detail
  let s := if (cause = 5 ∧ dieKind die = 7) ∨ !s.pkg.ready then s else s.dump cause die
  { s with pkg := { s.pkg with fatal := some cause } }.sendMsix 0 255

end Sys2Proof.Machine
end

