-- ==== Sys2Proof/Machine/Fabric.lean ====
section
/-! DEFINITION. The fabric: frames (R478), credits and their audit (R480), Trestle circuits (R482, R483). -/

namespace Sys2Proof.Machine

-- Frames (R478).

/-- FRAME_BOUNDARY (R478): a frame begins. Every die has the time of the one clock of the model (R491). -/
def execFrameBoundary (s : State) : Out :=
  if s.alive && decide (3 ≤ s.pkg.stage) then
    .next { s with fab := { s.fab with frame := s.fab.frame + 1 } }
  else .next s

-- Credits (R476, R480). A link direction is 2 × link + direction; direction 0 runs from the lower end of `linkEnds`.

def State.link (s : State) (l : Nat) : Link := s.fab.links.get {} l
def State.setLink (s : State) (l : Nat) (x : Link) : State := { s with fab := { s.fab with links := s.fab.links.set {} l x } }
/-- Credits of a sender: 64 for each VC at reset. -/
def Link.credit (x : Link) (vc : Nat) : Nat := x.credits.get 64 vc

/-- TRAILER_DISCARD (R480): a trailer that returns n credits of a VC is lost; the returns are counted by their sender alone. -/
def execTrailerDiscard (l vc n : Nat) (s : State) : Out :=
  if 95 < l ∨ 3 < vc then .fault .noSuchUnit
  else
    let x := s.link l
    if !s.alive || x.credit vc < n then .next s
    else .next (s.setLink l { x with
      credits := x.credits.set 64 vc (x.credit vc - n)
      ret := x.ret.set 0 vc (x.ret.get 0 vc + BitVec.ofNat 32 n) })

/-- An audit is due: a frame boundary has passed whose cycle is a multiple of 65,536, and the side has not sent its AUDIT flit of that
boundary (R478, R480). -/
def State.auditDue (s : State) (l : Nat) : Bool := s.fab.frame % 64 == 0 && decide ((s.link l).auditAt < s.fab.frame)
/-- AUDIT_SEND (R480): an AUDIT flit leaves with the RET counts of the four VCs. -/
def execAuditSend (l : Nat) (s : State) : Out :=
  if 95 < l then .fault .noSuchUnit
  else if !(s.alive && s.auditDue l) then .next s
  else
    let x := s.link l
    .next (s.setLink l { x with audits := x.audits ++ [(List.range 4).map fun v => x.ret.get 0 v], auditAt := s.fab.frame })

/-- The audit of one VC: lost credits are restored and logged as corrected; more than 64 credits is a link fault. -/
def State.auditVc (s : State) (l vc : Nat) (r : BitVec 32) : State :=
  let x := s.link l
  let lost := (r - x.got.get 0 vc).toNat
  if s.pkg.fatal.isSome then s
  else if 64 < x.credit vc + lost then
    (s.setLink l { x with faulted := true }).fatalError 4 0x08 (linkDie l) (l / 2) vc
  else
    let s := s.setLink l { x with credits := x.credits.set 64 vc (x.credit vc + lost), got := x.got.set 0 vc r }
    if lost = 0 then s else s.logError 0x06 (linkDie l) (l / 2) 0 (vc * 2 ^ 32 + lost)

/-- CREDIT_AUDIT (R480): the first AUDIT flit under way arrives. -/
def execCreditAudit (l : Nat) (s : State) : Out :=
  if 95 < l then .fault .noSuchUnit
  else match s.alive, (s.link l).audits with
    | true, rs :: rest =>
      .next (rs.zipIdx.foldl (fun s e => s.auditVc l e.2 e.1) (s.setLink l { s.link l with audits := rest }))
    | _, _ => .next s

-- Circuits (R481-R483).

/-- STATE takes a value, and TIME is the device time of its last change (R482). -/
def State.setConn (s : State) (e st : Nat) : State :=
  { s with fab := { s.fab with
    connSt := s.fab.connSt.set 0 e st
    connTime := if s.connState e = st then s.fab.connTime else s.fab.connTime.set 0 e s.devTime } }
/-- Wavelength runs that overlap. -/
def runsMeet (a b : Word) : Bool :=
  decide (connFirst a < connFirst b + connCount b) && decide (connFirst b < connFirst a + connCount a)
def conflict (a b : Word) : Bool :=
  (connSrc a == connSrc b && (runsMeet a b || connDst a == connDst b)) || (connDst a == connDst b && runsMeet a b)

/-- CONNECTION_SETUP (R482, R483): a write of VALID 1. An entry that is DOWN, CONFLICT or REFUSED takes its fields; one that is DRAINING
keeps its own and is judged anew with them (log 66); one that is TUNING or ACTIVE is set up already. In the fatal state the fields take
the write and nothing is judged (R2, log 136). -/
def execConnectionSetup (e : Nat) (w0 : Word) (s : State) : Out :=
  if 511 < e then .fault .noSuchUnit
  else
    let s := s.postedAny
    let st := s.connState e
    if s.pkg.dead || !w0.getLsbD 63 || st == 1 || st == 2 then .next s
    else
      let w := if st = 3 then s.fab.conns.get 0 e ||| 0x8000_0000_0000_0000 else connFields w0
      let s := { s with fab := { s.fab with conns := s.fab.conns.set 0 e w } }
      let bad := connSrc w == connDst w || !(s.die (portDie (connSrc w))).inService || !(s.die (portDie (connDst w))).inService
        || decide (connCount w < 1) || decide (32 < connFirst w + connCount w)
      let clash := s.fab.conns.any fun x =>
        x.1 != e && (let t := s.connState x.1; t == 1 || t == 2 || t == 3) && conflict w x.2
      .next (if s.alive then s.setConn e (if bad then 5 else if clash then 4 else 1) else s)

/-- CONNECTION_TEARDOWN (R483): a write of VALID 0 that leaves the other fields; one that changes them, to an entry whose fields may
be written, is REGISTER_WRITE. In the fatal state STATE stays (log 136). -/
def execConnectionTeardown (e : Nat) (s : State) : Out :=
  if 511 < e then .fault .noSuchUnit
  else if s.pkg.dead || (s.alive && (s.connState e == 0 || s.connState e == 3)) then .next s.postedAny
  else
    let s := s.postedAny
    let w := s.fab.conns.get 0 e &&& 0x7FFF_FFFF_FFFF_FFFF
    let s := { s with fab := { s.fab with conns := s.fab.conns.set 0 e w } }
    .next (if s.alive then (s.setConn e 3).setQuotas else s)

/-- CIRCUIT_ACTIVE (R483): tuning ends; the die pair's streams move to the circuit. -/
def execCircuitActive (e : Nat) (s : State) : Out :=
  if 511 < e then .fault .noSuchUnit
  else if s.alive && s.connState e == 1 then .next (s.setConn e 2).setQuotas else .next s

/-- CIRCUIT_DOWN (R483): draining ends; the streams are back on the mesh. -/
def execCircuitDown (e : Nat) (s : State) : Out :=
  if 511 < e then .fault .noSuchUnit
  else if s.alive && s.connState e == 3 then .next (s.setConn e 0).setQuotas else .next s

end Sys2Proof.Machine
end

