-- ==== Sys2Proof/Machine/HostIo.lean ====
section
/-! DEFINITION. The Abutments: the configuration window (R17, R18, R482, R486, R487), the buffer aperture (R489), admin queues (R487),
Ethernet steering, ingress and egress (R490, R492-R494), PTP (R491). -/

namespace Sys2Proof.Machine

-- Registers of the configuration window (R486).

def State.admEn (s : State) (fn : Nat) : Bool := s.io.adminEn.get false fn
/-- The second admin register (R487). -/
def State.admWord (s : State) (fn : Nat) : Nat :=
  bit (s.io.adminReady.get false fn) 9 + bit (s.admEn fn) 8 + s.io.adminSize.get 0 fn
def State.apertureWord (s : State) (abut fn j : Nat) : Word := s.io.aperture.get 0 (fnKey abut fn * 32 + j)
def State.steerOf (s : State) (abut e : Nat) : Steer := s.io.steer.get {} (abut * 64 + e)
def State.setSteer (s : State) (abut e : Nat) (x : Steer) : State :=
  { s with io := { s.io with steer := s.io.steer.set {} (abut * 64 + e) x } }
/-- Word j of a steering entry. -/
def Steer.word (x : Steer) (j : Nat) : Word :=
  match j with
  | 0 => x.w0
  | 1 => x.w1
  | 2 => x.w2
  | _ => x.w3

/-- A context that is RESTORING, RUNNING or FREEZING exists (R491). -/
def State.anyContext (s : State) : Bool := s.ctxs.any fun e => e.2.st != .absent

/-- The 8-byte register at an offset of the configuration window of a function (R486). -/
def State.windowWord (s : State) (abut fn off : Nat) : Nat :=
  let j := off / 8
  if off < 0x440 then s.discWord j
  else if 0x800 ≤ off ∧ off < 0x940 then
    leNat ((List.range 8).map fun i => BitVec.ofNat 8 (s.remapByte (3 + (off / 8 * 8 + i - 0x800) / 16) ((off / 8 * 8 + i) % 16)))
  else if off < 0x1000 then 0
  else if off < 0x1008 then (s.io.adminBase.get 0 fn).toNat
  else if off < 0x1010 then s.admWord fn
  else if off < 0x1018 then (s.io.adminIndex.get 0 fn).toNat
  else if 0x1020 ≤ off ∧ off < 0x1028 then s.now
  else if 0x1028 ≤ off ∧ off < 0x1030 then s.io.ptpOffset.toNat * 2 ^ 32 + bit s.io.locked 0
  else if 0x1100 ≤ off ∧ off < 0x1200 then (s.apertureWord abut fn (j - 0x220)).toNat
  else if 0x2000 ≤ off ∧ off < 0x2800 ∧ fn = 0 then ((s.steerOf abut ((j - 0x400) / 4)).word ((j - 0x400) % 4)).toNat
  else if 0x4000 ≤ off ∧ off < 0x6000 ∧ fn = 0 then
    let e := (j - 0x800) / 2
    if j % 2 = 0 then (s.fab.conns.get 0 e).toNat + s.connState e * 2 ^ 60 else (s.fab.connTime.get 0 e).toNat
  else if 0x8000 ≤ off ∧ off < 0x9000 then
    let k := fnKey abut fn * 256 + (j - 0x1000) / 2
    if j % 2 = 0 then (s.io.msixAddr.get 0 k).toNat else (s.io.msixData.get msixMasked k).toNat
  else if 0x9000 ≤ off ∧ off < 0x9020 then (s.io.pba.get 0 (fnKey abut fn * 4 + (j - 0x1200))).toNat
  else 0

-- The buffer aperture (R489). Reads name their place in the BARs: below 2^36 the aperture, then the configuration window, then the
-- doorbell area (log 23).

/-- The buffer byte an aperture offset names, when the access is not refused: buffer and offset (R489). -/
def State.apertureAt (s : State) (abut fn off n : Nat) (write : Bool) : Option (Nat × Nat) :=
  let k := off / 2 ^ 32
  let o := off % 2 ^ 32
  let (w0, w1) := (s.apertureWord abut fn (2 * k), s.apertureWord abut fn (2 * k + 1))
  let (id, base) := (refId w1, w0.bits 39 0)
  let b := s.buf id
  let cover := min (2 ^ 32) (b.size - base)
  let sec := s.pkg.fnSecure.getD fn false
  if decide (2 ^ 36 ≤ off) || !w0.getLsbD 63 || decide (base % 4096 ≠ 0) || decide (cover < o + n) || !b.valid || b.gen != refGen w1
      || b.context / 2048 != fn || (b.secure && !sec) || (write && !w0.getLsbD 62)
      || (!b.host && (pageFaultIn s id (base + o) n).isSome) then none
  else some (id, base + o)
/-- A completion: its bytes, and 0 good, 1 Unsupported Request, 2 poisoned. -/
def State.complete_ (s : State) (bs : List Byte) (st : Nat) : State :=
  { s with io := { s.io with completions := s.io.completions ++ [(bs, st)] } }
/-- An endpoint answers: it exists, and no boot failure holds it (R504). -/
def endpointBad (abut fn : Nat) : Bool := abut == 0 || decide (2 < abut) || decide (16 < fn)

/-- A read of the doorbell area (R486): what a doorbell reads is open (log 98), and the rest is 0. -/
def State.readDoorbells (s : State) (o : Nat) : Nat → List Byte × State
  | 0 => ([], s)
  | n + 1 =>
    let (b, s) := if o < 0x8000 then (BitVec.ofNat 8 s.draw.1, s.draw.2) else (0, s)
    let (bs, s) := s.readDoorbells (o + 1) n
    (b :: bs, s)

/-- APERTURE_READ (R71, R486, R489). -/
def execApertureRead (abut fn off n : Nat) (s : State) : Out :=
  if endpointBad abut fn then .fault .noSuchUnit
  else if s.pkg.dead then .next (s.complete_ (List.replicate n 0) 0)
  else if 2 ^ 36 + 65536 ≤ off then
    let (bs, s) := s.readDoorbells (off - 2 ^ 36 - 65536) n
    .next (s.complete_ bs 0)
  else if 2 ^ 36 ≤ off then
    let o := off - 2 ^ 36
    let bs := (List.range n).map fun i => BitVec.ofNat 8 (s.windowWord abut fn ((o + i) / 8 * 8) / 2 ^ (8 * ((o + i) % 8)))
    .next (s.complete_ bs 0)
  else match s.apertureAt abut fn off n false with
    | none => .next (s.complete_ [] 1)
    | some (id, o) =>
      let bs := if (s.buf id).host then s.hostBytes (((s.buf id).pmap.toNat + o) % 2 ^ 64) n else s.homeBytes id o n
      .next (s.complete_ bs (if s.fwPoison id o n then 2 else 0))

/-- APERTURE_WRITE (R489): a plain write at the homes; full/empty bits are neither tested nor changed. -/
def execApertureWrite (abut fn off : Nat) (data : List Byte) (s : State) : Out :=
  if endpointBad abut fn then .fault .noSuchUnit
  else if s.pkg.dead then .next s
  else
    let s := s.posted abut
    match s.apertureAt abut fn off data.length true with
    | none => .next s
    | some (id, o) =>
      .next (if (s.buf id).host then s.setHost (((s.buf id).pmap.toNat + o) % 2 ^ 64) data else s.setHome id o data)

-- Admin queues (R487).

/-- The admin queue record and its buffer are made (R487). -/
def State.makeAdmin (s : State) (fn : Nat) : State :=
  let n := s.io.adminSize.get 0 fn
  match s.freshId with
  | (none, s) => s
  | (some id, s) =>
    let s := s.modBuf id fun b =>
      { gen := b.gen, maxRights := rightR ||| rightW ||| 1, size := 80 * 2 ^ n, refCnt := 1, context := fn * 2048, host := true, own := true,
        secure := s.pkg.fnSecure.getD fn false, valid := true, pmap := s.io.adminBase.get 0 fn }
    let idx := (s.io.adminIndex.get 0 fn).bits 31 0
    let s := s.setQrec fn
      { valid := true, secure := s.pkg.fnSecure.getD fn false, admin := true, func := fn, rsize := n, ringId := id,
        ringGen := (s.buf id).gen, ringOff := 0, wptr := idx, rptr := idx, cptr := idx }
    { s with io := { s.io with adminReady := s.io.adminReady.set false fn true } }

/-- The admin queue of a function ceases to exist. -/
def State.dropAdmin (s : State) (fn : Nat) : State :=
  let id := (s.qrec fn).ringId
  let s := if (s.qrec fn).valid then ((s.dropQueue fn).modBuf id fun b => { b with own := false }).dropRef id else s
  { s with io := { s.io with adminReady := s.io.adminReady.set false fn false, adminClosing := s.io.adminClosing.set false fn false } }

/-- What the Keystone does for an EN that is 1 (R487): the record of an earlier EN goes once its packets have completed (log 18); then,
from READY of the module on and with an RSIZE of 4 to 12, the queue is made. -/
def State.admitAdmin (s : State) (fn : Nat) : State :=
  let s := if s.io.adminClosing.get false fn && (s.qrec fn).drained then s.dropAdmin fn else s
  let n := s.io.adminSize.get 0 fn
  if s.pkg.ready && !(s.qrec fn).valid && decide (4 ≤ n) && decide (n ≤ 12) then s.makeAdmin fn else s
/-- ADMIN_QUEUE_ENABLE (R487): a write of EN 1 while EN is 0; an RSIZE outside 4 to 12 leaves READY 0. While EN is 1 it is the Keystone's
turn to make the queue that it could not make then (log 65). In the fatal state the fields take the write and nothing is made (R2,
log 136). -/
def execAdminQueueEnable (fn : Nat) (value : Word) (s : State) : Out :=
  if 16 < fn then .fault .noSuchUnit
  else if s.admEn fn then .next (if s.alive then s.admitAdmin fn else s)
  else
    let s := s.postedAny
    if s.pkg.dead || !value.getLsbD 8 then .next s
    else
      let s := { s with io :=
        { s.io with adminEn := s.io.adminEn.set false fn true, adminSize := s.io.adminSize.set 0 fn (value.bits 3 0) } }
      .next (if s.alive then s.admitAdmin fn else s)

/-- ADMIN_QUEUE_DISABLE (R487): a write of EN 0 while EN is 1; the record goes once its packets have completed, and in the fatal
state it stays (log 136). -/
def execAdminQueueDisable (fn : Nat) (s : State) : Out :=
  if 16 < fn then .fault .noSuchUnit
  else if s.pkg.dead || !(s.admEn fn || s.io.adminClosing.get false fn) then .next s
  else
    let s := if s.admEn fn then s.postedAny else s
    let s := { s with io := { s.io with adminEn := s.io.adminEn.set false fn false, adminClosing := s.io.adminClosing.set false fn true } }
    .next (if !s.alive || ((s.qrec fn).valid && !(s.qrec fn).drained) then s else s.dropAdmin fn)

-- Register writes (R2, R3, R482, R486, R487, R489).

/-- REGISTER_WRITE (R2): an 8-byte write that has no behaviour of its own sets the RW fields of its register. Writes that set or
clear EN or VALID of an admin register, a steering entry or a connection are events of their own. The reserved bits of an aperture entry
read 0 (log 105). -/
def execRegisterWrite (abut fn off : Nat) (value : Word) (s : State) : Out :=
  if endpointBad abut fn then .fault .noSuchUnit
  else if s.pkg.dead then .next s
  else
    let s := s.posted abut
    let j := off / 8
    if off < 0x1000 then .next s
    else if off < 0x1008 then
      .next (if s.admEn fn then s else { s with io := { s.io with adminBase := s.io.adminBase.set 0 fn (value &&& 0xFFFF_FFFF_FFFF_F000) } })
    else if off < 0x1010 then
      .next (if s.admEn fn || value.getLsbD 8 then s else { s with io := { s.io with adminSize := s.io.adminSize.set 0 fn (value.bits 3 0) } })
    else if off < 0x1018 then
      .next (if s.admEn fn then s else { s with io := { s.io with adminIndex := s.io.adminIndex.set 0 fn value } })
    else if 0x1100 ≤ off ∧ off < 0x1200 then
      let mask : Word := if j % 2 = 0 then 0xC000_00FF_FFFF_FFFF else 0xFFFF_FFFF_FF00_0000
      .next { s with io := { s.io with aperture := s.io.aperture.set 0 (fnKey abut fn * 32 + (j - 0x220)) (value &&& mask) } }
    else if 0x2000 ≤ off ∧ off < 0x2800 ∧ fn = 0 then
      let e := (j - 0x400) / 4
      let x := s.steerOf abut e
      if x.w0.getLsbD 63 then .next s
      else match (j - 0x400) % 4 with
        | 0 => .next (if value.getLsbD 63 then s else s.setSteer abut e { x with w0 := value &&& 0x7FFF_FFFF_F81F_0000 })
        | 1 => .next (s.setSteer abut e { x with w1 := value &&& 0x0000_FFFF_FFFF_FFFF })
        | 2 => .next (s.setSteer abut e { x with w2 := value &&& 0xFFFF_FFFF_FFFF_0000 })
        | _ => .next (s.setSteer abut e { x with w3 := value })
    else if 0x4000 ≤ off ∧ off < 0x6000 ∧ fn = 0 ∧ j % 2 = 0 then
      let e := (j - 0x800) / 2
      let st := s.connState e
      let put := { s with fab := { s.fab with conns := s.fab.conns.set 0 e (connFields value) } }
      .next (if st == 1 || st == 2 || st == 3 || value.getLsbD 63 then s else if st == 0 || !s.alive then put else put.setConn e 3)
    else if 0x8000 ≤ off ∧ off < 0x9000 then
      let v := (j - 0x1000) / 2
      let k := fnKey abut fn * 256 + v
      if j % 2 = 0 then .next { s with io := { s.io with msixAddr := s.io.msixAddr.set 0 k value } }
      else
        let s := { s with io := { s.io with msixData := s.io.msixData.set msixMasked k (value &&& 0x1_FFFF_FFFF) } }
        let p := fnKey abut fn * 4 + v / 64
        if !value.getLsbD 32 && (s.io.pba.get 0 p).getLsbD (v % 64) then
          let s := { s with io := { s.io with pba := s.io.pba.set 0 p (s.io.pba.get 0 p &&& ~~~(BitVec.ofNat 64 (2 ^ (v % 64)))) } }
          .next (s.msixOn abut fn v)
        else .next s
    else .next s

-- Steering (R492).

def Steer.valid (x : Steer) : Bool := x.w0.getLsbD 63
def Steer.ports (x : Steer) : Nat := x.w0.bits 62 59
def Steer.egress (x : Steer) : Bool := x.w0.getLsbD 27
def Steer.func (x : Steer) : Nat := x.w0.bits 20 16
def Steer.id (x : Steer) : Nat := refId x.w2
def Steer.slotBytes (x : Steer) : Nat := 2 ^ x.w2.bits 23 20
def Steer.nslots (x : Steer) : Nat := 2 ^ x.w2.bits 19 16
def Steer.descOff (x : Steer) (i : Nat) : Nat := x.w3.toNat + 16 * i
def Steer.dataOff (x : Steer) (i : Nat) : Nat := x.w3.toNat + 16 * x.nslots + x.slotBytes * i
def Steer.ringLen (x : Steer) : Nat := (16 + x.slotBytes) * x.nslots
/-- The ring can be reached: its generation is current and every page it covers is resident. -/
def State.ringLive (s : State) (x : Steer) : Bool :=
  let b := s.buf x.id
  b.valid && b.gen == refGen x.w2 &&
    (List.range ((x.w3.toNat + x.ringLen - 1) / 65536 + 1 - x.w3.toNat / 65536)).all fun i =>
      (pageFault s x.id ((x.w3.toNat / 65536 + i) * 65536)).isNone
/-- A write that sets VALID is refused (R492). -/
def State.steerBad (s : State) (x : Steer) : Bool :=
  let b := s.buf x.id
  decide (x.w2.bits 23 20 < 8) || decide (14 < x.w2.bits 23 20) || decide (x.w2.bits 19 16 < 4) || decide (16 < x.func)
    || x.w3.toNat % 4096 != 0 || b.context / 2048 != x.func || b.maxRights &&& (rightW ||| rightF) != (rightW ||| rightF)
    || decide (b.size < x.w3.toNat + x.ringLen) || !s.ringLive x
    || (x.egress && !(x.ports == 1 || x.ports == 2 || x.ports == 4 || x.ports == 8))

/-- STEERING_ENABLE (R492): the entry's words with VALID 1 are checked; on acceptance the descriptors are emptied, and NEXT and SEQ
become 0. A write that leaves VALID 1 is ignored. The Abutment does so in the fatal state too (log 136). -/
def execSteeringEnable (abut e : Nat) (w0 w1 w2 w3 : Word) (s : State) : Out :=
  if abut = 0 ∨ 2 < abut ∨ 63 < e then .fault .noSuchUnit
  else if s.pkg.dead then .next s
  else if !w0.getLsbD 63 || (s.steerOf abut e).valid then .next (s.posted abut)
  else
    let s := s.posted abut
    let x : Steer :=
      { s.steerOf abut e with w0 := w0 &&& 0xFFFF_FFFF_F81F_0000, w1 := w1 &&& 0x0000_FFFF_FFFF_FFFF,
                              w2 := w2 &&& 0xFFFF_FFFF_FFFF_0000, w3 := w3, next := 0, seq := 0 }
    if s.steerBad x then
      .next (s.setSteer abut e { x with w0 := x.w0 &&& 0x7FFF_FFFF_FFFF_FFFF, next := (s.steerOf abut e).next, seq := (s.steerOf abut e).seq })
    else
      let s := (List.range x.nslots).foldl (fun s i =>
        let s := s.setFeAt x.id (x.descOff i) false
        if x.egress then s.setFeAt x.id (x.descOff i + 8) false else s) s
      .next (s.setSteer abut e x)

/-- STEERING_DISABLE (R492): VALID 0; every other field of the write is ignored. -/
def execSteeringDisable (abut e : Nat) (s : State) : Out :=
  if abut = 0 ∨ 2 < abut ∨ 63 < e then .fault .noSuchUnit
  else if s.pkg.dead then .next s
  else
    let s := s.posted abut
    let x := s.steerOf abut e
    .next (if x.valid then s.setSteer abut e { x with w0 := x.w0 &&& 0x7FFF_FFFF_FFFF_FFFF } else s)

-- Frames (R490, R492-R494).

/-- A big-endian value of a frame. -/
def frameNat (f : List Byte) (o n : Nat) : Nat := (f.drop o |>.take n).foldl (fun x b => x * 256 + b.toNat) 0
def frameTagged (f : List Byte) : Bool := frameNat f 12 2 == 0x8100
/-- The EtherType that steering compares, and the VLAN ID (R492). -/
def frameType (f : List Byte) : Nat := if frameTagged f then frameNat f 16 2 else frameNat f 12 2
def frameVlan (f : List Byte) : Nat := frameNat f 14 2 % 4096
/-- Does an entry take a frame of a port? -/
def Steer.takes (x : Steer) (port : Nat) (f : List Byte) : Bool :=
  x.valid && !x.egress && x.ports.testBit port
    && (!x.w0.getLsbD 58 || frameNat f 0 6 == x.w1.bits 47 0)
    && (!x.w0.getLsbD 57 || (frameTagged f && frameVlan f == x.w0.bits 55 44))
    && (!x.w0.getLsbD 56 || frameType f == x.w0.bits 43 28)
/-- The first entry that takes a frame (R492). -/
def State.steerFor (s : State) (abut port : Nat) (f : List Byte) : Option Nat :=
  (List.range 64).find? fun e => (s.steerOf abut e).takes port f
/-- A frame dropped at its port is counted (R490, R492). -/
def State.countDrop (s : State) (abut port : Nat) : State :=
  { s with io := { s.io with portDrops := s.io.portDrops.set 0 (abut * 4 + port) (s.io.portDrops.get 0 (abut * 4 + port) + 1) } }
/-- The view of a steering ring's buffer. -/
def Steer.loc (s : State) (x : Steer) : Loc := .dev (Cap.make x.id (s.buf x.id).gen (s.buf x.id).maxRights (s.buf x.id).size 0)

/-- The ns from a frame's timestamp point to the arrival of its last byte, rounded up (R493). -/
def wireTime (f : List Byte) : Nat := (f.length + 4) * 8 / 800 + bit (decide ((f.length + 4) * 8 % 800 ≠ 0)) 0
/-- The device time at the timestamp point of a frame that a port has received (R491, R493): `age` ns back, no less than the frame takes
to arrive, and not before the last byte of the frame that the port timestamped before it (log 133). -/
def State.portStamp (s : State) (abut port : Nat) (f : List Byte) (age : Nat) : Nat :=
  max (min (s.io.portEnd.get 0 (abut * 4 + port)) s.now) (s.now - max age (wireTime f))
/-- A frame has arrived whole at a port: when its last byte did. -/
def State.portTook (s : State) (abut port : Nat) (f : List Byte) (stamp : Nat) : State :=
  { s with io := { s.io with portEnd := s.io.portEnd.set 0 (abut * 4 + port) (stamp + wireTime f) } }

/-- The ingress engine's work on a frame that an entry takes (R493). -/
def State.ingress (s : State) (abut e port : Nat) (f : List Byte) (stamp : Nat) : State :=
  let x := { s.steerOf abut e with seq := (s.steerOf abut e).seq + 1 }
  let d := x.descOff x.next
  if !s.ringLive x || s.feAt x.id d || decide (x.slotBytes < f.length) then s.setSteer abut e { x with drops := x.drops + 1 }
  else
    let s := (({ s := s } : Work).write noL1 (Steer.loc s x) (x.dataOff x.next) f false 0).s
    let s := s.setHomeNat x.id (d + 8) 8 stamp
    let s := s.setHomeNat x.id d 8 ((x.seq - 1).toNat * 2 ^ 32 + port * 2 ^ 30 + f.length)
    (s.setFeAt x.id d true).setSteer abut e { x with next := (x.next + 1) % x.nslots }

/-- INGRESS_FRAME (R491-R493): a frame of a port, its timestamp point `age` ns back as far as the port's frames allow. -/
def execIngressFrame (abut port : Nat) (f : List Byte) (age : Nat) (s : State) : Out :=
  if abut = 0 ∨ 2 < abut ∨ 3 < port then .fault .noSuchUnit
  else if !(s.alive && s.pkg.ready) || frameNat f 12 2 == 0x88F7 then .next s
  else
    let stamp := s.portStamp abut port f age
    let s := s.portTook abut port f stamp
    match s.steerFor abut port f with
    | some e => .next (s.ingress abut e port f stamp)
    | none => .next (s.countDrop abut port)

/-- RECEIVED_FRAME_DROP (R490, R492): a bad FCS, or no entry that takes the frame; a sound PTP frame goes to the Keystone before
steering (R491). -/
def execReceivedFrameDrop (abut port : Nat) (f : List Byte) (badFcs : Bool) (s : State) : Out :=
  if abut = 0 ∨ 2 < abut ∨ 3 < port then .fault .noSuchUnit
  else if s.alive && s.pkg.ready && (badFcs || (frameNat f 12 2 != 0x88F7 && (s.steerFor abut port f).isNone)) then .next (s.countDrop abut port)
  else .next s

/-- One byte more of the CRC-32 of IEEE 802.3, least significant bit first. -/
def crcByte (c : BitVec 32) (b : Byte) : BitVec 32 :=
  (List.range 8).foldl (fun c _ => if c.getLsbD 0 then c >>> 1 ^^^ 0xEDB8_8320 else c >>> 1) (c ^^^ b.setWidth 32)
/-- The FCS of a frame (R494; log 99). -/
def frameFcs (f : List Byte) : BitVec 32 := ~~~(f.foldl crcByte 0xFFFF_FFFF)
/-- The port that an egress entry names (R492). -/
def Steer.port (x : Steer) : Nat := Nat.log2 x.ports

/-- A frame leaves through a port with its FCS (R490, R494). -/
def State.sendFrame (s : State) (abut port : Nat) (f : List Byte) : State :=
  { s with io := { s.io with sent := s.io.sent ++ [⟨abut, port, f, frameFcs f⟩] } }
/-- The egress engine at NEXT (R494): word 0 is consumed, the frame sent and word 1 filled, at one device time, which is the frame's
transmit timestamp (log 133); an unreachable ring leaves it there. -/
def State.egress (s : State) (abut e : Nat) : State :=
  let x := s.steerOf abut e
  let d := x.descOff x.next
  if !(s.alive && s.pkg.ready && x.valid && x.egress && s.ringLive x && s.feAt x.id d) then s
  else
    let len := s.homeNat x.id d 8 % 65536
    let s := s.setFeAt x.id d false
    let bad := decide (len < 60) || decide (x.slotBytes < len)
    let frame := (s.homeBytes x.id (x.dataOff x.next) len).zipIdx.map fun b =>
      if s.poisonAt x.id (x.dataOff x.next + b.2) then 0 else b.1
    let s := if bad then s else s.sendFrame abut x.port frame
    let s := s.setHomeNat x.id (d + 8) 8 (if bad then 2 ^ 64 - 1 else s.now)
    (s.setFeAt x.id (d + 8) true).setSteer abut e { x with next := (x.next + 1) % x.nslots }

/-- EGRESS_SLOT (R494): no part of it lies back, whatever age the event names (log 133). -/
def execEgressSlot (abut e _age : Nat) (s : State) : Out :=
  if abut = 0 ∨ 2 < abut ∨ 63 < e then .fault .noSuchUnit else .next (s.egress abut e)

/-- EGRESS_RETRY (R494): a stalled ring's slot is tried again, as of now (log 133). -/
def execEgressRetry (abut e _age : Nat) (s : State) : Out :=
  if abut = 0 ∨ 2 < abut ∨ 63 < e then .fault .noSuchUnit else .next (s.egress abut e)

/-- PTP_FRAME (R491): the Keystone's servo takes a message of its port and sends the messages of its own there, EtherType 0x88F7, whose
words are those of IEEE 1588 (log 63); device time is stepped only while no context is in the machine, and stamps taken before say
nothing of those after. -/
def execPtpFrame (abut port : Nat) (locked : Bool) (offset : BitVec 32) (act : PtpAct) (s : State) : Out :=
  if abut = 0 ∨ 2 < abut ∨ 3 < port then .fault .noSuchUnit
  else if !s.alive || s.io.ptpPort != (abut - 1) * 4 + port then .next s
  else
    let s := { s with io := { s.io with locked := locked, ptpOffset := offset } }
    let s := (act.out.filter fun f => frameNat f 12 2 == 0x88F7).foldl (fun s f => s.sendFrame abut port f) s
    .next (if s.anyContext then s else
      { s with devTime := s.devTime + BitVec.ofInt 64 act.adjust, io := { s.io with portEnd := [] } })

end Sys2Proof.Machine
end

