-- ==== Sys2Proof/Machine/Reliability.lean ====
section
/-! DEFINITION. Errors of the hardware (R495-R498), heartbeats (R500), boot and attestation (R502, R504, R505, R507), temperature
(R506), reset (R508), and the late write-back of dirty bytes (R51). -/

namespace Sys2Proof.Machine

-- Errors of HBM and of a core's memories (R271, R277, R496).

/-- The 32 bits of metadata of the sector that holds a byte (R274): FE, PARK, POISON, and CHECK over the data and these. -/
def State.sectorMeta (s : State) (id off : Nat) : BitVec 32 :=
  let o := off / 32 * 32
  let low := BitVec.ofNat 16 (((List.range 4).map fun i => bit (s.feAt id (o + 8 * i)) i).sum + bit (s.parkedAt id o) 4
    + bit (s.poisonAt id o) 5)
  Config.checkCode (s.homeBytes id o 32) low ++ low

/-- The buffer and page that hold a physical address. -/
def State.pageHolding (s : State) (pa : Nat) : Option (Nat × Nat) :=
  (s.pages.find? fun e => pageValid e.2 && pageRes e.2 && physOf e.2 0 / 65536 == pa / 65536).map fun e => (e.1 / 2 ^ 24, e.1 % 2 ^ 24)
/-- The page of a buffer that holds a physical address, as DETAIL gives it (R499). -/
def State.ownerOf (s : State) (pa : Nat) : Nat :=
  match s.pageHolding pa with
  | some (id, page) => id * 2 ^ 40 + page
  | none => 0
/-- A granule of HBM becomes poisoned (R277): a write to the page that holds it (R286). -/
def State.poisonHbm (s : State) (pa : Nat) : State :=
  match s.pageHolding pa with
  | some (id, page) => s.setPoison id (page * 65536 + pa % 65536) true
  | none => s
/-- A record of an error in HBM: die, pseudo-channel (R272), granule, and the page's owner. -/
def State.logHbm (s : State) (kind pa : Nat) : State :=
  s.logError kind (23 + pa / 2 ^ 36 % 8) ((pa % 65536 / 512 + pa / 65536 % 2 ^ 20) % 64) (pa / 32 * 32) (s.ownerOf pa)

/-- 24 hours in ns (R498), a closed limit (R8). -/
def dayNs : Nat := 86_400_000_000_000
/-- A corrected error on a core is logged, with the granule and its page where it has one, and counted toward its retirement (R496,
R498, R499). -/
def State.correctedOn (s : State) (die pos addr detail : Nat) : State :=
  let near := ((s.die die).corrected.get [] pos).filter fun t => decide (s.now ≤ t + dayNs)
  (s.modDie die fun d => { d with corrected := d.corrected.set [] pos (s.now :: near) }).logError 0x03 die pos addr detail

/-- Contexts with a logical core on a unit end (R497). -/
def State.killOn (s : State) (on : LCore → Bool) : State :=
  (dedup ((s.lcores.filter fun e => on e.2).map fun e => ctxOfLc e.1)).foldl (fun s x => s.killContext x) s

/-- The granules of a line that hold dirty bytes. -/
def State.dirtyGranules (s : State) (c line : Nat) : List Nat :=
  [2 * line, 2 * line + 1].filter fun g =>
    (List.range 32).any fun i => match (s.lcore c).l1.get none (32 * g + i) with
      | some x => x.dirty
      | none => false
/-- A granule whose dirty bytes are lost is written home poisoned; the bytes are open (log 12). -/
def State.poisonHome (s : State) (c g : Nat) : State :=
  let (id, off) := (32 * g / 2 ^ 40, 32 * g % 2 ^ 40)
  let s := (List.range 32).foldl (fun s i => match (s.lcore c).l1.get none (32 * g + i) with
    | some ⟨_, true⟩ => s.draw.2.setHomeByte id (off + i) (BitVec.ofNat 8 s.draw.1)
    | _ => s) s
  let s := s.setPoison id off true
  s.logError 0x04 (s.lcore c).die (s.lcore c).pos (s.pa id off / 32 * 32) (s.ownerOf (s.pa id off))
/-- A line leaves the L1 with nothing written back. -/
def State.loseLine (s : State) (c line : Nat) : State :=
  s.modLcore c fun l => l.leave (l.l1.clear (line * 64) (line * 64 + 64))

/-- A logical core that a physical core holds: the core that has the memories of its number. -/
def State.hasMemory (s : State) (c : Nat) : Bool :=
  decide ((s.ctx (ctxOfLc c)).st ≠ .absent) && decide (c % 320 < (s.ctx (ctxOfLc c)).lcount) && (s.lcore c).resident
/-- A contained error in a memory of a logical core (R496): what is poisoned, and the record. -/
def State.memoryError (s : State) (c : Nat) (f : LCore → LCore) : State :=
  (s.modLcore c f).logError 0x04 (s.lcore c).die (s.lcore c).pos 0 0

/-- HARDWARE_ERROR (R475, R495-R501). Before READY there is no log to record it in, and the rest happens all the same. -/
def execHardwareError (e : HwError) (s : State) : Out :=
  if !s.alive then .next s
  else match e with
    | .hbmCorrected pa => if 2 ^ 39 ≤ pa then .fault .noSuchUnit else .next (s.logHbm 0x01 pa)
    | .hbmUncorrectable pa =>
      if 2 ^ 39 ≤ pa then .fault .noSuchUnit
      else
        .next ((s.poisonHbm pa).logHbm 0x02 pa)
    | .sramCorrected die pos =>
      if die = 0 then .next (s.logError 0x03 0 0 0 0)
      else if !isCompute die || decide (15 < pos) then .fault .noSuchUnit else .next (s.correctedOn die pos 0 0)
    | .sramUncorrectable die pos =>
      if !isCompute die || decide (15 < pos) then .fault .noSuchUnit else .next (s.logError 0x04 die pos 0 0)
    | .l1Corrected c g =>
      let pa := s.pa (32 * g / 2 ^ 40) (32 * g % 2 ^ 40)
      if !s.hasMemory c then .fault .noSuchUnit
      else .next (s.correctedOn (s.lcore c).die (s.lcore c).pos (pa / 32 * 32) (s.ownerOf pa))
    | .l1Uncorrectable c line =>
      let pa := s.pa (64 * line / 2 ^ 40) (64 * line % 2 ^ 40)
      if !s.hasMemory c then .fault .noSuchUnit
      else match s.dirtyGranules c line with
      | [] => .next ((s.loseLine c line).correctedOn (s.lcore c).die (s.lcore c).pos (pa / 32 * 32) (s.ownerOf pa))
      | gs => .next ((gs.foldl (fun s g => s.poisonHome c g) s).loseLine c line)
    | .localStoreUncorrectable c g =>
      if lsSize / 32 + 128 ≤ g ∨ !s.hasMemory c then .fault .noSuchUnit
      else .next (s.memoryError c fun l => { l with lsPoison := l.lsPoison.set false g true })
    | .operandUncorrectable c slot g =>
      if 511 < g ∨ !s.hasMemory c then .fault .noSuchUnit
      else .next (s.memoryError c fun l =>
        let x := l.mx.slots.get {} slot
        if x.st = .free then l
        else { l with mx := { l.mx with slots := l.mx.slots.set {} slot { x with poison := x.poison.set false g true } } })
    | .accumulatorUncorrectable c g =>
      if 8191 < g ∨ !s.hasMemory c then .fault .noSuchUnit
      else .next (s.memoryError c fun l => { l with mx := { l.mx with regionPoison := l.mx.regionPoison.set false g true } })
    | .registerUncorrectable die pos =>
      if !isCompute die || decide (15 < pos) then .fault .noSuchUnit
      else
        let s := s.killOn fun l => l.die == die && l.pos == pos
        .next ((s.modDie die fun d => { d with failing := d.failing.set false pos true }).logError 0x05 die pos 0 0)
    | .keystoneMemory => .next (s.fatalError 2 0x0D 0 0 2)
    | .firmwareState core => if 7 < core then .fault .noSuchUnit else .next (s.fatalError 3 0x0D 0 0 3)
    | .laneRepaired link lane =>
      if 47 < link then .fault .noSuchUnit else .next (s.logError 0x07 (linkEnds link).1 link 0 lane)
    | .routerUncorrectable die =>
      if 30 < die then .fault .noSuchUnit else .next (s.modDie die fun d => { d with routerBad := true })
    | .trestle => .next (s.fatalError 6 0x0D 31 0 6)

-- Retirement (R18, R497, R498).

/-- CHANGES counts up (R18). -/
def State.countChange (s : State) (c : Option Change) : State :=
  { s with pkg := { s.pkg with changes := s.pkg.changes + 1, changing := c } }
/-- The next write of a change (R18, R498): CHANGES, odd; the entries; CHANGES, even, with the record in the log. -/
def State.writeChange (s : State) (c : Change) : State :=
  match c.made with
  | 1 => s.countChange (some { c with made := 2 })
  | 2 => { s with pkg := { s.pkg with changing := some { c with made := 3 } } }
  | _ => (s.countChange none).logError (if c.pos = 16 then 0x0A else 0x09) c.die (c.pos % 16) 0 0
/-- A unit that is due goes out of service (R18, R497, R498): its contexts end, and the remap tables are written. Each further event of
the unit makes the next write of the change that has begun; no other change begins meanwhile. Position 16 stands for the die. -/
def State.retireUnit (s : State) (die pos : Nat) (due : Bool) (on : LCore → Bool) (f : Die → Die) : State :=
  match s.pkg.changing with
  | some c => if c.die = die ∧ c.pos = pos then s.writeChange c else s
  | none =>
    if !due then s
    else
      let s := s.killOn on
      let t := s.modDie die f
      { t with pkg := { t.pkg with changing := some { die := die, pos := pos, old := s.die die, made := 1 } } }
/-- A core must retire: a class 2 error, or 1,000 corrected errors within 24 hours. -/
def State.coreFails (s : State) (die pos : Nat) : Bool :=
  (s.die die).failing.get false pos
    || decide (1000 ≤ (((s.die die).corrected.get [] pos).filter fun t => decide (s.now ≤ t + dayNs)).length)

/-- CORE_RETIREMENT (R498). -/
def execCoreRetirement (die pos : Nat) (s : State) : Out :=
  if !isCompute die || decide (15 < pos) then .fault .noSuchUnit
  else if !(s.alive && s.pkg.ready) then .next s
  else
    .next (s.retireUnit die pos ((s.die die).cores.getLsbD pos && s.coreFails die pos) (fun l => l.die == die && l.pos == pos)
      fun d => { d with cores := d.cores &&& ~~~(BitVec.ofNat 16 (2 ^ pos)) })

/-- DIE_RETIREMENT (R498). -/
def execDieRetirement (die : Nat) (s : State) : Out :=
  if 31 < die then .fault .noSuchUnit
  else
    let d := s.die die
    if !(s.alive && s.pkg.ready) then .next s
    else
      .next (s.retireUnit die 16 (d.inService && (d.routerBad || (isCompute die && d.nCores == 0))) (fun l => l.die == die)
        fun d => { d with inService := false, retired := true, cores := 0 })

/-- PATROL_SCRUB (R496): the SRAMs of every core are read and rewritten; sound data stay as they are, and an error found is an
event of its own. -/
def execPatrolScrub (s : State) : Out := .next s

-- Heartbeats (R500).

/-- HEARTBEAT (R500): every 50 µs of device time a firmware core's counter advances, and it checks that of the next; four missed
beats are fatal. A time far before the one it waits for is a clock that stepped back (R491). -/
def execHeartbeat (core : Nat) (s : State) : Out :=
  if 7 < core then .fault .noSuchUnit
  else if !(s.alive && decide (1 ≤ s.pkg.stage)) then .next s
  else if s.now < s.ks.beatDue.get 0 core ∧ s.ks.beatDue.get 0 core ≤ s.now + 50_000 then .next s
  else
    let j := (core + 1) % 8
    let b := s.ks.beats.get 0 j
    let m := if b = s.ks.beatSeen.get 0 j then s.ks.missed.get 0 j + 1 else 0
    let s := { s with ks := { s.ks with
      beats := s.ks.beats.set 0 core (s.ks.beats.get 0 core + 1)
      beatSeen := s.ks.beatSeen.set 0 j b
      beatDue := s.ks.beatDue.set 0 core (s.now + 50_000)
      missed := s.ks.missed.set 0 j m } }
    .next (if 4 ≤ m then s.fatalError 1 0x0C 0 0 j else s)

-- Temperature (R506).

/-- THERMAL_THROTTLE (R506): the record is written once on each entry. -/
def execThermalThrottle (die temp : Nat) (s : State) : Out :=
  if 31 < die then .fault .noSuchUnit
  else if !s.alive || decide (temp < 95) || (s.die die).throttled then .next s
  else .next ((s.modDie die fun d => { d with throttled := true }).logError 0x0B die 0 0 temp)
/-- THERMAL_THROTTLE_END (R506). -/
def execThermalThrottleEnd (die temp : Nat) (s : State) : Out :=
  if 31 < die then .fault .noSuchUnit
  else if !s.alive || decide (90 ≤ temp) then .next s
  else .next (s.modDie die fun d => { d with throttled := false })
/-- THERMAL_TRIP (R506): fatal, with cause 0x05. -/
def execThermalTrip (die temp : Nat) (s : State) : Out :=
  if 31 < die then .fault .noSuchUnit
  else if !s.alive || decide (temp < 110) then .next s
  else .next (s.fatalError 5 0x0D die 0 5)

-- Boot (R502, R504, R507) and attestation (R505).

/-- Value j of a signed image's trailer: MAGIC, SVN, length, digest, X, Y, r, s (log 25). -/
def trailerVal (img : List Byte) (j : Nat) : List Byte := img.drop (img.length - 512 + 48 * j) |>.take 48
def imageBody (img : List Byte) : List Byte := img.take (img.length - 512)
/-- A big-endian value. -/
def beNat (bs : List Byte) : Nat := bs.foldl (fun x b => x * 256 + b.toNat) 0
/-- The bytes of a 48-byte register, most significant first. -/
def be48 (x : BitVec 384) : List Byte := (leBytes 48 x.toNat).reverse
def imageSvn (img : List Byte) : Nat := beNat (trailerVal img 1)
/-- A signed image is accepted (R504). -/
def imageOk (img : List Byte) : Bool :=
  let key := trailerVal img 4 ++ trailerVal img 5
  let digest := Config.sha384 (imageBody img)
  decide (512 ≤ img.length) && beNat (trailerVal img 2) == (imageBody img).length
    && beNat (trailerVal img 3) == digest.toNat && Config.sha384 key == Config.rootHash
    && Config.ecdsaVerify key digest (trailerVal img 6 ++ trailerVal img 7)
    && decide (((List.range 64).filter fun i => Config.rollback.getLsbD i).length ≤ imageSvn img)
/-- The copy of a stage's image that is accepted; none: both fail. -/
def bootImage (stage : Nat) : Option (List Byte) :=
  if imageOk (Config.flashImage stage 0) then some (Config.flashImage stage 0)
  else if imageOk (Config.flashImage stage 1) then some (Config.flashImage stage 1)
  else none
/-- M := SHA-384(M || digest). -/
def State.extend (s : State) (m : Nat) (digest : BitVec 384) : State :=
  { s with pkg := { s.pkg with measure := s.pkg.measure.set m (Config.sha384 (be48 (s.pkg.measure.getD m 0) ++ be48 digest)) } }
/-- A stage is verified and measured; when both copies fail, the module is dead until a cold reset (R504). -/
def State.bootStage (s : State) (stage m : Nat) : State :=
  match bootImage stage with
  | some img => s.extend m (Config.sha384 (imageBody img))
  | none => { s with pkg := { s.pkg with dead := true } }

/-- A buffer of the Keystone's own (R499, R501, R505): the physical function's, never freed. -/
def State.makeBuffer (s : State) (id size rights : Nat) : State :=
  let s := s.setBuf id { maxRights := rights, size := size, refCnt := 1, own := true, valid := true }
  (List.range (size / 65536)).foldl (fun s i => s.allocPage id i true) s
/-- The bytes of the discovery table. -/
def State.discBytes (s : State) : List Byte := (List.range 136).flatMap fun j => leBytes 8 (s.discWord j)
/-- The last stage: buffers, world policy, READY (R507). The attestation buffer's word 0 is empty, and its chain lies at 0x1000. -/
def State.makeReady (s : State) : State :=
  let s := s.makeBuffer logBuf 65536 rightR
  let s := s.makeBuffer dumpBuf 0x60000 rightR
  let s := s.makeBuffer attestBuf 65536 (rightR ||| rightW ||| rightF)
  let s := (s.setHome attestBuf 0x1000 (Config.certChain.take 0xF000)).setFeAt attestBuf 0 false
  let s := s.bootStage 4 4
  if s.pkg.dead then s
  else
    let s := { s with pkg := { s.pkg with fnSecure := (List.range 17).map Config.worldPolicy, ready := true } }
    s.extend 3 (Config.sha384 s.discBytes)

/-- How an endpoint answers a configuration request (R507): not at all before the second step of bring-up, with Request Retry Status
until READY, and then normally. -/
inductive ConfigAnswer where
  | none | retry | normal
  deriving DecidableEq, Repr
def State.configAnswer (s : State) : ConfigAnswer :=
  if s.pkg.ready then .normal else if 2 ≤ s.pkg.stage then .retry else .none

/-- BRING_UP (R507): the next of the six steps, each after the one before it has ended. -/
def execBringUp (s : State) : Out :=
  if !s.alive || s.pkg.ready then .next s
  else
    let s := { s with pkg := { s.pkg with stage := s.pkg.stage + 1 } }
    .next (match s.pkg.stage with
      | 1 => (s.extend 0 Config.romDigest).bootStage 1 1
      | 3 => { s with fab := { s.fab with frame := 0 } }
      | 5 => s.bootStage 2 2
      | 6 => s.makeReady
      | _ => s)

/-- The report of an attestation request (R505). -/
def State.report (s : State) (req : Nat) : State :=
  let nonce := s.homeBytes attestBuf 8 48
  let svn := match bootImage 1 with
    | some img => imageSvn img % 2 ^ 64
    | none => 0
  let s := s.setHome attestBuf 0x100 ([0x41545354, req, svn, s.now].flatMap (leBytes 8))
  let s := s.setHome attestBuf 0x140 (s.pkg.measure.flatMap be48)
  let s := s.setHome attestBuf 0x230 nonce
  s.setHome attestBuf 0x260 ((Config.ecdsaSign (Config.sha384 (s.homeBytes attestBuf 0x100 0x160))).take 96)
/-- ATTESTATION_REQUEST (R505): a full word 0 is consumed, and word 0x40 filled after the report. -/
def execAttestationRequest (s : State) : Out :=
  if !(s.alive && s.pkg.ready && s.feAt attestBuf 0) then .next s
  else
    let req := s.homeNat attestBuf 0 8
    let s := ((s.setFeAt attestBuf 0 false).setFeAt attestBuf 0x40 false).report req
    .next ((s.setHomeNat attestBuf 0x40 8 req).setFeAt attestBuf 0x40 true)

-- Reset (R508).

/-- The module is reset: what stands outside it stays, and so does its population (log 26). -/
def State.moduleReset (s : State) : State :=
  { State.reset with
    agenda := s.agenda, freeCtr := s.freeCtr, hints := s.hints, hostMem := s.hostMem, hostPoison := s.hostPoison
    pkg := { State.reset.pkg with
      dies := s.pkg.dies.map fun e => (e.1, { e.2 with secure := false, throttled := false, corrected := [] }) }
    io := { State.reset.io with completions := s.io.completions, sent := s.io.sent, ptpPort := s.io.ptpPort } }
/-- COLD_RESET (R508). -/
def execColdReset (s : State) : Out := .next s.moduleReset
/-- PERST_ABUTMENT_1 (R508): the whole module. -/
def execPerstAbutment1 (s : State) : Out := .next s.moduleReset
/-- The aperture entries and the MSI-X registers that a test of their function keys names return to their reset values. -/
def State.dropWindows (s : State) (gone : Nat → Bool) : State :=
  { s with io := { s.io with
    aperture := s.io.aperture.filter fun e => !gone (e.1 / 32)
    msixAddr := s.io.msixAddr.filter fun e => !gone (e.1 / 256)
    msixData := s.io.msixData.filter fun e => !gone (e.1 / 256)
    pba := s.io.pba.filter fun e => !gone (e.1 / 4) } }
/-- PERST_ABUTMENT_2 (R508): only that endpoint (log 26). -/
def execPerstAbutment2 (s : State) : Out := .next (s.dropWindows fun k => k / 32 == 2)
/-- FUNCTION_LEVEL_RESET (R508) of a virtual function: its contexts end, its queues go, and so do its buffer references. -/
def execFunctionLevelReset (fn : Nat) (s : State) : Out :=
  if fn = 0 ∨ 16 < fn then .fault .noSuchUnit
  else if !s.alive then .next s
  else
    let s := ((s.ctxs.map Prod.fst).filter fun x => x / 2048 == fn).foldl (fun s x => s.killContext x) s
    let qs := (s.ks.qrecs.filter fun e => e.2.valid && e.2.func == fn).map Prod.fst
    let s := (qs.filter (· != fn)).foldl (fun s q => s.dropQueue q) s
    let s := s.dropAdmin fn
    let ids := (s.bufs.filter fun e => e.2.valid && e.2.driver && e.2.context / 2048 == fn).map Prod.fst
    let s := ids.foldl (fun s b => (s.modBuf b fun r => { r with driver := false }).dropRef b) s
    .next ({ s with io := { s.io with
      adminBase := s.io.adminBase.set 0 fn 0, adminEn := s.io.adminEn.set false fn false
      adminSize := s.io.adminSize.set 0 fn 0, adminIndex := s.io.adminIndex.set 0 fn 0 } }.dropWindows fun k => k % 32 == fn)

-- Late write-back (R51).

/-- DIRTY_BYTE_WRITE_BACK (R51): the dirty bytes of a line go home. -/
def execDirtyByteWriteBack (c line : Nat) (s : State) : Out :=
  if s.alive then .next (s.writeBackLine c line) else .next s

end Sys2Proof.Machine
end

