-- ==== Sys2Proof/Machine/ScalarFp.lean ====
section
/-! DEFINITION. Scalar floating-point instructions (R167-R174). -/

namespace Sys2Proof.Machine

/-- The shared form: compute a result code with its flags, deliver it under the enables (R81, R167). -/
def State.fpWord (s : State) (i : Instr) (g : Guard) (d : SR) (f : Strand → Num.Res) : Out :=
  s.run i g .any fun t => let r := f t; s.deliver t (wordOf i) r.fl fun t => t.ws d (BitVec.ofNat 64 r.code)

/-- The w-bit code in a scalar register (R162). -/
def Strand.code (t : Strand) (ty : Ty) (r : SR) : Nat := low ty.width (t.rs r)

/-- fadd (R168). -/
def execFadd (g : Guard) (ty : Ty) (rm : Rc) (d a b : SR) (s : State) : Out :=
  s.fpWord (.fadd g ty rm d a b) g d fun t => Num.fadd ty (t.mode rm) (t.code ty a) (t.code ty b)

/-- fsub (R168). -/
def execFsub (g : Guard) (ty : Ty) (rm : Rc) (d a b : SR) (s : State) : Out :=
  s.fpWord (.fsub g ty rm d a b) g d fun t => Num.fsub ty (t.mode rm) (t.code ty a) (t.code ty b)

/-- fmul (R168). -/
def execFmul (g : Guard) (ty : Ty) (rm : Rc) (d a b : SR) (s : State) : Out :=
  s.fpWord (.fmul g ty rm d a b) g d fun t => Num.fmul ty (t.mode rm) (t.code ty a) (t.code ty b)

/-- fdiv (R168). -/
def execFdiv (g : Guard) (ty : Ty) (rm : Rc) (d a b : SR) (s : State) : Out :=
  s.fpWord (.fdiv g ty rm d a b) g d fun t => Num.fdiv ty (t.mode rm) (t.code ty a) (t.code ty b)

/-- fsqrt (R168). -/
def execFsqrt (g : Guard) (ty : Ty) (rm : Rc) (d a : SR) (s : State) : Out :=
  s.fpWord (.fsqrt g ty rm d a) g d fun t => Num.fsqrt ty (t.mode rm) (t.code ty a)

/-- fma and its aliases (R168). -/
def execFma (g : Guard) (ty : Ty) (rm : Rc) (neg : BitVec 2) (d a b c : SR) (s : State) : Out :=
  s.fpWord (.fma g ty rm neg d a b c) g d fun t =>
    Num.fma ty (t.mode rm) neg (t.code ty a) (t.code ty b) (t.code ty c)

/-- fmin (R169). -/
def execFmin (g : Guard) (ty : Ty) (d a b : SR) (s : State) : Out :=
  s.fpWord (.fmin g ty d a b) g d fun t => Num.fminmax ty false (t.code ty a) (t.code ty b)

/-- fmax (R169). -/
def execFmax (g : Guard) (ty : Ty) (d a b : SR) (s : State) : Out :=
  s.fpWord (.fmax g ty d a b) g d fun t => Num.fminmax ty true (t.code ty a) (t.code ty b)

/-- fabs (R170). -/
def execFabs (g : Guard) (ty : Ty) (d a : SR) (s : State) : Out :=
  s.fpWord (.fabs g ty d a) g d fun t => ⟨Num.fabs ty (t.code ty a), 0⟩

/-- fneg (R170). -/
def execFneg (g : Guard) (ty : Ty) (d a : SR) (s : State) : Out :=
  s.fpWord (.fneg g ty d a) g d fun t => ⟨Num.fneg ty (t.code ty a), 0⟩

/-- fsgn (R170). -/
def execFsgn (g : Guard) (ty : Ty) (d a b : SR) (s : State) : Out :=
  s.fpWord (.fsgn g ty d a b) g d fun t => ⟨Num.fsgn ty (t.code ty a) (t.code ty b), 0⟩

/-- fcmp (R171). -/
def execFcmp (g : Guard) (cc : Cond) (ty : Ty) (d : PR) (a b : SR) (s : State) : Out :=
  s.run (.fcmp g cc ty d a b) g .any fun t =>
    let r := Cond.holdsFp cc (Num.decode ty (t.code ty a)) (Num.decode ty (t.code ty b))
    s.deliver t (wordOf (.fcmp g cc ty d a b)) r.2 fun t => t.wp d (splat r.1)

/-- fcvt (R172). -/
def execFcvt (g : Guard) (ty u : Ty) (rm : Rc) (d a : SR) (s : State) : Out :=
  s.fpWord (.fcvt g ty u rm d a) g d fun t => Num.fcvt ty u (t.mode rm) (t.code u a)

/-- fclass (R173). -/
def execFclass (g : Guard) (ty : Ty) (d a : SR) (s : State) : Out :=
  s.fpWord (.fclass g ty d a) g d fun t => ⟨Num.fclass ty (t.code ty a), 0⟩

/-- frnd (R174). -/
def execFrnd (g : Guard) (ty : Ty) (rm : Rc) (d a : SR) (s : State) : Out :=
  s.fpWord (.frnd g ty rm d a) g d fun t => Num.frnd ty (t.mode rm) (t.code ty a)

end Sys2Proof.Machine
end

