-- ==== Sys2Proof/Machine/ScalarInt.lean ====
section
/-! DEFINITION. Scalar integer instructions, register and immediate forms (R162-R166). -/

namespace Sys2Proof.Machine

/-- Signed division, rounded toward zero, with the edge cases of R164. -/
def sdivQ (a b : Word) : Word := if b = 0 then 0xFFFF_FFFF_FFFF_FFFF else BitVec.ofInt 64 (a.toInt.tdiv b.toInt)
/-- Unsigned division (R164). -/
def udivQ (a b : Word) : Word := if b = 0 then 0xFFFF_FFFF_FFFF_FFFF else BitVec.ofNat 64 (a.toNat / b.toNat)
/-- a − b × quotient, with the sign of a (R163, R164). -/
def sremQ (a b : Word) : Word := if b = 0 then a else BitVec.ofInt 64 (a.toInt.tmod b.toInt)
def uremQ (a b : Word) : Word := if b = 0 then a else BitVec.ofNat 64 (a.toNat % b.toNat)

/-- Leading zero bits of the low n bits (R163). -/
def clzN (a : Word) : Nat → Nat
  | 0 => 0
  | n + 1 => if a.getLsbD n then 0 else clzN a n + 1
/-- Trailing zero bits from bit 64 - n on (R163). -/
def ctzN (a : Word) : Nat → Nat
  | 0 => 0
  | n + 1 => if a.getLsbD (63 - n) then 0 else ctzN a n + 1
/-- One bits among the low n (R163). -/
def popN (a : Word) : Nat → Nat
  | 0 => 0
  | n + 1 => (if a.getLsbD n then 1 else 0) + popN a n

/-- The shared form of the RR and RI words: s[D] := f of the strand's registers (R162). -/
def State.scalar (s : State) (i : Instr) (g : Guard) (d : SR) (f : Strand → Word) : Out :=
  s.pure i g .any fun t => t.ws d (f t)

/-- The shared form of the words that write a condition: all ones or all zeros (R162, R165). -/
def State.scalarP (s : State) (i : Instr) (g : Guard) (d : PR) (f : Strand → Bool) : Out :=
  s.pure i g .any fun t => t.wp d (splat (f t))

/-- An operand read as a type, exactly (R162). -/
def Strand.int (t : Strand) (ty : Ty) (r : SR) : Int := elemInt ty (t.rs r).toNat

/-- IMM sign-extended (R166). -/
def sx (imm : BitVec 32) : Word := imm.signExtend 64
def zx (imm : BitVec 32) : Word := imm.zeroExtend 64

/-- a + b (R163). -/
def execAdd (g : Guard) (d a b : SR) (s : State) : Out :=
  s.scalar (.add g d a b) g d fun t => let a := t.rs a; let b := t.rs b; a + b

/-- a - b (R163). -/
def execSub (g : Guard) (d a b : SR) (s : State) : Out :=
  s.scalar (.sub g d a b) g d fun t => let a := t.rs a; let b := t.rs b; a - b

/-- The low product (R163). -/
def execMul (g : Guard) (d a b : SR) (s : State) : Out :=
  s.scalar (.mul g d a b) g d fun t => let a := t.rs a; let b := t.rs b; a * b

/-- The high signed product (R163). -/
def execMulh (g : Guard) (d a b : SR) (s : State) : Out :=
  s.scalar (.mulh g d a b) g d fun t => let a := t.rs a; let b := t.rs b; BitVec.ofInt 64 (a.toInt * b.toInt / 2 ^ 64)

/-- The high unsigned product (R163). -/
def execMulhu (g : Guard) (d a b : SR) (s : State) : Out :=
  s.scalar (.mulhu g d a b) g d fun t => let a := t.rs a; let b := t.rs b; BitVec.ofNat 64 (a.toNat * b.toNat / 2 ^ 64)

/-- Signed quotient (R163, R164). -/
def execDiv (g : Guard) (d a b : SR) (s : State) : Out :=
  s.scalar (.div g d a b) g d fun t => let a := t.rs a; let b := t.rs b; sdivQ a b

/-- Unsigned quotient (R163, R164). -/
def execDivu (g : Guard) (d a b : SR) (s : State) : Out :=
  s.scalar (.divu g d a b) g d fun t => let a := t.rs a; let b := t.rs b; udivQ a b

/-- Signed remainder (R163, R164). -/
def execRem (g : Guard) (d a b : SR) (s : State) : Out :=
  s.scalar (.rem g d a b) g d fun t => let a := t.rs a; let b := t.rs b; sremQ a b

/-- Unsigned remainder (R163, R164). -/
def execRemu (g : Guard) (d a b : SR) (s : State) : Out :=
  s.scalar (.remu g d a b) g d fun t => let a := t.rs a; let b := t.rs b; uremQ a b

/-- a AND b (R163). -/
def execAnd (g : Guard) (d a b : SR) (s : State) : Out :=
  s.scalar (.and g d a b) g d fun t => let a := t.rs a; let b := t.rs b; a &&& b

/-- a OR b (R163). -/
def execOr (g : Guard) (d a b : SR) (s : State) : Out :=
  s.scalar (.or g d a b) g d fun t => let a := t.rs a; let b := t.rs b; a ||| b

/-- a XOR b (R163). -/
def execXor (g : Guard) (d a b : SR) (s : State) : Out :=
  s.scalar (.xor g d a b) g d fun t => let a := t.rs a; let b := t.rs b; a ^^^ b

/-- a AND NOT b (R163). -/
def execAndn (g : Guard) (d a b : SR) (s : State) : Out :=
  s.scalar (.andn g d a b) g d fun t => let a := t.rs a; let b := t.rs b; a &&& ~~~b

/-- Shift left by b[5:0] (R163). -/
def execShl (g : Guard) (d a b : SR) (s : State) : Out :=
  s.scalar (.shl g d a b) g d fun t => let a := t.rs a; let b := t.rs b; a <<< (b.toNat % 64)

/-- Logical shift right by b[5:0] (R163). -/
def execShr (g : Guard) (d a b : SR) (s : State) : Out :=
  s.scalar (.shr g d a b) g d fun t => let a := t.rs a; let b := t.rs b; a >>> (b.toNat % 64)

/-- Arithmetic shift right by b[5:0] (R163). -/
def execSra (g : Guard) (d a b : SR) (s : State) : Out :=
  s.scalar (.sra g d a b) g d fun t => let a := t.rs a; let b := t.rs b; a.sshiftRight (b.toNat % 64)

/-- Rotate left by b[5:0] (R163). -/
def execRotl (g : Guard) (d a b : SR) (s : State) : Out :=
  s.scalar (.rotl g d a b) g d fun t => let a := t.rs a; let b := t.rs b; a.rotateLeft (b.toNat % 64)

/-- The lesser signed reading (R163). -/
def execMin (g : Guard) (d a b : SR) (s : State) : Out :=
  s.scalar (.min g d a b) g d fun t => let a := t.rs a; let b := t.rs b; if a.slt b then a else b

/-- The greater signed reading (R163). -/
def execMax (g : Guard) (d a b : SR) (s : State) : Out :=
  s.scalar (.max g d a b) g d fun t => let a := t.rs a; let b := t.rs b; if a.slt b then b else a

/-- The lesser unsigned reading (R163). -/
def execMinu (g : Guard) (d a b : SR) (s : State) : Out :=
  s.scalar (.minu g d a b) g d fun t => let a := t.rs a; let b := t.rs b; if a.ult b then a else b

/-- The greater unsigned reading (R163). -/
def execMaxu (g : Guard) (d a b : SR) (s : State) : Out :=
  s.scalar (.maxu g d a b) g d fun t => let a := t.rs a; let b := t.rs b; if a.ult b then b else a

/-- Leading zeros, 64 for 0 (R163). -/
def execClz (g : Guard) (d a : SR) (s : State) : Out :=
  s.scalar (.clz g d a) g d fun t => BitVec.ofNat 64 (clzN (t.rs a) 64)

/-- Trailing zeros, 64 for 0 (R163). -/
def execCtz (g : Guard) (d a : SR) (s : State) : Out :=
  s.scalar (.ctz g d a) g d fun t => BitVec.ofNat 64 (ctzN (t.rs a) 64)

/-- One bits (R163). -/
def execPopc (g : Guard) (d a : SR) (s : State) : Out :=
  s.scalar (.popc g d a) g d fun t => BitVec.ofNat 64 (popN (t.rs a) 64)

/-- ext widens a narrow value (R165). -/
def execExt (g : Guard) (ty : Ty) (d a : SR) (s : State) : Out :=
  s.scalar (.ext g ty d a) g d fun t => BitVec.ofInt 64 (t.int ty a)

/-- cmp (R165). -/
def execCmp (g : Guard) (cc : Cond) (d : PR) (a b : SR) (s : State) : Out :=
  s.scalarP (.cmp g cc d a b) g d fun t => Cond.holdsInt cc (t.rs a) (t.rs b)

/-- sel (R165). -/
def execSel (g : Guard) (d : SR) (c : PR) (a b : SR) (s : State) : Out :=
  s.scalar (.sel g d c a b) g d fun t => if t.rpBit c 0 then t.rs a else t.rs b

/-- sadd saturates to the range of T (R165). -/
def execSadd (g : Guard) (ty : Ty) (d a b : SR) (s : State) : Out :=
  s.scalar (.sadd g ty d a b) g d fun t => BitVec.ofNat 64 (wrapN ty.width (Num.satInt ty (t.int ty a + t.int ty b)))

/-- ssub saturates to the range of T (R165). -/
def execSsub (g : Guard) (ty : Ty) (d a b : SR) (s : State) : Out :=
  s.scalar (.ssub g ty d a b) g d fun t => BitVec.ofNat 64 (wrapN ty.width (Num.satInt ty (t.int ty a - t.int ty b)))

/-- mad (R163). -/
def execMad (g : Guard) (d a b c : SR) (s : State) : Out :=
  s.scalar (.mad g d a b c) g d fun t => t.rs a * t.rs b + t.rs c

/-- lea (R163). -/
def execLea (g : Guard) (k : BitVec 2) (d a b : SR) (s : State) : Out :=
  s.scalar (.lea g k d a b) g d fun t => t.rs a + (t.rs b <<< k.toNat)

/-- addi (R166). -/
def execAddi (g : Guard) (d a : SR) (imm : BitVec 32) (s : State) : Out :=
  s.scalar (.addi g d a imm) g d fun t => t.rs a + sx imm

/-- andi (R166). -/
def execAndi (g : Guard) (d a : SR) (imm : BitVec 32) (s : State) : Out :=
  s.scalar (.andi g d a imm) g d fun t => t.rs a &&& sx imm

/-- ori (R166). -/
def execOri (g : Guard) (d a : SR) (imm : BitVec 32) (s : State) : Out :=
  s.scalar (.ori g d a imm) g d fun t => t.rs a ||| sx imm

/-- xori (R166). -/
def execXori (g : Guard) (d a : SR) (imm : BitVec 32) (s : State) : Out :=
  s.scalar (.xori g d a imm) g d fun t => t.rs a ^^^ sx imm

/-- muli (R166). -/
def execMuli (g : Guard) (d a : SR) (imm : BitVec 32) (s : State) : Out :=
  s.scalar (.muli g d a imm) g d fun t => t.rs a * sx imm

/-- movhi (R166). -/
def execMovhi (g : Guard) (d a : SR) (imm : BitVec 32) (s : State) : Out :=
  s.scalar (.movhi g d a imm) g d fun t => imm ++ (t.rs a).truncate 32

/-- shli (R166). -/
def execShli (g : Guard) (d a : SR) (k : BitVec 6) (s : State) : Out :=
  s.scalar (.shli g d a k) g d fun t => t.rs a <<< k.toNat

/-- shri (R166). -/
def execShri (g : Guard) (d a : SR) (k : BitVec 6) (s : State) : Out :=
  s.scalar (.shri g d a k) g d fun t => t.rs a >>> k.toNat

/-- srai (R166). -/
def execSrai (g : Guard) (d a : SR) (k : BitVec 6) (s : State) : Out :=
  s.scalar (.srai g d a k) g d fun t => (t.rs a).sshiftRight k.toNat

/-- movi (R166). -/
def execMovi (g : Guard) (d : SR) (imm : BitVec 32) (s : State) : Out :=
  s.scalar (.movi g d imm) g d fun _ => sx imm

/-- cmpi compares signed (R166). -/
def execCmpi (g : Guard) (cc : CondI) (d : PR) (a : SR) (imm : BitVec 32) (s : State) : Out :=
  s.scalarP (.cmpi g cc d a imm) g d fun t => Cond.holdsInt (CondI.toCond true cc) (t.rs a) (sx imm)

/-- cmpiu compares unsigned (R166). -/
def execCmpiu (g : Guard) (cc : CondI) (d : PR) (a : SR) (imm : BitVec 32) (s : State) : Out :=
  s.scalarP (.cmpiu g cc d a imm) g d fun t => Cond.holdsInt (CondI.toCond false cc) (t.rs a) (zx imm)

/-- adpc (R166). -/
def execAdpc (g : Guard) (d : SR) (imm : BitVec 32) (s : State) : Out :=
  s.scalar (.adpc g d imm) g d fun t => t.pc + 8 * sx imm

end Sys2Proof.Machine
end

