-- ==== Sys2Proof/Machine/SpecialFn.lean ====
section
/-! DEFINITION. The special functions of R259 and R260: special and exact operands, correct rounding from a fixed-point
evaluation (log 13), and for f64 and f32 the free choice inside 0.502 ulp. -/

namespace Sys2Proof.Num

/-- The four functions (R259). -/
inductive Fn where
  | exp2 | log2 | rcp | rsqrt
  deriving DecidableEq, Repr

def Fn.index : Fn → Nat
  | .exp2 => 0
  | .log2 => 1
  | .rcp => 2
  | .rsqrt => 3

/-- Fraction bits of the fixed-point evaluation (log 13). -/
def fxBits : Nat := 640

/-- Bits of log2 of x / 2^fxBits, for x in [1, 2), by repeated squaring: n bits, the first the most significant. -/
def log2Frac : Nat → Nat → Nat
  | 0, _ => 0
  | n + 1, x =>
    let y := x * x / 2 ^ fxBits
    if 2 * 2 ^ fxBits ≤ y then 2 ^ n + log2Frac n (y / 2) else log2Frac n y

/-- ln 2 times 2^fxBits, by the series of 1 / (k 2^k) from k on. -/
def ln2Series : Nat → Nat → Nat
  | 0, _ => 0
  | n + 1, k => 2 ^ fxBits / (k * 2 ^ k) + ln2Series n (k + 1)

/-- Taylor terms of e^y from the term `t` = y^(k-1)/(k-1)! on. -/
def expSeries (y : Nat) : Nat → Nat → Nat → Nat
  | 0, _, t => t
  | n + 1, k, t => t + expSeries y n (k + 1) (t * y / (k * 2 ^ fxBits))

/-- 2^(f / 2^fxBits) times 2^fxBits, for 0 ≤ f < 2^fxBits. -/
def exp2Frac (f : Nat) : Nat := expSeries (f * ln2Series 650 1 / 2 ^ fxBits) 150 1 (2 ^ fxBits)

/-- An irrational exact result as a sign and the ratio of a nearby number (log 13), for a finite non-zero operand
(-1)^neg * m * 2^e at which the function is defined. -/
def Fn.approx (fn : Fn) (neg : Bool) (m : Nat) (e : Int) : Bool × Nat × Nat :=
  match fn with
  | .exp2 =>
    -- x = k + f / 2^fxBits, rounded down
    let a : Int := if 0 ≤ e + fxBits then ((m * 2 ^ (e + fxBits).toNat : Nat) : Int)
      else ((m / 2 ^ (-(e + fxBits)).toNat : Nat) : Int)
    let x : Int := if neg then -a - 1 else a
    -- beyond 4096 in magnitude every format has overflowed or vanished
    let k := max (-4096) (min 4096 (x / (2 ^ fxBits : Nat)))
    let f := (x % (2 ^ fxBits : Nat)).toNat
    let (n, d) := ratio (2 * exp2Frac f + 1) (k - fxBits - 1)
    (false, n, d)
  | .log2 =>
    let h : Int := m.log2
    let l : Int := (log2Frac 320 (m * 2 ^ (fxBits - m.log2)) : Nat)
    let z : Int := 2 * ((e + h) * (2 ^ 320 : Nat) + l) + 1
    (decide (z < 0), z.natAbs, 2 ^ 321)
  | .rcp => let (n, d) := ratio m e; (neg, d, n)
  | .rsqrt =>
    let e1 := if e % 2 = 0 then e else e - 1
    let m1 := if e % 2 = 0 then m else 2 * m
    let r := isqrt (2 ^ (2 * fxBits) / m1)
    let (n, d) := ratio (2 * r + 1) (-(e1 / 2) - fxBits - 1)
    (false, n, d)

/-- k with m * 2^e = 2^k, when there is one. -/
def asPow2 (m : Nat) (e : Int) : Option Int := if m = 2 ^ m.log2 then some (e + m.log2) else none

/-- Operands whose exact result is a dyadic number (R259, R260). -/
def Fn.exact (fn : Fn) (neg : Bool) (m : Nat) (e : Int) : Option Val :=
  match fn with
  | .exp2 =>
    -- integral x, limited as in approx
    let (n, d) := ratio m e
    if n % d = 0 then
      let k : Int := min (n / d) 4096
      some (.num false 1 (if neg then -k else k))
    else none
  | .log2 => (asPow2 m e).map fun k => .ofInt k
  | .rcp => (asPow2 m e).map fun k => .num neg 1 (-k)
  | .rsqrt => match asPow2 m e with
      | some k => if k % 2 = 0 then some (.num false 1 (-(k / 2))) else none
      | none => none

/-- |y - n/d| ≤ 0.502 ulp(n/d) for the magnitude y of a code (R83, R259). -/
def Fmt.within (f : Fmt) (c n d : Nat) : Bool :=
  match f.decode c with
  | .num false m e =>
    let u := max (floorLog2 n d) f.emin - f.m
    let (a, b) := ratio m e
    let (p, q) := ratio 1 u
    let diff : Int := (a * d : Nat) - (n * b : Nat)
    -- diff / (b d) ≤ 502 p / (1000 q)
    decide (diff.natAbs * 1000 * q ≤ 502 * p * (b * d))
  | _ => false

/-- Rounding an inexact result: correctly for bf16 and f16; for f64 and f32 the free code when its magnitude lies within
0.502 ulp and is not zero, with the flags of R259 (log 13). -/
def Fn.finish (fn : Fn) (t : Ty) (f : Fmt) (code : Nat) (neg : Bool) (n d : Nat) : Res :=
  let r := f.round .rne neg n d
  if t = .bf16 ∨ t = .f16 ∨ r.fl &&& OF ≠ 0 ∨ r.code % 2 ^ f.sbit = 0 then r
  else
    let c := Config.special fn.index t code % 2 ^ f.sbit
    if c ≠ 0 ∧ c ≤ f.maxCode ∧ f.within c n d then ⟨f.withSign neg c, r.fl⟩ else r

/-- vexp2, vlog2, vrcp and vrsqrt of one element (R259, R260). -/
def Fn.eval (fn : Fn) (t : Ty) (code : Nat) : Res :=
  match Fmt.of t with
  | none => ⟨0, 0⟩
  | some f =>
    match f.decode code with
    | .nan sn => ⟨f.nanCode, if sn then NV else 0⟩
    | .inf neg =>
      match fn with
      | .exp2 => ⟨if neg then 0 else f.infCode, 0⟩
      | .log2 => if neg then ⟨f.nanCode, NV⟩ else ⟨f.infCode, 0⟩
      | .rcp => ⟨f.withSign neg 0, 0⟩
      | .rsqrt => if neg then ⟨f.nanCode, NV⟩ else ⟨0, 0⟩
    | .num neg m e =>
      if m = 0 then
        match fn with
        | .exp2 => conv t .rne (.num false 1 0)
        | .log2 => ⟨f.withSign true f.infCode, DZ⟩
        | .rcp | .rsqrt => ⟨f.withSign neg f.infCode, DZ⟩
      else if neg ∧ (fn = .log2 ∨ fn = .rsqrt) then ⟨f.nanCode, NV⟩
      else
        match fn.exact neg m e with
        | some v => conv t .rne v
        | none =>
          let (sg, n, d) := fn.approx neg m e
          fn.finish t f code sg n d

end Sys2Proof.Num
end

