-- ==== Sys2Proof/Machine/Vector.lean ====
section
/-! DEFINITION. Vector words (R248-R260): element-wise operations, conversions, axis operations, compare-exchange, the
accumulator file and the special functions. -/

namespace Sys2Proof.Machine

-- The shared forms (R248).

/-- Writing results at their elements. -/
def Strand.setElems (t : Strand) (ty : Ty) (d : VR) : List (Nat × Nat) → Strand
  | [] => t
  | (e, x) :: rs => (t.setElem ty d e x).setElems ty d rs

/-- Flags gathered over results (R81). -/
def flagsOf : List (Nat × Num.Res) → Num.Flags
  | [] => 0
  | (_, r) :: rs => r.fl ||| flagsOf rs
def codesOf (rs : List (Nat × Num.Res)) : List (Nat × Nat) := rs.map fun r => (r.1, r.2.code)

/-- A vector word: from the strand and its active elements, the flags and the strand it leaves (R248). -/
def State.vec (s : State) (i : Instr) (g : Guard) (f : Strand → Pred → Num.Flags × Strand) : Out :=
  s.runV i g fun t m => let r := f t m; s.deliver t (wordOf i) r.1 fun _ => r.2

/-- A word with one result for each active element. -/
def State.elementwise (s : State) (i : Instr) (g : Guard) (ty : Ty) (d : VR) (f : Strand → Nat → Num.Res) : Out :=
  s.vec i g fun t m =>
    let rs := (active m).map fun e => (e, f t e)
    (flagsOf rs, t.setElems ty d (codesOf rs))

/-- A word whose results set no flag. -/
def State.elements (s : State) (i : Instr) (g : Guard) (ty : Ty) (d : VR) (f : Strand → Nat → Nat) : Out :=
  s.elementwise i g ty d fun t e => ⟨f t e, 0⟩

/-- An integer result in w bits. -/
def wrap (ty : Ty) (x : Int) : Num.Res := ⟨wrapN ty.width x, 0⟩
/-- Element a of a type as the integer it holds. -/
def Strand.ielem (t : Strand) (ty : Ty) (r : VR) (e : Nat) : Int := elemInt ty (t.elem ty r e)
def Strand.ivelem (t : Strand) (ty : Ty) (b : VB) (e : Nat) : Int := elemInt ty (t.velem ty b e)

/-- Integer sum or difference, saturated with .sat (R250, R76). -/
def addSub (ty : Ty) (sat : Bool) (x : Int) : Num.Res := wrap ty (if sat then Num.satInt ty x else x)

-- Arithmetic (R250).

/-- vadd (R250). -/
def execVadd (g : Guard) (ty : Ty) (rm : Rc) (sat : Bool) (d a : VR) (b : VB) (s : State) : Out :=
  s.elementwise (.vadd g ty rm sat d a b) g ty d fun t e =>
    if ty.isInt then addSub ty sat (t.ielem ty a e + t.ivelem ty b e)
    else Num.fadd ty (t.mode rm) (t.elem ty a e) (t.velem ty b e)

/-- vsub (R250). -/
def execVsub (g : Guard) (ty : Ty) (rm : Rc) (sat : Bool) (d a : VR) (b : VB) (s : State) : Out :=
  s.elementwise (.vsub g ty rm sat d a b) g ty d fun t e =>
    if ty.isInt then addSub ty sat (t.ielem ty a e - t.ivelem ty b e)
    else Num.fsub ty (t.mode rm) (t.elem ty a e) (t.velem ty b e)

/-- vmul (R250). -/
def execVmul (g : Guard) (ty : Ty) (rm : Rc) (d a : VR) (b : VB) (s : State) : Out :=
  s.elementwise (.vmul g ty rm d a b) g ty d fun t e =>
    if ty.isInt then wrap ty (t.ielem ty a e * t.ivelem ty b e)
    else Num.fmul ty (t.mode rm) (t.elem ty a e) (t.velem ty b e)

/-- vfma and its aliases (R250). -/
def execVfma (g : Guard) (ty : Ty) (rm : Rc) (neg : BitVec 2) (d a b c : VR) (s : State) : Out :=
  s.elementwise (.vfma g ty rm neg d a b c) g ty d fun t e =>
    Num.fma ty (t.mode rm) neg (t.elem ty a e) (t.elem ty b e) (t.elem ty c e)

/-- The lesser or greater element (R250, R169). -/
def vminmax (ty : Ty) (mx : Bool) (a b : Nat) : Num.Res :=
  if ty.isInt then
    let less := decide (elemInt ty a < elemInt ty b)
    ⟨if less == mx then b else a, 0⟩
  else Num.fminmax ty mx a b

/-- vmin (R250). -/
def execVmin (g : Guard) (ty : Ty) (d a : VR) (b : VB) (s : State) : Out :=
  s.elementwise (.vmin g ty d a b) g ty d fun t e => vminmax ty false (t.elem ty a e) (t.velem ty b e)

/-- vmax (R250). -/
def execVmax (g : Guard) (ty : Ty) (d a : VR) (b : VB) (s : State) : Out :=
  s.elementwise (.vmax g ty d a b) g ty d fun t e => vminmax ty true (t.elem ty a e) (t.velem ty b e)

/-- vabs (R250). -/
def execVabs (g : Guard) (ty : Ty) (d a : VR) (s : State) : Out :=
  s.elements (.vabs g ty d a) g ty d fun t e =>
    if ty.isInt then wrapN ty.width ((t.ielem ty a e).natAbs : Int) else Num.fabs ty (t.elem ty a e)

/-- vneg (R250). -/
def execVneg (g : Guard) (ty : Ty) (d a : VR) (s : State) : Out :=
  s.elements (.vneg g ty d a) g ty d fun t e =>
    if ty.isInt then wrapN ty.width (-(t.ielem ty a e)) else Num.fneg ty (t.elem ty a e)

/-- vand (R250). -/
def execVand (g : Guard) (ty : Ty) (d a : VR) (b : VB) (s : State) : Out :=
  s.elements (.vand g ty d a b) g ty d fun t e => t.elem ty a e &&& t.velem ty b e

/-- vor (R250). -/
def execVor (g : Guard) (ty : Ty) (d a : VR) (b : VB) (s : State) : Out :=
  s.elements (.vor g ty d a b) g ty d fun t e => t.elem ty a e ||| t.velem ty b e

/-- vxor (R250). -/
def execVxor (g : Guard) (ty : Ty) (d a : VR) (b : VB) (s : State) : Out :=
  s.elements (.vxor g ty d a b) g ty d fun t e => t.elem ty a e ^^^ t.velem ty b e

/-- vshl (R250). -/
def execVshl (g : Guard) (ty : Ty) (d a : VR) (b : VB) (s : State) : Out :=
  s.elements (.vshl g ty d a b) g ty d fun t e =>
    t.elem ty a e * 2 ^ (t.velem ty b e % ty.width) % 2 ^ ty.width

/-- vshr: arithmetic for i types, logical for n types (R250). -/
def execVshr (g : Guard) (ty : Ty) (d a : VR) (b : VB) (s : State) : Out :=
  s.elements (.vshr g ty d a b) g ty d fun t e =>
    wrapN ty.width (t.ielem ty a e / (2 ^ (t.velem ty b e % ty.width) : Nat))

-- Comparison and selection (R251), conversion (R252), single values (R253).

/-- The predicate that takes f at the active elements and keeps its other bits. -/
def predSet (old m : Pred) (f : Nat → Bool) : Pred :=
  (active m).foldl (fun p e => if f e then p ||| BitVec.twoPow 1024 e else p) (old &&& ~~~m)

/-- vcmp (R251). -/
def execVcmp (g : Guard) (cc : Cond) (ty : Ty) (d : PR) (a : VR) (b : VB) (s : State) : Out :=
  s.vec (.vcmp g cc ty d a b) g fun t m =>
    let r := fun (e : Nat) =>
      if ty.isInt then (Cond.holdsElem cc (t.ielem ty a e) (t.ivelem ty b e), (0 : Num.Flags))
      else Cond.holdsFp cc (Num.decode ty (t.elem ty a e)) (Num.decode ty (t.velem ty b e))
    ((active m).foldl (fun fl e => fl ||| (r e).2) 0, t.wp d (predSet (t.rp d) m fun e => (r e).1))

/-- vsel (R251). -/
def execVsel (g : Guard) (ty : Ty) (d : VR) (c : PR) (a b : VR) (s : State) : Out :=
  s.elements (.vsel g ty d c a b) g ty d fun t e => if t.rpBit c e then t.elem ty a e else t.elem ty b e

/-- vcvt (R252, R172). -/
def execVcvt (g : Guard) (ty u : Ty) (rm : Rc) (d a : VR) (s : State) : Out :=
  s.elementwise (.vcvt g ty u rm d a) g ty d fun t e => Num.fcvt ty u (t.mode rm) (t.elem u a e)

/-- vdup (R253). -/
def execVdup (g : Guard) (ty : Ty) (d : VR) (a : SR) (s : State) : Out :=
  s.elements (.vdup g ty d a) g ty d fun t _ => low ty.width (t.rs a)

/-- The element number of vins and vext (R253). -/
def Strand.index (t : Strand) (b : SR) : Nat := (t.rs b).bits 9 0

/-- vins (R253). -/
def execVins (g : Guard) (ty : Ty) (d : VR) (a b : SR) (s : State) : Out :=
  s.vec (.vins g ty d a b) g fun t m =>
    (0, if m.getLsbD (t.index b) then t.setElem ty d (t.index b) (low ty.width (t.rs a)) else t)

/-- vext (R253). -/
def execVext (g : Guard) (ty : Ty) (d : SR) (a : VR) (b : SR) (s : State) : Out :=
  s.vec (.vext g ty d a b) g fun t m =>
    (0, if m.getLsbD (t.index b) then t.ws d (BitVec.ofNat 64 (t.elem ty a (t.index b))) else t)

-- Special functions (R259, R260).

/-- vexp2 (R259, R260). -/
def execVexp2 (g : Guard) (ty : Ty) (d a : VR) (s : State) : Out :=
  s.elementwise (.vexp2 g ty d a) g ty d fun t e => Num.Fn.eval .exp2 ty (t.elem ty a e)

/-- vlog2 (R259, R260). -/
def execVlog2 (g : Guard) (ty : Ty) (d a : VR) (s : State) : Out :=
  s.elementwise (.vlog2 g ty d a) g ty d fun t e => Num.Fn.eval .log2 ty (t.elem ty a e)

/-- vrcp (R259, R260). -/
def execVrcp (g : Guard) (ty : Ty) (d a : VR) (s : State) : Out :=
  s.elementwise (.vrcp g ty d a) g ty d fun t e => Num.Fn.eval .rcp ty (t.elem ty a e)

/-- vrsqrt (R259, R260). -/
def execVrsqrt (g : Guard) (ty : Ty) (d a : VR) (s : State) : Out :=
  s.elementwise (.vrsqrt g ty d a) g ty d fun t e => Num.Fn.eval .rsqrt ty (t.elem ty a e)

-- Axis operations (R254): 32-bit elements, without regard to type.

/-- Moving elements: (r, c) takes the element that `f r c` names. -/
def State.move (s : State) (i : Instr) (g : Guard) (d a : VR) (f : Strand → Nat → Nat → Nat × Nat) : Out :=
  s.elements i g .i32 d fun t e => let p := f t (e / 64) (e % 64); (t.rv a.toNat (64 * p.1 + p.2)).toNat

/-- vrotr (R254). -/
def execVrotr (g : Guard) (d a : VR) (b : SR) (s : State) : Out :=
  s.move (.vrotr g d a b) g d a fun t r c => (r, (c + 64 - (t.rs b).toNat % 64) % 64)

/-- vrotc (R254). -/
def execVrotc (g : Guard) (d a : VR) (b : SR) (s : State) : Out :=
  s.move (.vrotc g d a b) g d a fun t r c => ((r + 16 - (t.rs b).toNat % 16) % 16, c)

/-- vbcr (R254). -/
def execVbcr (g : Guard) (d a : VR) (b : SR) (s : State) : Out :=
  s.move (.vbcr g d a b) g d a fun t r _ => (r, (t.rs b).toNat % 64)

/-- vbcc (R254). -/
def execVbcc (g : Guard) (d a : VR) (b : SR) (s : State) : Out :=
  s.move (.vbcc g d a b) g d a fun t _ c => ((t.rs b).toNat % 16, c)

/-- vtrnr (R254). -/
def execVtrnr (g : Guard) (d a : VR) (s : State) : Out :=
  s.move (.vtrnr g d a) g d a fun _ r c => (c % 16, 16 * (c / 16) + r)

/-- vtrnc (R254). -/
def execVtrnc (g : Guard) (d a : VR) (s : State) : Out :=
  s.move (.vtrnc g d a) g d a fun _ r c => (c % 16, 4 * r + c / 16)

-- Reductions (R255).

/-- The least or greatest of a non-empty list of codes by R169, passing quiet NaNs over. -/
def foldMinMax (ty : Ty) (mx : Bool) : List Nat → Option Nat → Option Nat
  | [], best => best
  | x :: xs, best =>
    let v := Num.decode ty x
    let best' := if v.isNan then best
      else match best with
        | none => some x
        | some y =>
          let w := Num.decode ty y
          if (if mx then Num.ltMin w v else Num.ltMin v w) then some x else some y
    foldMinMax ty mx xs best'

/-- One reduction of the active elements of a row or column (R255). -/
def reduce (op : Red) (ty : Ty) (mode : Num.Mode) (xs : List Nat) : Num.Res :=
  match op with
  | .sum =>
    if ty.isInt then wrap ty (xs.foldl (fun z x => z + elemInt ty x) 0)
    else
      let vs := xs.map (Num.decode ty)
      let (z, f) := Num.sumExact mode vs
      Num.fin ty mode z (f ||| Num.snanFl vs)
  | .min =>
    if ty.isInt then ⟨xs.tail.foldl (fun z x => (vminmax ty false z x).code) (xs.headD 0), 0⟩
    else if (xs.map (Num.decode ty)).any Num.Val.isSnan then ⟨Num.nanOf ty, Num.NV⟩
    else ⟨(foldMinMax ty false xs none).getD (Num.nanOf ty), 0⟩
  | .max =>
    if ty.isInt then ⟨xs.tail.foldl (fun z x => (vminmax ty true z x).code) (xs.headD 0), 0⟩
    else if (xs.map (Num.decode ty)).any Num.Val.isSnan then ⟨Num.nanOf ty, Num.NV⟩
    else ⟨(foldMinMax ty true xs none).getD (Num.nanOf ty), 0⟩
  | .and => ⟨xs.foldl (· &&& ·) (2 ^ ty.width - 1), 0⟩
  | .or => ⟨xs.foldl (· ||| ·) 0, 0⟩
  | .xor => ⟨xs.foldl (· ^^^ ·) 0, 0⟩

/-- Reducing each of `n` groups of elements (rows or columns) over its active elements. -/
def State.reduceBy (s : State) (i : Instr) (g : Guard) (op : Red) (ty : Ty) (rm : Rc) (d a : VR) (n : Nat)
    (group : Nat → List Nat) : Out :=
  s.vec i g fun t m =>
    let rs := (List.range n).map fun j =>
      let es := (group j).filter fun e => m.getLsbD e
      (es, if es.isEmpty then ⟨0, 0⟩ else reduce op ty (t.mode rm) (es.map fun e => t.elem ty a e))
    (rs.foldl (fun fl r => fl ||| r.2.fl) 0,
     rs.foldl (fun t r => t.setElems ty d (r.1.map fun e => (e, r.2.code))) t)

/-- vredr (R255). -/
def execVredr (g : Guard) (op : Red) (ty : Ty) (rm : Rc) (d a : VR) (s : State) : Out :=
  s.reduceBy (.vredr g op ty rm d a) g op ty rm d a 16 fun r => (List.range 64).map (64 * r + ·)

/-- vredc (R255). -/
def execVredc (g : Guard) (op : Red) (ty : Ty) (rm : Rc) (d a : VR) (s : State) : Out :=
  s.reduceBy (.vredc g op ty rm d a) g op ty rm d a 64 fun c => (List.range 16).map (64 * · + c)

-- Compare-exchange (R256).

/-- A power of two. -/
def isPow2 (n : Nat) : Bool := n == 2 ^ n.log2 && n != 0

/-- J and K of s[B], or a malformed operand. -/
def vcxOperand (w : Word) : Option (Nat × Nat) :=
  let j := w.bits 9 0
  let k := w.bits 26 16
  if w.bits 63 27 = 0 ∧ w.bits 15 10 = 0 ∧ isPow2 j ∧ (k = 0 ∨ (isPow2 k ∧ j < k)) then some (j, k) else none

/-- The order of vcx: every NaN above +infinity, −0 below +0. -/
def vcxGreater (ty : Ty) (a b : Nat) : Bool :=
  if ty.isInt then decide (elemInt ty b < elemInt ty a)
  else
    let x := Num.decode ty a
    let y := Num.decode ty b
    if x.isNan then !y.isNan else if y.isNan then false else Num.ltMin y x

/-- vcx (R256). -/
def execVcx (g : Guard) (dn : Bool) (ty : Ty) (d a : VR) (b : SR) (s : State) : Out :=
  s.runV (.vcx g dn ty d a b) g fun t m =>
    match vcxOperand (t.rs b) with
    | none => s.raise 0x01 7 (wordOf (.vcx g dn ty d a b))
    | some (j, k) =>
      let es := (List.range 1024).filter fun e => e &&& j == 0 && m.getLsbD e && m.getLsbD (e + j)
      let rs := es.flatMap fun e =>
        let up := (k == 0 || e &&& k == 0) != dn
        let lo := t.elem ty a e
        let hi := t.elem ty a (e + j)
        if if up then vcxGreater ty lo hi else vcxGreater ty hi lo then [(e, hi), (e + j, lo)] else [(e, lo), (e + j, hi)]
      s.retire (t.setElems ty d rs)

-- The accumulator file (R257, R258).

/-- One element of vmac: the new accumulator value (R257). -/
def macElem (ty u : Ty) (mode : Num.Mode) (z : Bool) (x y : Nat) (acc : Word) : Num.Res :=
  if u = .i64 then
    let p := elemInt ty x * elemInt ty y
    ⟨wrapN 64 (if z then p else (acc.toNat : Int) + p), 0⟩
  else
    let a := Num.decode ty x
    let b := Num.decode ty y
    let p := Num.prod a b
    let c := Num.decode u (acc.toNat % 2 ^ u.width)
    let (r, f) := Num.sumExact mode (if z then [p] else [c, p])
    Num.fin u mode r (f ||| Num.snanFl (if z then [a, b] else [a, b, c]) ||| Num.prodFl a b)

def Strand.setAccs (t : Strand) (d : AR) : List (Nat × Nat) → Strand
  | [] => t
  | (e, x) :: rs => (t.setAcc d e (BitVec.ofNat 64 x)).setAccs d rs

/-- vmac (R257). -/
def execVmac (g : Guard) (ty u : Ty) (rm : Rc) (z : Bool) (d : AR) (a b : VR) (s : State) : Out :=
  s.vec (.vmac g ty u rm z d a b) g fun t m =>
    let rs := (active m).map fun e =>
      (e, macElem ty u (t.mode rm) z (t.elem ty a e) (t.elem ty b e) (t.acc d e))
    (flagsOf rs, t.setAccs d (codesOf rs))

/-- vnarr (R258). -/
def execVnarr (g : Guard) (ty u : Ty) (rm : Rc) (d : VR) (a : AR) (s : State) : Out :=
  s.elementwise (.vnarr g ty u rm d a) g ty d fun t e =>
    Num.fcvt ty u (t.mode rm) ((t.acc a e).toNat % 2 ^ u.width)

end Sys2Proof.Machine
end

