-- ==== Sys2Proof/Machine/VecMem.lean ====
section
/-! DEFINITION. Vector loads, stores, gathers and scatters (R240-R247). -/

namespace Sys2Proof.Machine

/-- A place of an element or scale: offset and bytes. -/
structure Piece where
  off : Word
  n : Nat
  align : Nat
  deriving DecidableEq, Repr

/-- Rank of a trap in the order of R197. -/
def Trap.rank (x : Trap) : Nat :=
  match x.code with
  | 0x02 => 0
  | 0x04 => 1
  | 0x03 => 2
  | _ => 3

/-- Where a piece begins, as the offset that a poisoned granule has in TRAPVAL (R194). -/
def Strand.frameOff (t : Strand) (m : MemOp) (o : Word) : Word :=
  match m.sp with
  | .dev => BitVec.ofNat 64 ((t.cap m.buf).base + o.toNat)
  | _ => o

/-- Checking one piece; a capability cause or poison names the first byte that fails (R242; log 44). -/
def State.locatePiece (s : State) (t : Strand) (m : MemOp) (need : Need) (p : Piece) : Except Trap Place :=
  match s.locate s.cur t m p.off p.n p.align need with
  | .ok pl => .ok pl
  | .error x =>
    if x.code = 0x02 then
      let bad := (List.range p.n).find? fun i =>
        match s.locate s.cur t m (p.off + BitVec.ofNat 64 i) 1 1 need with
        | .error y => y.code == 0x02
        | .ok _ => false
      .error { x with val := p.off + BitVec.ofNat 64 (bad.getD 0) }
    else if x.code = 0x06 ∧ x.val.ult (t.frameOff m p.off) then .error { x with val := t.frameOff m p.off }
    else .error x

/-- An element with its piece, bit shift, and the piece of its scale. -/
structure VElem where
  e : Nat
  data : Piece
  shift : Nat
  scale : Option Piece
  deriving DecidableEq, Repr

/-- The active elements of the shape (R242) and their pieces (R240, R247). -/
def velems (f : StreamF) (m : Pred) (o : Word) (index : Option (Nat → Word)) : List VElem :=
  ((List.range 1024).filter fun e => m.getLsbD e && decide (e / 64 < f.rows) && decide (e % 64 < f.cols)).map fun e =>
    match index with
    | some ix => ⟨e, ⟨ix e, f.w / 8, f.w / 8⟩, 0, none⟩
    | none =>
      let (off, n, sh) := f.loc o (e / 64) (e % 64)
      let (so, z) := f.scaleLoc o (e / 64) (e % 64)
      ⟨e, ⟨off, n, if 16 ≤ f.w then n else 1⟩, sh, if f.skind = 0 then none else some ⟨so, z, z⟩⟩

/-- An element with the places of its bytes and of its scale. -/
structure Placed where
  e : Nat
  data : Place
  n : Nat
  shift : Nat
  scale : Option (Place × Nat)
  deriving DecidableEq, Repr

/-- The checks of R242 on one element: of its bytes and its scale the cause first in R197 decides, and of
one cause that both meet, its bytes (log 114). -/
def State.placeElem (s : State) (t : Strand) (m : MemOp) (need : Need) (v : VElem) : Except Trap Placed :=
  let d := s.locatePiece t m need v.data
  match v.scale with
  | none => d.map fun pl => ⟨v.e, pl, v.data.n, v.shift, none⟩
  | some sc =>
    match d, s.locatePiece t m need sc with
    | .ok pl, .ok ps => .ok ⟨v.e, pl, v.data.n, v.shift, some (ps, sc.n)⟩
    | .error x, .error y => .error (if y.rank < x.rank then y else x)
    | .error x, _ => .error x
    | _, .error y => .error y

/-- The checks of all elements in ascending order. -/
def State.placeElems (s : State) (t : Strand) (m : MemOp) (need : Need) : List VElem → Except Trap (List Placed)
  | [] => .ok []
  | v :: vs =>
    match s.placeElem t m need v with
    | .error x => .error x
    | .ok p =>
      match s.placeElems t m need vs with
      | .error x => .error x
      | .ok ps => .ok (p :: ps)

/-- Reading every element's code and scale (R244); some words may have been read early (R43; log 113). -/
def State.readElems (s : State) (es : List Early) (t : Strand) (c w : Nat) (ord : Ord) (sc : Scope) : List Placed → List (Nat × Nat × Nat) × State
  | [] => ([], s)
  | p :: ps =>
    let (bs, s) := s.loadPart es t c p.data p.n ord sc
    let code := leNat bs / 2 ^ p.shift % 2 ^ w
    let (x, s) := match p.scale with
      | none => (0, s)
      | some (pl, n) => let (b, s) := s.loadPart es t c pl n ord sc; (leNat b, s)
    let (rest, s) := s.readElems es t c w ord sc ps
    ((p.e, code, x) :: rest, s)

/-- One loaded element converted into RFMT (R244). -/
def loadElem (f : StreamF) (ef : MFmt) (rf : Ty) (mode : Num.Mode) (code sc : Nat) : Num.Res :=
  if f.skind = 0 then
    if ef = .ty rf then ⟨code, 0⟩ else Num.conv rf mode (ef.decode code)
  else if f.skind = 1 then Num.conv rf mode (Num.applyE8M0 sc (ef.mxValue code))
  else
    let x := ef.decode code
    let y := Num.decode .f32 sc
    Num.fin rf mode (Num.prod x y) (Num.snanFl [x, y] ||| Num.prodFl x y)

/-- vld and vgath (R244, R247). With no active element inside the shape the check of R241 and the .acq are still made (log 101). -/
def State.vload (s : State) (es : List Early) (i : Instr) (q : QR) (d : VR) (mem : MemOp) (indexed : Bool) (ord : Ord) (sc : Scope)
    (m : Pred) : Out :=
  let t := s.strand s.cur
  let c := lcOf s.cur
  let f := StreamF.of (t.q.get 0 q.toNat)
  match f.vecOk false indexed d.toNat, f.efmt, f.rfmt with
  | true, some ef, some rf =>
    let index := fun (e : Nat) => ((t.rv mem.idx.toNat e).zeroExtend 64 <<< mem.sc.toNat) + mem.disp.signExtend 64
    match s.placeElems t mem { r := true } (velems f m (t.offset mem) (if indexed then some index else none)) with
    | .error x => s.raiseT x
    | .ok ps =>
      let (xs, s') := s.readElems es t c f.w ord sc ps
      let rs := xs.map fun x => (x.1, loadElem f ef rf (f.mode t.rm) x.2.1 x.2.2)
      let fl := flagsOf rs
      if fl &&& t.en ≠ 0 then s.raise 0x07 (fl &&& t.en).toNat (wordOf i)
      else (s'.acqIf c ord sc).retire ((t.setElems rf d (codesOf rs)).orFlags fl)
  | _, _, _ => s.raise 0x01 7 (wordOf i)

/-- Bits written at a place: `w` bits at a bit shift of its bytes, whole bytes as they stand (R245); an element of 4 or 6 bits at its home
(log 113). Words that are named take them later (R43). -/
def State.writeBits (s : State) (ws : List Spot) (t : Strand) (c : Nat) (pl : Place) (n shift w code : Nat) : State :=
  if 8 ≤ w then s.writeWords ws t pl (leBytes n code)
  else if ws ≠ [] then
    s.writeApart ws s.cur t pl true ((leBytes n (code % 2 ^ w * 2 ^ shift)).zip (leBytes n ((2 ^ w - 1) * 2 ^ shift)))
  else
    let s := s.prepHome c pl n
    let old := leNat (s.homeRead t c pl n)
    s.writePlace t c pl true (leBytes n (putBits old (shift + w - 1) shift code))

/-- Writing elements in ascending order: the highest-numbered stands (R245). -/
def State.writeElems (s : State) (ws : List Spot) (t : Strand) (c w : Nat) : List (Placed × Nat) → State
  | [] => s
  | (p, code) :: ps => (s.writeBits ws t c p.data p.n p.shift w code).writeElems ws t c w ps

/-- Blocks of a row that hold some active element but not all (R245). -/
def partialBlock (f : StreamF) (m : Pred) : Bool :=
  (List.range f.rows).any fun r => (List.range (f.cols / 32)).any fun j =>
    let n := ((List.range 32).filter fun i => m.getLsbD (64 * r + 32 * j + i)).length
    decide (0 < n ∧ n < 32)

/-- The codes of the elements of a vst: each element converted, or each block encoded (R245); scale bytes by element. -/
def storeCodes (f : StreamF) (ef : MFmt) (rf : Ty) (mode : Num.Mode) (val : Nat → Nat) (es : List Nat) :
    List (Nat × Nat × Nat) × Num.Flags :=
  if f.skind = 0 then
    let rs := es.map fun e =>
      (e, if ef = .ty rf then (⟨val e, 0⟩ : Num.Res) else ef.conv mode (Num.decode rf (val e)))
    (rs.map fun r => (r.1, r.2.code, 0), flagsOf rs)
  else
    let kind : Ty := match ef with
      | .ty t => t
      | .int4 => .i8
    (es.filter fun e => e % 32 == 0).foldl (fun (acc : List (Nat × Nat × Nat) × Num.Flags) e0 =>
      let (sc, cs, fl) := Num.mxEncode kind mode ((List.range 32).map fun i => Num.decode rf (val (e0 + i)))
      (acc.1 ++ (List.range 32).map (fun i => (e0 + i, cs.getD i 0, sc)), acc.2 ||| fl)) ([], 0)

/-- vst and vscat (R245, R247). The scales are written after the elements (log 102). -/
def State.vstore (s : State) (ws : List Spot) (i : Instr) (q : QR) (r : VR) (mem : MemOp) (indexed : Bool) (ord : Ord) (sc : Scope)
    (m : Pred) : Out :=
  let t := s.strand s.cur
  let c := lcOf s.cur
  let f := StreamF.of (t.q.get 0 q.toNat)
  match f.vecOk true indexed r.toNat && !(f.skind == 1 && partialBlock f m), f.efmt, f.rfmt with
  | true, some ef, some rf =>
    let index := fun (e : Nat) => ((t.rv mem.idx.toNat e).zeroExtend 64 <<< mem.sc.toNat) + mem.disp.signExtend 64
    match s.placeElems t mem { w := true } (velems f m (t.offset mem) (if indexed then some index else none)) with
    | .error x => s.raiseT x
    | .ok ps =>
      let (xs, fl) := storeCodes f ef rf (f.mode t.rm) (fun e => t.elem rf r e) (ps.map Placed.e)
      if fl &&& t.en ≠ 0 then s.raise 0x07 (fl &&& t.en).toNat (wordOf i)
      else
        s.releasing i (Ord.hasRel ord) sc fun s =>
          let look := fun (e : Nat) => ((xs.find? fun x => x.1 == e).map Prod.snd).getD (0, 0)
          let s := s.writeElems ws t c f.w (ps.map fun p => (p, (look p.e).1))
          let s := ps.foldl (fun s p => match p.scale with
            | some (pl, n) => s.writeWords ws t pl (leBytes n (look p.e).2)
            | none => s) s
          s.retireV (t.orFlags fl)
  | _, _, _ => s.raise 0x01 7 (wordOf i)

/-- vld and vgath, some words of which may have been read early; vst and vscat, some words of which may arrive later. -/
def State.vld (s : State) (es : List Early) (g : Guard) (ord : Ord) (sc : Scope) (q : QR) (d : VR) (m : MemOp) : Out :=
  s.runV (.vld g ord sc q d m) g fun _ p => s.vload es (.vld g ord sc q d m) q d m false ord sc p
def State.vst (s : State) (ws : List Spot) (g : Guard) (ord : Ord) (sc : Scope) (q : QR) (r : VR) (m : MemOp) : Out :=
  s.runV (.vst g ord sc q r m) g fun _ p => s.vstore ws (.vst g ord sc q r m) q r m false ord sc p
def State.vgath (s : State) (es : List Early) (g : Guard) (q : QR) (d : VR) (m : MemOp) : Out :=
  s.runV (.vgath g q d m) g fun _ p => s.vload es (.vgath g q d m) q d m true .none .core p
def State.vscat (s : State) (ws : List Spot) (g : Guard) (q : QR) (r : VR) (m : MemOp) : Out :=
  s.runV (.vscat g q r m) g fun _ p => s.vstore ws (.vscat g q r m) q r m true .none .core p

/-- vld (R244). -/
def execVld (g : Guard) (ord : Ord) (sc : Scope) (q : QR) (d : VR) (m : MemOp) (s : State) : Out := s.vld [] g ord sc q d m
/-- vst (R245). -/
def execVst (g : Guard) (ord : Ord) (sc : Scope) (q : QR) (r : VR) (m : MemOp) (s : State) : Out := s.vst [] g ord sc q r m
/-- vgath (R247). -/
def execVgath (g : Guard) (q : QR) (d : VR) (m : MemOp) (s : State) : Out := s.vgath [] g q d m
/-- vscat (R247). -/
def execVscat (g : Guard) (q : QR) (r : VR) (m : MemOp) (s : State) : Out := s.vscat [] g q r m

end Sys2Proof.Machine
end

