-- ==== Sys2Proof/Machine/Dispatch.lean ====
section
/-! DEFINITION. One arm per instruction and per event: a direct call of its meaning. -/

namespace Sys2Proof.Machine

/-- What an instruction or an event does. -/
def exec (i : Instr) (s : State) : Host.Outcome State Fault Refusal :=
  match i with
  | .nop g => Sys2Proof.Machine.execNop g s
  | .trap g imm => Sys2Proof.Machine.execTrap g imm s
  | .brk g imm => Sys2Proof.Machine.execBrk g imm s
  | .tret g => Sys2Proof.Machine.execTret g s
  | .hret g => Sys2Proof.Machine.execHret g s
  | .crd g d cr => Sys2Proof.Machine.execCrd g d cr s
  | .cwr g cr a => Sys2Proof.Machine.execCwr g cr a s
  | .crset g cr a => Sys2Proof.Machine.execCrset g cr a s
  | .crclr g cr a => Sys2Proof.Machine.execCrclr g cr a s
  | .fence g ord sc => Sys2Proof.Machine.execFence g ord sc s
  | .time g d => Sys2Proof.Machine.execTime g d s
  | .cid g d => Sys2Proof.Machine.execCid g d s
  | .dhops g d a b => Sys2Proof.Machine.execDhops g d a b s
  | .tnext g d pa => Sys2Proof.Machine.execTnext g d pa s
  | .tdone g => Sys2Proof.Machine.execTdone g s
  | .tspawn g d a => Sys2Proof.Machine.execTspawn g d a s
  | .tyield g => Sys2Proof.Machine.execTyield g s
  | .barv g a imm => Sys2Proof.Machine.execBarv g a imm s
  | .barw g a imm => Sys2Proof.Machine.execBarw g a imm s
  | .add g d a b => Sys2Proof.Machine.execAdd g d a b s
  | .sub g d a b => Sys2Proof.Machine.execSub g d a b s
  | .mul g d a b => Sys2Proof.Machine.execMul g d a b s
  | .mulh g d a b => Sys2Proof.Machine.execMulh g d a b s
  | .mulhu g d a b => Sys2Proof.Machine.execMulhu g d a b s
  | .div g d a b => Sys2Proof.Machine.execDiv g d a b s
  | .divu g d a b => Sys2Proof.Machine.execDivu g d a b s
  | .rem g d a b => Sys2Proof.Machine.execRem g d a b s
  | .remu g d a b => Sys2Proof.Machine.execRemu g d a b s
  | .and g d a b => Sys2Proof.Machine.execAnd g d a b s
  | .or g d a b => Sys2Proof.Machine.execOr g d a b s
  | .xor g d a b => Sys2Proof.Machine.execXor g d a b s
  | .andn g d a b => Sys2Proof.Machine.execAndn g d a b s
  | .shl g d a b => Sys2Proof.Machine.execShl g d a b s
  | .shr g d a b => Sys2Proof.Machine.execShr g d a b s
  | .sra g d a b => Sys2Proof.Machine.execSra g d a b s
  | .rotl g d a b => Sys2Proof.Machine.execRotl g d a b s
  | .min g d a b => Sys2Proof.Machine.execMin g d a b s
  | .max g d a b => Sys2Proof.Machine.execMax g d a b s
  | .minu g d a b => Sys2Proof.Machine.execMinu g d a b s
  | .maxu g d a b => Sys2Proof.Machine.execMaxu g d a b s
  | .clz g d a => Sys2Proof.Machine.execClz g d a s
  | .ctz g d a => Sys2Proof.Machine.execCtz g d a s
  | .popc g d a => Sys2Proof.Machine.execPopc g d a s
  | .ext g ty d a => Sys2Proof.Machine.execExt g ty d a s
  | .cmp g cc d a b => Sys2Proof.Machine.execCmp g cc d a b s
  | .sel g d c a b => Sys2Proof.Machine.execSel g d c a b s
  | .sadd g ty d a b => Sys2Proof.Machine.execSadd g ty d a b s
  | .ssub g ty d a b => Sys2Proof.Machine.execSsub g ty d a b s
  | .mad g d a b c => Sys2Proof.Machine.execMad g d a b c s
  | .lea g k d a b => Sys2Proof.Machine.execLea g k d a b s
  | .fadd g ty rm d a b => Sys2Proof.Machine.execFadd g ty rm d a b s
  | .fsub g ty rm d a b => Sys2Proof.Machine.execFsub g ty rm d a b s
  | .fmul g ty rm d a b => Sys2Proof.Machine.execFmul g ty rm d a b s
  | .fdiv g ty rm d a b => Sys2Proof.Machine.execFdiv g ty rm d a b s
  | .fsqrt g ty rm d a => Sys2Proof.Machine.execFsqrt g ty rm d a s
  | .fma g ty rm neg d a b c => Sys2Proof.Machine.execFma g ty rm neg d a b c s
  | .fmin g ty d a b => Sys2Proof.Machine.execFmin g ty d a b s
  | .fmax g ty d a b => Sys2Proof.Machine.execFmax g ty d a b s
  | .fabs g ty d a => Sys2Proof.Machine.execFabs g ty d a s
  | .fneg g ty d a => Sys2Proof.Machine.execFneg g ty d a s
  | .fsgn g ty d a b => Sys2Proof.Machine.execFsgn g ty d a b s
  | .fcmp g cc ty d a b => Sys2Proof.Machine.execFcmp g cc ty d a b s
  | .fcvt g ty u rm d a => Sys2Proof.Machine.execFcvt g ty u rm d a s
  | .fclass g ty d a => Sys2Proof.Machine.execFclass g ty d a s
  | .frnd g ty rm d a => Sys2Proof.Machine.execFrnd g ty rm d a s
  | .plog g tt d a b => Sys2Proof.Machine.execPlog g tt d a b s
  | .pcnt g d a => Sys2Proof.Machine.execPcnt g d a s
  | .pfirst g d a => Sys2Proof.Machine.execPfirst g d a s
  | .prange g d a b => Sys2Proof.Machine.execPrange g d a b s
  | .psplat g d a => Sys2Proof.Machine.execPsplat g d a s
  | .addi g d a imm => Sys2Proof.Machine.execAddi g d a imm s
  | .andi g d a imm => Sys2Proof.Machine.execAndi g d a imm s
  | .ori g d a imm => Sys2Proof.Machine.execOri g d a imm s
  | .xori g d a imm => Sys2Proof.Machine.execXori g d a imm s
  | .muli g d a imm => Sys2Proof.Machine.execMuli g d a imm s
  | .shli g d a k => Sys2Proof.Machine.execShli g d a k s
  | .shri g d a k => Sys2Proof.Machine.execShri g d a k s
  | .srai g d a k => Sys2Proof.Machine.execSrai g d a k s
  | .movi g d imm => Sys2Proof.Machine.execMovi g d imm s
  | .movhi g d a imm => Sys2Proof.Machine.execMovhi g d a imm s
  | .cmpi g cc d a imm => Sys2Proof.Machine.execCmpi g cc d a imm s
  | .cmpiu g cc d a imm => Sys2Proof.Machine.execCmpiu g cc d a imm s
  | .adpc g d imm => Sys2Proof.Machine.execAdpc g d imm s
  | .br g off => Sys2Proof.Machine.execBr g off s
  | .call g d off => Sys2Proof.Machine.execCall g d off s
  | .jmp g a off => Sys2Proof.Machine.execJmp g a off s
  | .callr g d a off => Sys2Proof.Machine.execCallr g d a off s
  | .ret g a => Sys2Proof.Machine.execRet g a s
  | .loop g n a len imm => Sys2Proof.Machine.execLoop g n a len imm s
  | .lbrk g n => Sys2Proof.Machine.execLbrk g n s
  | .lcget g a n => Sys2Proof.Machine.execLcget g a n s
  | .lcset g n a => Sys2Proof.Machine.execLcset g n a s
  | .qld g ord sc t m => Sys2Proof.Machine.execQld g ord sc t m s
  | .qst g ord sc t m => Sys2Proof.Machine.execQst g ord sc t m s
  | .ld g ty fe ord sc t m => Sys2Proof.Machine.execLd g ty fe ord sc t m s
  | .st g ty fe ord sc t m => Sys2Proof.Machine.execSt g ty fe ord sc t m s
  | .ld2 g ord sc t m => Sys2Proof.Machine.execLd2 g ord sc t m s
  | .st2 g ord sc t m => Sys2Proof.Machine.execSt2 g ord sc t m s
  | .vld g ord sc q t m => Sys2Proof.Machine.execVld g ord sc q t m s
  | .vst g ord sc q t m => Sys2Proof.Machine.execVst g ord sc q t m s
  | .vgath g q t m => Sys2Proof.Machine.execVgath g q t m s
  | .vscat g q t m => Sys2Proof.Machine.execVscat g q t m s
  | .cas g ty ord sc t m => Sys2Proof.Machine.execCas g ty ord sc t m s
  | .cas2 g ord sc t m => Sys2Proof.Machine.execCas2 g ord sc t m s
  | .amoadd g ty ord sc t m => Sys2Proof.Machine.execAmoadd g ty ord sc t m s
  | .amoand g ty ord sc t m => Sys2Proof.Machine.execAmoand g ty ord sc t m s
  | .amoor g ty ord sc t m => Sys2Proof.Machine.execAmoor g ty ord sc t m s
  | .amoxor g ty ord sc t m => Sys2Proof.Machine.execAmoxor g ty ord sc t m s
  | .amomin g ty ord sc t m => Sys2Proof.Machine.execAmomin g ty ord sc t m s
  | .amomax g ty ord sc t m => Sys2Proof.Machine.execAmomax g ty ord sc t m s
  | .amominu g ty ord sc t m => Sys2Proof.Machine.execAmominu g ty ord sc t m s
  | .amomaxu g ty ord sc t m => Sys2Proof.Machine.execAmomaxu g ty ord sc t m s
  | .amoswap g ty ord sc t m => Sys2Proof.Machine.execAmoswap g ty ord sc t m s
  | .amofadd g ord sc t m => Sys2Proof.Machine.execAmofadd g ord sc t m s
  | .xadd32 g ty ord sc t m => Sys2Proof.Machine.execXadd32 g ty ord sc t m s
  | .xadd64 g ty ord sc t m => Sys2Proof.Machine.execXadd64 g ty ord sc t m s
  | .xrd32 g ty rm ord sc t m => Sys2Proof.Machine.execXrd32 g ty rm ord sc t m s
  | .xrd64 g ty rm ord sc t m => Sys2Proof.Machine.execXrd64 g ty rm ord sc t m s
  | .famoadd g ty ord sc t m => Sys2Proof.Machine.execFamoadd g ty ord sc t m s
  | .famoand g ty ord sc t m => Sys2Proof.Machine.execFamoand g ty ord sc t m s
  | .famoor g ty ord sc t m => Sys2Proof.Machine.execFamoor g ty ord sc t m s
  | .famoxor g ty ord sc t m => Sys2Proof.Machine.execFamoxor g ty ord sc t m s
  | .famomin g ty ord sc t m => Sys2Proof.Machine.execFamomin g ty ord sc t m s
  | .famomax g ty ord sc t m => Sys2Proof.Machine.execFamomax g ty ord sc t m s
  | .famoswap g ty ord sc t m => Sys2Proof.Machine.execFamoswap g ty ord sc t m s
  | .fcas g ty ord sc t m => Sys2Proof.Machine.execFcas g ty ord sc t m s
  | .vadd g ty rm sat d a b => Sys2Proof.Machine.execVadd g ty rm sat d a b s
  | .vsub g ty rm sat d a b => Sys2Proof.Machine.execVsub g ty rm sat d a b s
  | .vmul g ty rm d a b => Sys2Proof.Machine.execVmul g ty rm d a b s
  | .vfma g ty rm neg d a b c => Sys2Proof.Machine.execVfma g ty rm neg d a b c s
  | .vmin g ty d a b => Sys2Proof.Machine.execVmin g ty d a b s
  | .vmax g ty d a b => Sys2Proof.Machine.execVmax g ty d a b s
  | .vabs g ty d a => Sys2Proof.Machine.execVabs g ty d a s
  | .vneg g ty d a => Sys2Proof.Machine.execVneg g ty d a s
  | .vand g ty d a b => Sys2Proof.Machine.execVand g ty d a b s
  | .vor g ty d a b => Sys2Proof.Machine.execVor g ty d a b s
  | .vxor g ty d a b => Sys2Proof.Machine.execVxor g ty d a b s
  | .vshl g ty d a b => Sys2Proof.Machine.execVshl g ty d a b s
  | .vshr g ty d a b => Sys2Proof.Machine.execVshr g ty d a b s
  | .vcmp g cc ty d a b => Sys2Proof.Machine.execVcmp g cc ty d a b s
  | .vsel g ty d c a b => Sys2Proof.Machine.execVsel g ty d c a b s
  | .vcvt g ty u rm d a => Sys2Proof.Machine.execVcvt g ty u rm d a s
  | .vdup g ty d a => Sys2Proof.Machine.execVdup g ty d a s
  | .vins g ty d a b => Sys2Proof.Machine.execVins g ty d a b s
  | .vext g ty d a b => Sys2Proof.Machine.execVext g ty d a b s
  | .vexp2 g ty d a => Sys2Proof.Machine.execVexp2 g ty d a s
  | .vlog2 g ty d a => Sys2Proof.Machine.execVlog2 g ty d a s
  | .vrcp g ty d a => Sys2Proof.Machine.execVrcp g ty d a s
  | .vrsqrt g ty d a => Sys2Proof.Machine.execVrsqrt g ty d a s
  | .vrotr g d a b => Sys2Proof.Machine.execVrotr g d a b s
  | .vrotc g d a b => Sys2Proof.Machine.execVrotc g d a b s
  | .vbcr g d a b => Sys2Proof.Machine.execVbcr g d a b s
  | .vbcc g d a b => Sys2Proof.Machine.execVbcc g d a b s
  | .vredr g op ty rm d a => Sys2Proof.Machine.execVredr g op ty rm d a s
  | .vredc g op ty rm d a => Sys2Proof.Machine.execVredc g op ty rm d a s
  | .vtrnr g d a => Sys2Proof.Machine.execVtrnr g d a s
  | .vtrnc g d a => Sys2Proof.Machine.execVtrnc g d a s
  | .vcx g dn ty d a b => Sys2Proof.Machine.execVcx g dn ty d a b s
  | .vmac g ty u rm z d a b => Sys2Proof.Machine.execVmac g ty u rm z d a b s
  | .vnarr g ty u rm d a => Sys2Proof.Machine.execVnarr g ty u rm d a s
  | .qpush g q sr code => Sys2Proof.Machine.execQpush g q sr code s
  | .qpop g d q => Sys2Proof.Machine.execQpop g d q s
  | .qpeek g d q => Sys2Proof.Machine.execQpeek g d q s
  | .qstat g d q => Sys2Proof.Machine.execQstat g d q s
  | .mclaim g d pd n => Sys2Proof.Machine.execMclaim g d pd n s
  | .mtset g t d sr => Sys2Proof.Machine.execMtset g t d sr s
  | .mtget g d t hf => Sys2Proof.Machine.execMtget g d t hf s
  | .qclr g q => Sys2Proof.Machine.execQclr g q s
  | .mld g sr imm => Sys2Proof.Machine.execMld g sr imm s
  | .mldt g sr imm => Sys2Proof.Machine.execMldt g sr imm s
  | .mmul g sr imm => Sys2Proof.Machine.execMmul g sr imm s
  | .mmulZ g sr imm => Sys2Proof.Machine.execMmulZ g sr imm s
  | .mmsp g sr imm => Sys2Proof.Machine.execMmsp g sr imm s
  | .mmspZ g sr imm => Sys2Proof.Machine.execMmspZ g sr imm s
  | .mrel g sr imm => Sys2Proof.Machine.execMrel g sr imm s
  | .mzero g sr imm => Sys2Proof.Machine.execMzero g sr imm s
  | .mst g sr imm => Sys2Proof.Machine.execMst g sr imm s
  | .mfill g sr imm => Sys2Proof.Machine.execMfill g sr imm s
  | .gsprobe g sr imm => Sys2Proof.Machine.execGsprobe g sr imm s
  | .gsinsert g sr imm => Sys2Proof.Machine.execGsinsert g sr imm s
  | .gsclear g sr imm => Sys2Proof.Machine.execGsclear g sr imm s
  | .gsgather g sr imm => Sys2Proof.Machine.execGsgather g sr imm s
  | .gsscadd g sr imm => Sys2Proof.Machine.execGsscadd g sr imm s
  | .gsrules g sr imm => Sys2Proof.Machine.execGsrules g sr imm s
  | .gssegsum g sr imm => Sys2Proof.Machine.execGssegsum g sr imm s
  | .gscompact g sr imm => Sys2Proof.Machine.execGscompact g sr imm s
  | .sosort g sr imm => Sys2Proof.Machine.execSosort g sr imm s
  | .somerge g sr imm => Sys2Proof.Machine.execSomerge g sr imm s
  | .sotopk g sr imm => Sys2Proof.Machine.execSotopk g sr imm s
  | .sothresh g sr imm => Sys2Proof.Machine.execSothresh g sr imm s
  | .sosums g sr imm => Sys2Proof.Machine.execSosums g sr imm s
  | .sogather g sr imm => Sys2Proof.Machine.execSogather g sr imm s
  | .cpcopy g sr imm => Sys2Proof.Machine.execCpcopy g sr imm s
  | .cpset g sr imm => Sys2Proof.Machine.execCpset g sr imm s
  | .cpfe g sr imm => Sys2Proof.Machine.execCpfe g sr imm s
  | .cpstride g sr imm => Sys2Proof.Machine.execCpstride g sr imm s
  | .cpprf g sr imm => Sys2Proof.Machine.execCpprf g sr imm s
  | .cpwb g sr imm => Sys2Proof.Machine.execCpwb g sr imm s
  | .cpsig g sr imm => Sys2Proof.Machine.execCpsig g sr imm s
  | .timeCompare c k => Sys2Proof.Machine.execTimeCompare c k s
  | .feRetryAttempt c k => Sys2Proof.Machine.execFeRetryAttempt c k s
  | .wakeNotice n => Sys2Proof.Machine.execWakeNotice n s
  | .forwardedAtomicFill n => Sys2Proof.Machine.execForwardedAtomicFill n s
  | .pushAcceptance c k => Sys2Proof.Machine.execPushAcceptance c k s
  | .popDelivery c k => Sys2Proof.Machine.execPopDelivery c k s
  | .packetDeparture c => Sys2Proof.Machine.execPacketDeparture c s
  | .handlerStart c => Sys2Proof.Machine.execHandlerStart c s
  | .mldCommand c => Sys2Proof.Machine.execMldCommand c s
  | .mldtCommand c => Sys2Proof.Machine.execMldtCommand c s
  | .mmulCommand c => Sys2Proof.Machine.execMmulCommand c s
  | .mmulZCommand c => Sys2Proof.Machine.execMmulZCommand c s
  | .mmspCommand c => Sys2Proof.Machine.execMmspCommand c s
  | .mmspZCommand c => Sys2Proof.Machine.execMmspZCommand c s
  | .mrelCommand c => Sys2Proof.Machine.execMrelCommand c s
  | .mzeroCommand c => Sys2Proof.Machine.execMzeroCommand c s
  | .mstCommand c => Sys2Proof.Machine.execMstCommand c s
  | .mfillCommand c => Sys2Proof.Machine.execMfillCommand c s
  | .leaseGrant die cluster => Sys2Proof.Machine.execLeaseGrant die cluster s
  | .gsprobeCommand c => Sys2Proof.Machine.execGsprobeCommand c s
  | .gsinsertCommand c => Sys2Proof.Machine.execGsinsertCommand c s
  | .gsclearCommand c => Sys2Proof.Machine.execGsclearCommand c s
  | .gsgatherCommand c => Sys2Proof.Machine.execGsgatherCommand c s
  | .gsscaddCommand c => Sys2Proof.Machine.execGsscaddCommand c s
  | .gsrulesCommand c => Sys2Proof.Machine.execGsrulesCommand c s
  | .gssegsumCommand c => Sys2Proof.Machine.execGssegsumCommand c s
  | .gscompactCommand c => Sys2Proof.Machine.execGscompactCommand c s
  | .sosortCommand c => Sys2Proof.Machine.execSosortCommand c s
  | .somergeCommand c => Sys2Proof.Machine.execSomergeCommand c s
  | .sotopkCommand c => Sys2Proof.Machine.execSotopkCommand c s
  | .sothreshCommand c => Sys2Proof.Machine.execSothreshCommand c s
  | .sosumsCommand c => Sys2Proof.Machine.execSosumsCommand c s
  | .sogatherCommand c => Sys2Proof.Machine.execSogatherCommand c s
  | .cpcopyCommand c => Sys2Proof.Machine.execCpcopyCommand c s
  | .cpsetCommand c => Sys2Proof.Machine.execCpsetCommand c s
  | .cpfeCommand c => Sys2Proof.Machine.execCpfeCommand c s
  | .cpstrideCommand c => Sys2Proof.Machine.execCpstrideCommand c s
  | .cpprfCommand c => Sys2Proof.Machine.execCpprfCommand c s
  | .cpwbCommand c => Sys2Proof.Machine.execCpwbCommand c s
  | .cpsigCommand c => Sys2Proof.Machine.execCpsigCommand c s
  | .loaderTile c sub => Sys2Proof.Machine.execLoaderTile c sub s
  | .storerTile c sub => Sys2Proof.Machine.execStorerTile c sub s
  | .entryEmission level => Sys2Proof.Machine.execEntryEmission level s
  | .strandStart c k => Sys2Proof.Machine.execStrandStart c k s
  | .entryPromotion task => Sys2Proof.Machine.execEntryPromotion task s
  | .periodStart ctx => Sys2Proof.Machine.execPeriodStart ctx s
  | .budgetExhaustion ctx rcb => Sys2Proof.Machine.execBudgetExhaustion ctx rcb s
  | .dlshareWindow => Sys2Proof.Machine.execDlshareWindow s
  | .powerClassSelect => Sys2Proof.Machine.execPowerClassSelect s
  | .takeBack die slot => Sys2Proof.Machine.execTakeBack die slot s
  | .drainTimeout c k => Sys2Proof.Machine.execDrainTimeout c k s
  | .nodeCompletion task => Sys2Proof.Machine.execNodeCompletion task s
  | .launchEnd ctx => Sys2Proof.Machine.execLaunchEnd ctx s
  | .logicalCoreSwitch die slot => Sys2Proof.Machine.execLogicalCoreSwitch die slot s
  | .pageOut buf page => Sys2Proof.Machine.execPageOut buf page s
  | .pageIn buf want => Sys2Proof.Machine.execPageIn buf want s
  | .doorbell abut fn qid value => Sys2Proof.Machine.execDoorbell abut fn qid value s
  | .packetNop qid => Sys2Proof.Machine.execPacketNop qid s
  | .launchImage qid => Sys2Proof.Machine.execLaunchImage qid s
  | .freeze qid => Sys2Proof.Machine.execFreeze qid s
  | .writeSignal qid => Sys2Proof.Machine.execWriteSignal qid s
  | .wait qid => Sys2Proof.Machine.execWait qid s
  | .queueCreate qid => Sys2Proof.Machine.execQueueCreate qid s
  | .queueDestroy qid => Sys2Proof.Machine.execQueueDestroy qid s
  | .queueReset qid => Sys2Proof.Machine.execQueueReset qid s
  | .queueQuery qid => Sys2Proof.Machine.execQueueQuery qid s
  | .bufAlloc qid => Sys2Proof.Machine.execBufAlloc qid s
  | .bufFree qid => Sys2Proof.Machine.execBufFree qid s
  | .bufRevoke qid => Sys2Proof.Machine.execBufRevoke qid s
  | .setDlshare qid => Sys2Proof.Machine.execSetDlshare qid s
  | .waitingStepResume qid idx => Sys2Proof.Machine.execWaitingStepResume qid idx s
  | .waitTimeout qid idx => Sys2Proof.Machine.execWaitTimeout qid idx s
  | .sliceExpiry hwslot => Sys2Proof.Machine.execSliceExpiry hwslot s
  | .frameBoundary => Sys2Proof.Machine.execFrameBoundary s
  | .auditSend link => Sys2Proof.Machine.execAuditSend link s
  | .creditAudit link => Sys2Proof.Machine.execCreditAudit link s
  | .connectionSetup entry w0 => Sys2Proof.Machine.execConnectionSetup entry w0 s
  | .connectionTeardown entry => Sys2Proof.Machine.execConnectionTeardown entry s
  | .circuitActive entry => Sys2Proof.Machine.execCircuitActive entry s
  | .circuitDown entry => Sys2Proof.Machine.execCircuitDown entry s
  | .apertureRead abut fn off size => Sys2Proof.Machine.execApertureRead abut fn off size s
  | .apertureWrite abut fn off data => Sys2Proof.Machine.execApertureWrite abut fn off data s
  | .adminQueueEnable fn value => Sys2Proof.Machine.execAdminQueueEnable fn value s
  | .adminQueueDisable fn => Sys2Proof.Machine.execAdminQueueDisable fn s
  | .steeringEnable abut entry w0 w1 w2 w3 => Sys2Proof.Machine.execSteeringEnable abut entry w0 w1 w2 w3 s
  | .steeringDisable abut entry => Sys2Proof.Machine.execSteeringDisable abut entry s
  | .registerWrite abut fn off value => Sys2Proof.Machine.execRegisterWrite abut fn off value s
  | .ingressFrame abut port frame age => Sys2Proof.Machine.execIngressFrame abut port frame age s
  | .egressSlot abut entry age => Sys2Proof.Machine.execEgressSlot abut entry age s
  | .egressRetry abut entry age => Sys2Proof.Machine.execEgressRetry abut entry age s
  | .ptpFrame abut port locked offset act => Sys2Proof.Machine.execPtpFrame abut port locked offset act s
  | .hardwareError e => Sys2Proof.Machine.execHardwareError e s
  | .coreRetirement die pos => Sys2Proof.Machine.execCoreRetirement die pos s
  | .dieRetirement die => Sys2Proof.Machine.execDieRetirement die s
  | .patrolScrub => Sys2Proof.Machine.execPatrolScrub s
  | .heartbeat core => Sys2Proof.Machine.execHeartbeat core s
  | .attestationRequest => Sys2Proof.Machine.execAttestationRequest s
  | .thermalThrottle die temp => Sys2Proof.Machine.execThermalThrottle die temp s
  | .thermalTrip die temp => Sys2Proof.Machine.execThermalTrip die temp s
  | .bringUp => Sys2Proof.Machine.execBringUp s
  | .coldReset => Sys2Proof.Machine.execColdReset s
  | .perstAbutment1 => Sys2Proof.Machine.execPerstAbutment1 s
  | .perstAbutment2 => Sys2Proof.Machine.execPerstAbutment2 s
  | .functionLevelReset fn => Sys2Proof.Machine.execFunctionLevelReset fn s
  | .illegalInstruction step w => Sys2Proof.Machine.execIllegalInstruction step w s
  | .instructionFetchFault off => Sys2Proof.Machine.execInstructionFetchFault off s
  | .dirtyByteWriteBack c line => Sys2Proof.Machine.execDirtyByteWriteBack c line s
  | .trailerDiscard link vc n => Sys2Proof.Machine.execTrailerDiscard link vc n s
  | .receivedFrameDrop abut port frame badFcs => Sys2Proof.Machine.execReceivedFrameDrop abut port frame badFcs s
  | .thermalThrottleEnd die temp => Sys2Proof.Machine.execThermalThrottleEnd die temp s
  | .powerClassTakesEffect => Sys2Proof.Machine.execPowerClassTakesEffect s

end Sys2Proof.Machine
end

