-- ==== Sys2Proof/Machine/Apart.lean ====
section
/-! DEFINITION. The words of one access of a strand as accesses of their own (R43, R246, R247): some may be read before the others, or
arrive after the others, while other agents move. Turns of the agenda say which (log 113). -/

namespace Sys2Proof.Machine

/-- A load of several words whose word accesses may be apart (R43, R247): whether it reads them at the home (R47). -/
def loadsParts : Instr → Option Bool
  | .ld2 _ ord sc _ _ => some (loadsHome ord sc)
  | .qld _ ord sc _ _ => some (loadsHome ord sc)
  | .vld _ ord sc _ _ _ => some (loadsHome ord sc)
  | .vgath .. => some false
  | _ => none

/-- The effect of a word some of whose words have been read early, or arrive later (R43, R247); that of any other word as it is. -/
def execApart (es : List Early) (ws : List Spot) (i : Instr) (s : State) : Out :=
  match i with
  | .ld2 g ord sc d m => s.ld2 es g ord sc d m
  | .qld g ord sc d m => s.qld es g ord sc d m
  | .vld g ord sc q d m => s.vld es g ord sc q d m
  | .vgath g q d m => s.vgath es g q d m
  | .st2 g ord sc r m => s.st2 ws g ord sc r m
  | .qst g ord sc r m => s.qst ws g ord sc r m
  | .vst g ord sc q r m => s.vst ws g ord sc q r m
  | .vscat g q r m => s.vscat ws g q r m
  | i => exec i s

/-- The instruction that strand k issues next. -/
def State.nextInstr (s : State) (k : Nat) : Option Instr :=
  match s.fetch (ctxOf k) (s.strand k).pc with
  | .word w => (decode w).toOption
  | _ => none
/-- A byte of a load of strand k: its version's, where it has one (R287, R289). -/
def State.ownByte (s : State) (k : Nat) (p : Spot) (b : Byte) : Byte :=
  match (s.strand k).version, p with
  | some v, .dev id o => overlay (s.task v).ver.dev (byteKey id o) b
  | some v, .ls c o => overlay (s.task v).ver.ls (lsKey c o) b
  | _, _ => b
/-- The strand that logical core c issues next reads some words of its load now, after its own stores (R43, R46). -/
def State.readEarly (s : State) (c : Nat) (ws : List Spot) : State :=
  match s.chooseStrand c with
  | none => s
  | some k => match (s.nextInstr k).bind loadsParts with
    | none => s
    | some home =>
      let s := s.landFor (.strand k)
      ws.foldl (fun s w => s.readWord (.strand k) c home (s.ownByte k) w) s

/-- Host accesses, which may fall between the words of an access (R43). -/
def fallsBetween : Instr → Bool
  | .apertureRead .. | .apertureWrite .. => true
  | _ => false

end Sys2Proof.Machine
end

