-- ==== Sys2Proof/Machine/Step.lean ====
section
/-! DEFINITION. One step: the next turn of the agenda, or the next word of a logical core (log 1). -/

namespace Sys2Proof.Machine

/-- The focused strand issues its next word: time-compare first (R189), then fetch, decode and execute (R106, R126). Of an access of several
words it takes those that it has read early as they were, and those named arrive later (R43). -/
def issueStrand (ws : List Spot) (s : State) : Out :=
  let k := s.cur
  let es := s.readBy (.strand k)
  let s := s.forget (.strand k)
  if s.timeDue k then execTimeCompare (lcOf k) (numOf k) s
  else
    match s.fetch (ctxOf k) (s.strand k).pc with
    | .beyond => execInstructionFetchFault (s.strand k).pc s
    | .bad x => s.raiseT x
    | .word w =>
      match decode w with
      | .ok i => if es = [] ∧ ws = [] then exec i s else execApart es ws i s
      | .error n => execIllegalInstruction n w s

/-- Logical core c issues (R103). A core with no ready strand leaves the machine as it is. What the strand's own last access has still to
write is written first (R46). -/
def issue (c : Nat) (ws : List Spot) (s : State) : Out :=
  match s.chooseStrand c with
  | none => .next s
  | some k => issueStrand ws ((s.landFor (.strand k)).focus k)
/-- The next turn: of the agenda, or a word of the logical core that issued last. -/
def turn (s : State) : Out :=
  match s.agenda with
  | [] => issue (lcOf s.cur) [] s
  | .issue c :: rest => issue c [] { s with agenda := rest }
  | .elapse ns :: rest => .next (State.elapse { s with agenda := rest }.whole ns)
  | .evict c line :: rest => .next ({ s with agenda := rest }.evictLine c line)
  | .word c w :: rest => .next ({ s with agenda := rest }.evictWord c w)
  | .units c q n ws :: rest => { s with agenda := rest }.runUnits c q n ws
  | .ahead c q ws :: rest => .next ({ s with agenda := rest }.readAhead c q ws)
  | .early c ws :: rest => .next ({ s with agenda := rest }.readEarly c ws)
  | .late c ws :: rest => issue c ws { s with agenda := rest }
  | .arrive ws :: rest => .next ({ s with agenda := rest }.landWhere fun x => x.spot.named ws)
  | .event i :: rest =>
    if !i.isEvent then .refused .notAnEvent
    else if fallsBetween i then exec i { s with agenda := rest } else exec i { s with agenda := rest }.whole

/-- One step of the machine: a turn, after which entries move toward their cores (R427), and each logical core that is not resident has its
record in its backing area (R470). -/
def step (s : State) : Out :=
  match turn s with
  | .next t => .next (t.moveEntries.takeAreas s).layAreas
  | o => o

/-- `s` with a word stored where the next step fetches it (log 16). -/
def State.withFetchWord (s : State) (nbits w : Nat) : State := s.placeWord (BitVec.ofNat 64 (w % 2 ^ min nbits 64))

end Sys2Proof.Machine
end

