-- ==== Sys2Proof/Laws/Encoding.lean ====
section
/-! SUPPORT. The fields of a word read back as written, format by format, and the field codes read back as coded. -/

namespace Sys2Proof

theorem extract_app_lo {m n k l : Nat} (x : BitVec m) (y : BitVec n) (h : k + l ≤ n) :
    (x ++ y).extractLsb' k l = y.extractLsb' k l := by
  apply BitVec.eq_of_getLsbD_eq; intro i hi
  have h1 : k + i < n := by omega
  simp [BitVec.getLsbD_append, h1, hi]

theorem extract_app_hi {m n k l : Nat} (x : BitVec m) (y : BitVec n) (h : n ≤ k) :
    (x ++ y).extractLsb' k l = x.extractLsb' (k - n) l := by
  apply BitVec.eq_of_getLsbD_eq; intro i hi
  have h1 : ¬ k + i < n := by omega
  have h2 : k + i - n = k - n + i := by omega
  simp [BitVec.getLsbD_append, h1, h2, hi]

theorem extract_full {n : Nat} (x : BitVec n) : x.extractLsb' 0 n = x := by simp

@[simp] theorem majorOf_mkWord (m : Nat) (g : Guard) (b : BitVec 48) : majorOf (mkWord m g b) = m % 256 := by
  have : (mkWord m g b).extractLsb' 56 8 = BitVec.ofNat 8 m := by
    unfold mkWord
    rw [extract_app_hi _ _ (by decide), extract_app_hi _ _ (by decide), extract_app_hi _ _ (by decide)]
    exact extract_full _
  unfold majorOf; rw [this]; simp

@[simp] theorem guardOf_mkWord (m : Nat) (g : Guard) (b : BitVec 48) : guardOf (mkWord m g b) = g := by
  have h1 : (mkWord m g b).extractLsb' 49 7 = g.p := by
    unfold mkWord
    rw [extract_app_hi _ _ (by decide), extract_app_hi _ _ (by decide), extract_app_lo _ _ (by decide)]
    exact extract_full _
  have h2 : (mkWord m g b).getLsbD 48 = g.n := by
    have h3 : (mkWord m g b).extractLsb' 48 1 = bit1 g.n := by
      unfold mkWord
      rw [extract_app_hi _ _ (by decide), extract_app_lo _ _ (by decide)]
      exact extract_full _
    have h4 : (mkWord m g b).getLsbD 48 = ((mkWord m g b).extractLsb' 48 1).getLsbD 0 := by
      rw [BitVec.getLsbD_extractLsb']; simp
    rw [h4, h3]; cases g.n <;> rfl
  cases g; simp only [guardOf, h1, h2]

@[simp] theorem bodyOf_mkWord (m : Nat) (g : Guard) (b : BitVec 48) : bodyOf (mkWord m g b) = b := by
  unfold bodyOf mkWord
  rw [extract_app_lo _ _ (by decide)]
  exact extract_full _

@[simp] theorem FRR.dec_enc (x : FRR) : FRR.dec x.enc = x := by
  obtain ⟨d, a, b, c, func, ty, rm, res⟩ := x
  simp only [FRR.dec, FRR.enc, FRR.mk.injEq]
  repeat' apply And.intro
  all_goals
    repeat rw [extract_app_hi _ _ (by decide)]
    try rw [extract_app_lo _ _ (by decide)]
    exact extract_full _

@[simp] theorem FRI.dec_enc (x : FRI) : FRI.dec x.enc = x := by
  obtain ⟨d, a, f, imm⟩ := x
  simp only [FRI.dec, FRI.enc, FRI.mk.injEq]
  repeat' apply And.intro
  all_goals
    repeat rw [extract_app_hi _ _ (by decide)]
    try rw [extract_app_lo _ _ (by decide)]
    exact extract_full _

@[simp] theorem FV.dec_enc (x : FV) : FV.dec x.enc = x := by
  obtain ⟨d, a, b, c, func, ty, xt, rm, res⟩ := x
  simp only [FV.dec, FV.enc, FV.mk.injEq]
  repeat' apply And.intro
  all_goals
    repeat rw [extract_app_hi _ _ (by decide)]
    try rw [extract_app_lo _ _ (by decide)]
    exact extract_full _

@[simp] theorem FM.dec_enc (x : FM) : FM.dec x.enc = x := by
  obtain ⟨t, sp, buf, idx, sc, ty, fe, ord, scope, disp⟩ := x
  simp only [FM.dec, FM.enc, FM.mk.injEq]
  repeat' apply And.intro
  all_goals
    repeat rw [extract_app_hi _ _ (by decide)]
    try rw [extract_app_lo _ _ (by decide)]
    exact extract_full _

@[simp] theorem FB.dec_enc (x : FB) : FB.dec x.enc = x := by
  obtain ⟨d, a, res, off⟩ := x
  simp only [FB.dec, FB.enc, FB.mk.injEq]
  repeat' apply And.intro
  all_goals
    repeat rw [extract_app_hi _ _ (by decide)]
    try rw [extract_app_lo _ _ (by decide)]
    exact extract_full _

@[simp] theorem FL.dec_enc (x : FL) : FL.dec x.enc = x := by
  obtain ⟨lc, a, len, imm⟩ := x
  simp only [FL.dec, FL.enc, FL.mk.injEq]
  repeat' apply And.intro
  all_goals
    repeat rw [extract_app_hi _ _ (by decide)]
    try rw [extract_app_lo _ _ (by decide)]
    exact extract_full _

@[simp] theorem FE.dec_enc (x : FE) : FE.dec x.enc = x := by
  obtain ⟨q, s, d, imm⟩ := x
  simp only [FE.dec, FE.enc, FE.mk.injEq]
  repeat' apply And.intro
  all_goals
    repeat rw [extract_app_hi _ _ (by decide)]
    try rw [extract_app_lo _ _ (by decide)]
    exact extract_full _

@[simp] theorem FY.dec_enc (x : FY) : FY.dec x.enc = x := by
  obtain ⟨d, a, sel, ord, scope, res, imm⟩ := x
  simp only [FY.dec, FY.enc, FY.mk.injEq]
  repeat' apply And.intro
  all_goals
    repeat rw [extract_app_hi _ _ (by decide)]
    try rw [extract_app_lo _ _ (by decide)]
    exact extract_full _

@[simp] theorem Ty.ofCode_code (x : Ty) : Ty.ofCode x.code = some x := by cases x <;> rfl
@[simp] theorem Rc.ofCode_code (x : Rc) : Rc.ofCode x.code = some x := by cases x <;> rfl
@[simp] theorem Fe.ofCode_code (x : Fe) : Fe.ofCode x.code = some x := by cases x <;> rfl
@[simp] theorem Cond.ofCode_code (x : Cond) : Cond.ofCode x.code = some x := by cases x <;> rfl
@[simp] theorem CondI.ofCode_code (x : CondI) : CondI.ofCode x.code = some x := by cases x <;> rfl
@[simp] theorem Red.ofCode_code (x : Red) : Red.ofCode x.code = some x := by cases x <;> rfl
@[simp] theorem Cr.ofCode_code (x : Cr) : Cr.ofCode x.code = some x := by cases x <;> rfl
@[simp] theorem Ord.ofCode_code (x : Ord) : Ord.ofCode x.code = x := by cases x <;> rfl
@[simp] theorem Scope.ofCode_code (x : Scope) : Scope.ofCode x.code = x := by cases x <;> rfl
@[simp] theorem Space.ofCode_code (x : Space) : Space.ofCode x.code = x := by cases x <;> rfl

@[simp] theorem lo6_up7 (r : BitVec 6) : lo6 (up7 r) = r := by
  unfold lo6 up7; apply BitVec.eq_of_toNat_eq; simp

@[simp] theorem trunc_zext {m n : Nat} (r : BitVec m) (h : m ≤ n) : (r.zeroExtend n).truncate m = r := by
  apply BitVec.eq_of_getLsbD_eq; intro i hi
  have : i < n := by omega
  simp [hi, this]

theorem zext_app_hi {m n k : Nat} (x : BitVec m) (y : BitVec n) (h : m + n ≤ k) :
    ((x ++ y).zeroExtend k).extractLsb' n m = x := by
  apply BitVec.eq_of_getLsbD_eq; intro i hi
  have h1 : n + i < k := by omega
  simp [BitVec.getLsbD_append, BitVec.getLsbD_setWidth, hi, h1]

theorem zext_app_lo {m n k : Nat} (x : BitVec m) (y : BitVec n) (h : n ≤ k) :
    ((x ++ y).zeroExtend k).truncate n = y := by
  apply BitVec.eq_of_getLsbD_eq; intro i hi
  have h1 : i < k := by omega
  simp [BitVec.getLsbD_append, BitVec.getLsbD_setWidth, hi, h1]

@[simp] theorem bit6_bit0 (b : Bool) : (bit6 b).getLsbD 0 = b := by cases b <;> rfl

theorem FV.vb_of (f : FV) (b : VB) (x : BitVec 6) (hb : f.b = b.num) (hf : f.func = b.flag ||| x)
    (hx : x.getLsbD 5 = false) : f.vb = b := by
  have h5 : f.func.getLsbD 5 = b.flag.getLsbD 5 := by rw [hf, BitVec.getLsbD_or, hx, Bool.or_false]
  unfold FV.vb
  rw [h5, hb]
  cases b with
  | v r =>
    have e : (VB.v r).flag.getLsbD 5 = false := by simp [VB.flag]
    rw [e]; exact congrArg VB.v (trunc_zext (n := 7) r (by decide))
  | s r =>
    have e : (VB.s r).flag.getLsbD 5 = true := by show (0x20#6).getLsbD 5 = true; decide
    rw [e]; exact congrArg VB.s (trunc_zext (n := 7) r (by decide))

theorem FV.vb_of' (f : FV) (b : VB) (hb : f.b = b.num) (hf : f.func = b.flag) : f.vb = b :=
  FV.vb_of f b 0#6 hb (by simpa using hf) (by decide)

end Sys2Proof
end

