-- ==== Sys2Proof/Laws/PerInstr.lean ====
section
/-! SUPPORT. Per instruction: a well-formed instruction's word decodes to it (R124-R155). -/

namespace Sys2Proof.Laws.RoundTrip

/-- Decoding the word of a well-formed instruction gives it back; an event has no word. -/
def Statement (i : Instr) : Prop := i.wf = true → ∀ w, encode i = some w → decode w = .ok i

/-- The common part: the word's major is assigned and its parser returns the instruction. -/
theorem of_parse (i : Instr) (m : Nat) (g : Guard) (b : BitVec 48) (he : encode i = some (mkWord m g b))
    (hm : majorAssigned (m % 256) = true) (hg : i.wf = true → g.ok = true)
    (hp : i.wf = true → parse (m % 256) g b = some i) : Statement i := by
  intro hw w hw'
  have e : w = mkWord m g b := by rw [he] at hw'; exact (Option.some.inj hw').symm
  subst e
  unfold decode
  rw [majorOf_mkWord, guardOf_mkWord, bodyOf_mkWord, hm, hg hw, hp hw]
  simp [hw, he]

theorem nop (g : Guard) : Statement (.nop g) := by
  refine of_parse _ 0x01 g _ rfl (by decide) (fun h => ?_) (fun h => ?_)
  · exact h
  · show parseY 0x01 g (FY.dec (FY.enc {})) = _
    rw [FY.dec_enc]
    simp [parseY]
theorem trap (g : Guard) (imm : BitVec 16) : Statement (.trap g imm) := by
  refine of_parse _ 0x02 g _ rfl (by decide) (fun h => ?_) (fun h => ?_)
  · exact h
  · show parseY 0x02 g (FY.dec _) = _
    rw [FY.dec_enc]
    simp [parseY]
theorem brk (g : Guard) (imm : BitVec 16) : Statement (.brk g imm) := by
  refine of_parse _ 0x03 g _ rfl (by decide) (fun h => ?_) (fun h => ?_)
  · exact h
  · show parseY 0x03 g (FY.dec _) = _
    rw [FY.dec_enc]
    simp [parseY]
theorem tret (g : Guard) : Statement (.tret g) := by
  refine of_parse _ 0x04 g _ rfl (by decide) (fun h => ?_) (fun h => ?_)
  · exact h
  · show parseY 0x04 g (FY.dec (FY.enc {})) = _
    rw [FY.dec_enc]
    simp [parseY]
theorem hret (g : Guard) : Statement (.hret g) := by
  refine of_parse _ 0x05 g _ rfl (by decide) (fun h => ?_) (fun h => ?_)
  · exact h
  · show parseY 0x05 g (FY.dec (FY.enc {})) = _
    rw [FY.dec_enc]
    simp [parseY]
theorem crd (g : Guard) (d : SR) (cr : Cr) : Statement (.crd g d cr) := by
  refine of_parse _ 0x06 g _ rfl (by decide) (fun h => ?_) (fun h => ?_)
  · exact h
  · show parseY 0x06 g (FY.dec _) = _
    rw [FY.dec_enc]
    simp [parseY]
theorem cwr (g : Guard) (cr : Cr) (a : SR) : Statement (.cwr g cr a) := by
  refine of_parse _ 0x07 g _ rfl (by decide) (fun h => ?_) (fun h => ?_)
  · exact h
  · show parseY 0x07 g (FY.dec _) = _
    rw [FY.dec_enc]
    simp [parseY]
theorem crset (g : Guard) (cr : Cr) (a : SR) : Statement (.crset g cr a) := by
  refine of_parse _ 0x08 g _ rfl (by decide) (fun h => ?_) (fun h => ?_)
  · exact h
  · show parseY 0x08 g (FY.dec _) = _
    rw [FY.dec_enc]
    simp [parseY]
theorem crclr (g : Guard) (cr : Cr) (a : SR) : Statement (.crclr g cr a) := by
  refine of_parse _ 0x09 g _ rfl (by decide) (fun h => ?_) (fun h => ?_)
  · exact h
  · show parseY 0x09 g (FY.dec _) = _
    rw [FY.dec_enc]
    simp [parseY]
theorem fence (g : Guard) (ord : Ord) (sc : Scope) : Statement (.fence g ord sc) := by
  refine of_parse _ 0x0A g _ rfl (by decide) (fun h => ?_) (fun h => ?_)
  · exact (Bool.and_eq_true_iff.mp h).1
  · show parseY 0x0A g (FY.dec _) = _
    rw [FY.dec_enc]
    simp [parseY]
theorem time (g : Guard) (d : SR) : Statement (.time g d) := by
  refine of_parse _ 0x0B g _ rfl (by decide) (fun h => ?_) (fun h => ?_)
  · exact h
  · show parseY 0x0B g (FY.dec _) = _
    rw [FY.dec_enc]
    simp [parseY]
theorem cid (g : Guard) (d : SR) : Statement (.cid g d) := by
  refine of_parse _ 0x0C g _ rfl (by decide) (fun h => ?_) (fun h => ?_)
  · exact h
  · show parseY 0x0C g (FY.dec _) = _
    rw [FY.dec_enc]
    simp [parseY]
theorem dhops (g : Guard) (d a b : SR) : Statement (.dhops g d a b) := by
  refine of_parse _ 0x0D g _ rfl (by decide) (fun h => ?_) (fun h => ?_)
  · exact h
  · show parseY 0x0D g (FY.dec _) = _
    rw [FY.dec_enc]
    simp [parseY]
theorem tnext (g : Guard) (d : SR) (pa : PR) : Statement (.tnext g d pa) := by
  refine of_parse _ 0x0E g _ rfl (by decide) (fun h => ?_) (fun h => ?_)
  · exact (Bool.and_eq_true_iff.mp h).1
  · show parseY 0x0E g (FY.dec _) = _
    rw [FY.dec_enc]
    simp [parseY]
theorem tdone (g : Guard) : Statement (.tdone g) := by
  refine of_parse _ 0x0F g _ rfl (by decide) (fun h => ?_) (fun h => ?_)
  · exact h
  · show parseY 0x0F g (FY.dec (FY.enc {})) = _
    rw [FY.dec_enc]
    simp [parseY]
theorem tspawn (g : Guard) (d a : SR) : Statement (.tspawn g d a) := by
  refine of_parse _ 0x10 g _ rfl (by decide) (fun h => ?_) (fun h => ?_)
  · exact h
  · show parseY 0x10 g (FY.dec _) = _
    rw [FY.dec_enc]
    simp [parseY]
theorem tyield (g : Guard) : Statement (.tyield g) := by
  refine of_parse _ 0x11 g _ rfl (by decide) (fun h => ?_) (fun h => ?_)
  · exact h
  · show parseY 0x11 g (FY.dec (FY.enc {})) = _
    rw [FY.dec_enc]
    simp [parseY]
theorem barv (g : Guard) (a : SR) (imm : BitVec 16) : Statement (.barv g a imm) := by
  refine of_parse _ 0x12 g _ rfl (by decide) (fun h => ?_) (fun h => ?_)
  · exact h
  · show parseY 0x12 g (FY.dec _) = _
    rw [FY.dec_enc]
    simp [parseY]
theorem barw (g : Guard) (a : SR) (imm : BitVec 16) : Statement (.barw g a imm) := by
  refine of_parse _ 0x13 g _ rfl (by decide) (fun h => ?_) (fun h => ?_)
  · exact h
  · show parseY 0x13 g (FY.dec _) = _
    rw [FY.dec_enc]
    simp [parseY]
theorem add (g : Guard) (d a b : SR) : Statement (.add g d a b) := by
  refine of_parse _ 0x20 g _ rfl (by decide) (fun h => ?_) (fun h => ?_)
  · exact h
  · show parseRR0 0x20 g (FRR.dec _) = _
    rw [FRR.dec_enc]
    simp [parseRR0]
theorem sub (g : Guard) (d a b : SR) : Statement (.sub g d a b) := by
  refine of_parse _ 0x21 g _ rfl (by decide) (fun h => ?_) (fun h => ?_)
  · exact h
  · show parseRR0 0x21 g (FRR.dec _) = _
    rw [FRR.dec_enc]
    simp [parseRR0]
theorem mul (g : Guard) (d a b : SR) : Statement (.mul g d a b) := by
  refine of_parse _ 0x22 g _ rfl (by decide) (fun h => ?_) (fun h => ?_)
  · exact h
  · show parseRR0 0x22 g (FRR.dec _) = _
    rw [FRR.dec_enc]
    simp [parseRR0]
theorem mulh (g : Guard) (d a b : SR) : Statement (.mulh g d a b) := by
  refine of_parse _ 0x23 g _ rfl (by decide) (fun h => ?_) (fun h => ?_)
  · exact h
  · show parseRR0 0x23 g (FRR.dec _) = _
    rw [FRR.dec_enc]
    simp [parseRR0]
theorem mulhu (g : Guard) (d a b : SR) : Statement (.mulhu g d a b) := by
  refine of_parse _ 0x24 g _ rfl (by decide) (fun h => ?_) (fun h => ?_)
  · exact h
  · show parseRR0 0x24 g (FRR.dec _) = _
    rw [FRR.dec_enc]
    simp [parseRR0]
theorem div (g : Guard) (d a b : SR) : Statement (.div g d a b) := by
  refine of_parse _ 0x25 g _ rfl (by decide) (fun h => ?_) (fun h => ?_)
  · exact h
  · show parseRR0 0x25 g (FRR.dec _) = _
    rw [FRR.dec_enc]
    simp [parseRR0]
theorem divu (g : Guard) (d a b : SR) : Statement (.divu g d a b) := by
  refine of_parse _ 0x26 g _ rfl (by decide) (fun h => ?_) (fun h => ?_)
  · exact h
  · show parseRR0 0x26 g (FRR.dec _) = _
    rw [FRR.dec_enc]
    simp [parseRR0]
theorem rem (g : Guard) (d a b : SR) : Statement (.rem g d a b) := by
  refine of_parse _ 0x27 g _ rfl (by decide) (fun h => ?_) (fun h => ?_)
  · exact h
  · show parseRR0 0x27 g (FRR.dec _) = _
    rw [FRR.dec_enc]
    simp [parseRR0]
theorem remu (g : Guard) (d a b : SR) : Statement (.remu g d a b) := by
  refine of_parse _ 0x28 g _ rfl (by decide) (fun h => ?_) (fun h => ?_)
  · exact h
  · show parseRR0 0x28 g (FRR.dec _) = _
    rw [FRR.dec_enc]
    simp [parseRR0]
theorem and (g : Guard) (d a b : SR) : Statement (.and g d a b) := by
  refine of_parse _ 0x29 g _ rfl (by decide) (fun h => ?_) (fun h => ?_)
  · exact h
  · show parseRR0 0x29 g (FRR.dec _) = _
    rw [FRR.dec_enc]
    simp [parseRR0]
theorem or (g : Guard) (d a b : SR) : Statement (.or g d a b) := by
  refine of_parse _ 0x2A g _ rfl (by decide) (fun h => ?_) (fun h => ?_)
  · exact h
  · show parseRR0 0x2A g (FRR.dec _) = _
    rw [FRR.dec_enc]
    simp [parseRR0]
theorem xor (g : Guard) (d a b : SR) : Statement (.xor g d a b) := by
  refine of_parse _ 0x2B g _ rfl (by decide) (fun h => ?_) (fun h => ?_)
  · exact h
  · show parseRR0 0x2B g (FRR.dec _) = _
    rw [FRR.dec_enc]
    simp [parseRR0]
theorem andn (g : Guard) (d a b : SR) : Statement (.andn g d a b) := by
  refine of_parse _ 0x2C g _ rfl (by decide) (fun h => ?_) (fun h => ?_)
  · exact h
  · show parseRR0 0x2C g (FRR.dec _) = _
    rw [FRR.dec_enc]
    simp [parseRR0]
theorem shl (g : Guard) (d a b : SR) : Statement (.shl g d a b) := by
  refine of_parse _ 0x2D g _ rfl (by decide) (fun h => ?_) (fun h => ?_)
  · exact h
  · show parseRR0 0x2D g (FRR.dec _) = _
    rw [FRR.dec_enc]
    simp [parseRR0]
theorem shr (g : Guard) (d a b : SR) : Statement (.shr g d a b) := by
  refine of_parse _ 0x2E g _ rfl (by decide) (fun h => ?_) (fun h => ?_)
  · exact h
  · show parseRR0 0x2E g (FRR.dec _) = _
    rw [FRR.dec_enc]
    simp [parseRR0]
theorem sra (g : Guard) (d a b : SR) : Statement (.sra g d a b) := by
  refine of_parse _ 0x2F g _ rfl (by decide) (fun h => ?_) (fun h => ?_)
  · exact h
  · show parseRR0 0x2F g (FRR.dec _) = _
    rw [FRR.dec_enc]
    simp [parseRR0]
theorem rotl (g : Guard) (d a b : SR) : Statement (.rotl g d a b) := by
  refine of_parse _ 0x30 g _ rfl (by decide) (fun h => ?_) (fun h => ?_)
  · exact h
  · show parseRR0 0x30 g (FRR.dec _) = _
    rw [FRR.dec_enc]
    simp [parseRR0]
theorem min (g : Guard) (d a b : SR) : Statement (.min g d a b) := by
  refine of_parse _ 0x31 g _ rfl (by decide) (fun h => ?_) (fun h => ?_)
  · exact h
  · show parseRR0 0x31 g (FRR.dec _) = _
    rw [FRR.dec_enc]
    simp [parseRR0]
theorem max (g : Guard) (d a b : SR) : Statement (.max g d a b) := by
  refine of_parse _ 0x32 g _ rfl (by decide) (fun h => ?_) (fun h => ?_)
  · exact h
  · show parseRR0 0x32 g (FRR.dec _) = _
    rw [FRR.dec_enc]
    simp [parseRR0]
theorem minu (g : Guard) (d a b : SR) : Statement (.minu g d a b) := by
  refine of_parse _ 0x33 g _ rfl (by decide) (fun h => ?_) (fun h => ?_)
  · exact h
  · show parseRR0 0x33 g (FRR.dec _) = _
    rw [FRR.dec_enc]
    simp [parseRR0]
theorem maxu (g : Guard) (d a b : SR) : Statement (.maxu g d a b) := by
  refine of_parse _ 0x34 g _ rfl (by decide) (fun h => ?_) (fun h => ?_)
  · exact h
  · show parseRR0 0x34 g (FRR.dec _) = _
    rw [FRR.dec_enc]
    simp [parseRR0]
theorem clz (g : Guard) (d a : SR) : Statement (.clz g d a) := by
  refine of_parse _ 0x35 g _ rfl (by decide) (fun h => ?_) (fun h => ?_)
  · exact h
  · show parseRR0 0x35 g (FRR.dec _) = _
    rw [FRR.dec_enc]
    simp [parseRR0]
theorem ctz (g : Guard) (d a : SR) : Statement (.ctz g d a) := by
  refine of_parse _ 0x36 g _ rfl (by decide) (fun h => ?_) (fun h => ?_)
  · exact h
  · show parseRR0 0x36 g (FRR.dec _) = _
    rw [FRR.dec_enc]
    simp [parseRR0]
theorem popc (g : Guard) (d a : SR) : Statement (.popc g d a) := by
  refine of_parse _ 0x37 g _ rfl (by decide) (fun h => ?_) (fun h => ?_)
  · exact h
  · show parseRR0 0x37 g (FRR.dec _) = _
    rw [FRR.dec_enc]
    simp [parseRR0]
theorem ext (g : Guard) (ty : Ty) (d a : SR) : Statement (.ext g ty d a) := by
  refine of_parse _ 0x38 g _ rfl (by decide) (fun h => ?_) (fun h => ?_)
  · exact (Bool.and_eq_true_iff.mp h).1
  · show parseRR0 0x38 g (FRR.dec _) = _
    rw [FRR.dec_enc]
    simp [parseRR0]
theorem cmp (g : Guard) (cc : Cond) (d : PR) (a b : SR) : Statement (.cmp g cc d a b) := by
  refine of_parse _ 0x39 g _ rfl (by decide) (fun h => ?_) (fun h => ?_)
  · exact (Bool.and_eq_true_iff.mp h).1
  · show parseRR0 0x39 g (FRR.dec _) = _
    rw [FRR.dec_enc]
    simp [parseRR0]
theorem sel (g : Guard) (d : SR) (c : PR) (a b : SR) : Statement (.sel g d c a b) := by
  refine of_parse _ 0x3A g _ rfl (by decide) (fun h => ?_) (fun h => ?_)
  · exact (Bool.and_eq_true_iff.mp h).1
  · show parseRR0 0x3A g (FRR.dec _) = _
    rw [FRR.dec_enc]
    simp [parseRR0]
theorem sadd (g : Guard) (ty : Ty) (d a b : SR) : Statement (.sadd g ty d a b) := by
  refine of_parse _ 0x3B g _ rfl (by decide) (fun h => ?_) (fun h => ?_)
  · exact (Bool.and_eq_true_iff.mp h).1
  · show parseRR0 0x3B g (FRR.dec _) = _
    rw [FRR.dec_enc]
    simp [parseRR0]
theorem ssub (g : Guard) (ty : Ty) (d a b : SR) : Statement (.ssub g ty d a b) := by
  refine of_parse _ 0x3C g _ rfl (by decide) (fun h => ?_) (fun h => ?_)
  · exact (Bool.and_eq_true_iff.mp h).1
  · show parseRR0 0x3C g (FRR.dec _) = _
    rw [FRR.dec_enc]
    simp [parseRR0]
theorem mad (g : Guard) (d a b c : SR) : Statement (.mad g d a b c) := by
  refine of_parse _ 0x3D g _ rfl (by decide) (fun h => ?_) (fun h => ?_)
  · exact h
  · show parseRR0 0x3D g (FRR.dec _) = _
    rw [FRR.dec_enc]
    simp [parseRR0]
theorem lea (g : Guard) (k : BitVec 2) (d a b : SR) : Statement (.lea g k d a b) := by
  refine of_parse _ 0x3E g _ rfl (by decide) (fun h => ?_) (fun h => ?_)
  · exact h
  · show parseRR0 0x3E g (FRR.dec _) = _
    rw [FRR.dec_enc]
    simp [parseRR0]
theorem fadd (g : Guard) (ty : Ty) (rm : Rc) (d a b : SR) : Statement (.fadd g ty rm d a b) := by
  refine of_parse _ 0x50 g _ rfl (by decide) (fun h => ?_) (fun h => ?_)
  · exact (Bool.and_eq_true_iff.mp h).1
  · show parseRR0 0x50 g (FRR.dec _) = _
    rw [FRR.dec_enc]
    simp [parseRR0]
theorem fsub (g : Guard) (ty : Ty) (rm : Rc) (d a b : SR) : Statement (.fsub g ty rm d a b) := by
  refine of_parse _ 0x51 g _ rfl (by decide) (fun h => ?_) (fun h => ?_)
  · exact (Bool.and_eq_true_iff.mp h).1
  · show parseRR0 0x51 g (FRR.dec _) = _
    rw [FRR.dec_enc]
    simp [parseRR0]
theorem fmul (g : Guard) (ty : Ty) (rm : Rc) (d a b : SR) : Statement (.fmul g ty rm d a b) := by
  refine of_parse _ 0x52 g _ rfl (by decide) (fun h => ?_) (fun h => ?_)
  · exact (Bool.and_eq_true_iff.mp h).1
  · show parseRR0 0x52 g (FRR.dec _) = _
    rw [FRR.dec_enc]
    simp [parseRR0]
theorem fdiv (g : Guard) (ty : Ty) (rm : Rc) (d a b : SR) : Statement (.fdiv g ty rm d a b) := by
  refine of_parse _ 0x53 g _ rfl (by decide) (fun h => ?_) (fun h => ?_)
  · exact (Bool.and_eq_true_iff.mp h).1
  · show parseRR1 0x53 g (FRR.dec _) = _
    rw [FRR.dec_enc]
    simp [parseRR1]
theorem fsqrt (g : Guard) (ty : Ty) (rm : Rc) (d a : SR) : Statement (.fsqrt g ty rm d a) := by
  refine of_parse _ 0x54 g _ rfl (by decide) (fun h => ?_) (fun h => ?_)
  · exact (Bool.and_eq_true_iff.mp h).1
  · show parseRR1 0x54 g (FRR.dec _) = _
    rw [FRR.dec_enc]
    simp [parseRR1]
theorem fma (g : Guard) (ty : Ty) (rm : Rc) (neg : BitVec 2) (d a b c : SR) : Statement (.fma g ty rm neg d a b c) := by
  refine of_parse _ 0x55 g _ rfl (by decide) (fun h => ?_) (fun h => ?_)
  · exact (Bool.and_eq_true_iff.mp h).1
  · show parseRR1 0x55 g (FRR.dec _) = _
    rw [FRR.dec_enc]
    simp [parseRR1]
theorem fmin (g : Guard) (ty : Ty) (d a b : SR) : Statement (.fmin g ty d a b) := by
  refine of_parse _ 0x56 g _ rfl (by decide) (fun h => ?_) (fun h => ?_)
  · exact (Bool.and_eq_true_iff.mp h).1
  · show parseRR1 0x56 g (FRR.dec _) = _
    rw [FRR.dec_enc]
    simp [parseRR1]
theorem fmax (g : Guard) (ty : Ty) (d a b : SR) : Statement (.fmax g ty d a b) := by
  refine of_parse _ 0x57 g _ rfl (by decide) (fun h => ?_) (fun h => ?_)
  · exact (Bool.and_eq_true_iff.mp h).1
  · show parseRR1 0x57 g (FRR.dec _) = _
    rw [FRR.dec_enc]
    simp [parseRR1]
theorem fabs (g : Guard) (ty : Ty) (d a : SR) : Statement (.fabs g ty d a) := by
  refine of_parse _ 0x58 g _ rfl (by decide) (fun h => ?_) (fun h => ?_)
  · exact (Bool.and_eq_true_iff.mp h).1
  · show parseRR1 0x58 g (FRR.dec _) = _
    rw [FRR.dec_enc]
    simp [parseRR1]
theorem fneg (g : Guard) (ty : Ty) (d a : SR) : Statement (.fneg g ty d a) := by
  refine of_parse _ 0x59 g _ rfl (by decide) (fun h => ?_) (fun h => ?_)
  · exact (Bool.and_eq_true_iff.mp h).1
  · show parseRR1 0x59 g (FRR.dec _) = _
    rw [FRR.dec_enc]
    simp [parseRR1]
theorem fsgn (g : Guard) (ty : Ty) (d a b : SR) : Statement (.fsgn g ty d a b) := by
  refine of_parse _ 0x5A g _ rfl (by decide) (fun h => ?_) (fun h => ?_)
  · exact (Bool.and_eq_true_iff.mp h).1
  · show parseRR1 0x5A g (FRR.dec _) = _
    rw [FRR.dec_enc]
    simp [parseRR1]
theorem fcmp (g : Guard) (cc : Cond) (ty : Ty) (d : PR) (a b : SR) : Statement (.fcmp g cc ty d a b) := by
  refine of_parse _ 0x5B g _ rfl (by decide) (fun h => ?_) (fun h => ?_)
  · exact (Bool.and_eq_true_iff.mp h).1
  · show parseRR1 0x5B g (FRR.dec _) = _
    rw [FRR.dec_enc]
    simp [parseRR1]
theorem fcvt (g : Guard) (ty u : Ty) (rm : Rc) (d a : SR) : Statement (.fcvt g ty u rm d a) := by
  refine of_parse _ 0x5C g _ rfl (by decide) (fun h => ?_) (fun h => ?_)
  · exact h
  · show parseRR1 0x5C g (FRR.dec _) = _
    rw [FRR.dec_enc]
    simp [parseRR1]
theorem fclass (g : Guard) (ty : Ty) (d a : SR) : Statement (.fclass g ty d a) := by
  refine of_parse _ 0x5D g _ rfl (by decide) (fun h => ?_) (fun h => ?_)
  · exact (Bool.and_eq_true_iff.mp h).1
  · show parseRR1 0x5D g (FRR.dec _) = _
    rw [FRR.dec_enc]
    simp [parseRR1]
theorem frnd (g : Guard) (ty : Ty) (rm : Rc) (d a : SR) : Statement (.frnd g ty rm d a) := by
  refine of_parse _ 0x5E g _ rfl (by decide) (fun h => ?_) (fun h => ?_)
  · exact (Bool.and_eq_true_iff.mp h).1
  · show parseRR1 0x5E g (FRR.dec _) = _
    rw [FRR.dec_enc]
    simp [parseRR1]
theorem plog (g : Guard) (tt : BitVec 4) (d a b : PR) : Statement (.plog g tt d a b) := by
  refine of_parse _ 0x60 g _ rfl (by decide) (fun h => ?_) (fun h => ?_)
  · exact (Bool.and_eq_true_iff.mp h).1
  · show parseRR1 0x60 g (FRR.dec _) = _
    rw [FRR.dec_enc]
    simp [parseRR1]
theorem pcnt (g : Guard) (d : SR) (a : PR) : Statement (.pcnt g d a) := by
  refine of_parse _ 0x61 g _ rfl (by decide) (fun h => ?_) (fun h => ?_)
  · exact (Bool.and_eq_true_iff.mp h).1
  · show parseRR1 0x61 g (FRR.dec _) = _
    rw [FRR.dec_enc]
    simp [parseRR1]
theorem pfirst (g : Guard) (d : SR) (a : PR) : Statement (.pfirst g d a) := by
  refine of_parse _ 0x62 g _ rfl (by decide) (fun h => ?_) (fun h => ?_)
  · exact (Bool.and_eq_true_iff.mp h).1
  · show parseRR1 0x62 g (FRR.dec _) = _
    rw [FRR.dec_enc]
    simp [parseRR1]
theorem prange (g : Guard) (d : PR) (a b : SR) : Statement (.prange g d a b) := by
  refine of_parse _ 0x63 g _ rfl (by decide) (fun h => ?_) (fun h => ?_)
  · exact (Bool.and_eq_true_iff.mp h).1
  · show parseRR1 0x63 g (FRR.dec _) = _
    rw [FRR.dec_enc]
    simp [parseRR1]
theorem psplat (g : Guard) (d : PR) (a : SR) : Statement (.psplat g d a) := by
  refine of_parse _ 0x64 g _ rfl (by decide) (fun h => ?_) (fun h => ?_)
  · exact (Bool.and_eq_true_iff.mp h).1
  · show parseRR1 0x64 g (FRR.dec _) = _
    rw [FRR.dec_enc]
    simp [parseRR1]
theorem addi (g : Guard) (d a : SR) (imm : BitVec 32) : Statement (.addi g d a imm) := by
  refine of_parse _ 0x40 g _ rfl (by decide) (fun h => ?_) (fun h => ?_)
  · exact h
  · show parseRI 0x40 g (FRI.dec _) = _
    rw [FRI.dec_enc]
    simp [parseRI]
theorem andi (g : Guard) (d a : SR) (imm : BitVec 32) : Statement (.andi g d a imm) := by
  refine of_parse _ 0x41 g _ rfl (by decide) (fun h => ?_) (fun h => ?_)
  · exact h
  · show parseRI 0x41 g (FRI.dec _) = _
    rw [FRI.dec_enc]
    simp [parseRI]
theorem ori (g : Guard) (d a : SR) (imm : BitVec 32) : Statement (.ori g d a imm) := by
  refine of_parse _ 0x42 g _ rfl (by decide) (fun h => ?_) (fun h => ?_)
  · exact h
  · show parseRI 0x42 g (FRI.dec _) = _
    rw [FRI.dec_enc]
    simp [parseRI]
theorem xori (g : Guard) (d a : SR) (imm : BitVec 32) : Statement (.xori g d a imm) := by
  refine of_parse _ 0x43 g _ rfl (by decide) (fun h => ?_) (fun h => ?_)
  · exact h
  · show parseRI 0x43 g (FRI.dec _) = _
    rw [FRI.dec_enc]
    simp [parseRI]
theorem muli (g : Guard) (d a : SR) (imm : BitVec 32) : Statement (.muli g d a imm) := by
  refine of_parse _ 0x47 g _ rfl (by decide) (fun h => ?_) (fun h => ?_)
  · exact h
  · show parseRI 0x47 g (FRI.dec _) = _
    rw [FRI.dec_enc]
    simp [parseRI]
theorem shli (g : Guard) (d a : SR) (k : BitVec 6) : Statement (.shli g d a k) := by
  refine of_parse _ 0x44 g _ rfl (by decide) (fun h => ?_) (fun h => ?_)
  · exact h
  · show parseRI 0x44 g (FRI.dec _) = _
    rw [FRI.dec_enc]
    simp [parseRI]
theorem shri (g : Guard) (d a : SR) (k : BitVec 6) : Statement (.shri g d a k) := by
  refine of_parse _ 0x45 g _ rfl (by decide) (fun h => ?_) (fun h => ?_)
  · exact h
  · show parseRI 0x45 g (FRI.dec _) = _
    rw [FRI.dec_enc]
    simp [parseRI]
theorem srai (g : Guard) (d a : SR) (k : BitVec 6) : Statement (.srai g d a k) := by
  refine of_parse _ 0x46 g _ rfl (by decide) (fun h => ?_) (fun h => ?_)
  · exact h
  · show parseRI 0x46 g (FRI.dec _) = _
    rw [FRI.dec_enc]
    simp [parseRI]
theorem movi (g : Guard) (d : SR) (imm : BitVec 32) : Statement (.movi g d imm) := by
  refine of_parse _ 0x48 g _ rfl (by decide) (fun h => ?_) (fun h => ?_)
  · exact h
  · show parseRI 0x48 g (FRI.dec _) = _
    rw [FRI.dec_enc]
    simp [parseRI]
theorem movhi (g : Guard) (d a : SR) (imm : BitVec 32) : Statement (.movhi g d a imm) := by
  refine of_parse _ 0x49 g _ rfl (by decide) (fun h => ?_) (fun h => ?_)
  · exact h
  · show parseRI 0x49 g (FRI.dec _) = _
    rw [FRI.dec_enc]
    simp [parseRI]
theorem cmpi (g : Guard) (cc : CondI) (d : PR) (a : SR) (imm : BitVec 32) : Statement (.cmpi g cc d a imm) := by
  refine of_parse _ 0x4A g _ rfl (by decide) (fun h => ?_) (fun h => ?_)
  · exact (Bool.and_eq_true_iff.mp h).1
  · show parseRI 0x4A g (FRI.dec _) = _
    rw [FRI.dec_enc]
    simp [parseRI]
theorem cmpiu (g : Guard) (cc : CondI) (d : PR) (a : SR) (imm : BitVec 32) : Statement (.cmpiu g cc d a imm) := by
  refine of_parse _ 0x4B g _ rfl (by decide) (fun h => ?_) (fun h => ?_)
  · exact (Bool.and_eq_true_iff.mp h).1
  · show parseRI 0x4B g (FRI.dec _) = _
    rw [FRI.dec_enc]
    simp [parseRI]
theorem adpc (g : Guard) (d : SR) (imm : BitVec 32) : Statement (.adpc g d imm) := by
  refine of_parse _ 0x4C g _ rfl (by decide) (fun h => ?_) (fun h => ?_)
  · exact h
  · show parseRI 0x4C g (FRI.dec _) = _
    rw [FRI.dec_enc]
    simp [parseRI]
theorem br (g : Guard) (off : BitVec 32) : Statement (.br g off) := by
  refine of_parse _ 0x68 g _ rfl (by decide) (fun h => ?_) (fun h => ?_)
  · exact h
  · show parseB 0x68 g (FB.dec _) = _
    rw [FB.dec_enc]
    simp [parseB]
theorem call (g : Guard) (d : SR) (off : BitVec 32) : Statement (.call g d off) := by
  refine of_parse _ 0x69 g _ rfl (by decide) (fun h => ?_) (fun h => ?_)
  · exact h
  · show parseB 0x69 g (FB.dec _) = _
    rw [FB.dec_enc]
    simp [parseB]
theorem jmp (g : Guard) (a : SR) (off : BitVec 32) : Statement (.jmp g a off) := by
  refine of_parse _ 0x6A g _ rfl (by decide) (fun h => ?_) (fun h => ?_)
  · exact h
  · show parseB 0x6A g (FB.dec _) = _
    rw [FB.dec_enc]
    simp [parseB]
theorem callr (g : Guard) (d a : SR) (off : BitVec 32) : Statement (.callr g d a off) := by
  refine of_parse _ 0x6B g _ rfl (by decide) (fun h => ?_) (fun h => ?_)
  · exact h
  · show parseB 0x6B g (FB.dec _) = _
    rw [FB.dec_enc]
    simp [parseB]
theorem ret (g : Guard) (a : SR) : Statement (.ret g a) := by
  refine of_parse _ 0x6C g _ rfl (by decide) (fun h => ?_) (fun h => ?_)
  · exact h
  · show parseB 0x6C g (FB.dec _) = _
    rw [FB.dec_enc]
    simp [parseB]
theorem loop (g : Guard) (n : LR) (a : SR) (len : BitVec 8) (imm : BitVec 32) : Statement (.loop g n a len imm) := by
  refine of_parse _ 0x70 g _ rfl (by decide) (fun h => ?_) (fun h => ?_)
  · exact (Bool.and_eq_true_iff.mp h).1
  · show parseL 0x70 g (FL.dec _) = _
    rw [FL.dec_enc]
    simp [parseL]
theorem lbrk (g : Guard) (n : LR) : Statement (.lbrk g n) := by
  refine of_parse _ 0x71 g _ rfl (by decide) (fun h => ?_) (fun h => ?_)
  · exact (Bool.and_eq_true_iff.mp h).1
  · show parseL 0x71 g (FL.dec _) = _
    rw [FL.dec_enc]
    simp [parseL]
theorem lcget (g : Guard) (a : SR) (n : LR) : Statement (.lcget g a n) := by
  refine of_parse _ 0x72 g _ rfl (by decide) (fun h => ?_) (fun h => ?_)
  · exact (Bool.and_eq_true_iff.mp h).1
  · show parseL 0x72 g (FL.dec _) = _
    rw [FL.dec_enc]
    simp [parseL]
theorem lcset (g : Guard) (n : LR) (a : SR) : Statement (.lcset g n a) := by
  refine of_parse _ 0x73 g _ rfl (by decide) (fun h => ?_) (fun h => ?_)
  · exact (Bool.and_eq_true_iff.mp h).1
  · show parseL 0x73 g (FL.dec _) = _
    rw [FL.dec_enc]
    simp [parseL]
theorem qld (g : Guard) (ord : Ord) (sc : Scope) (t : QR) (m : MemOp) : Statement (.qld g ord sc t m) := by
  refine of_parse _ 0x78 g _ rfl (by decide) (fun h => ?_) (fun h => ?_)
  · exact (Bool.and_eq_true_iff.mp h).1
  · show parseM 0x78 g (FM.dec _) = _
    rw [FM.dec_enc]
    simp [parseM, FM.mem]
theorem qst (g : Guard) (ord : Ord) (sc : Scope) (t : QR) (m : MemOp) : Statement (.qst g ord sc t m) := by
  refine of_parse _ 0x79 g _ rfl (by decide) (fun h => ?_) (fun h => ?_)
  · exact (Bool.and_eq_true_iff.mp h).1
  · show parseM 0x79 g (FM.dec _) = _
    rw [FM.dec_enc]
    simp [parseM, FM.mem]
theorem ld (g : Guard) (ty : Ty) (fe : Fe) (ord : Ord) (sc : Scope) (t : SR) (m : MemOp) : Statement (.ld g ty fe ord sc t m) := by
  refine of_parse _ 0x80 g _ rfl (by decide) (fun h => ?_) (fun h => ?_)
  · exact (Bool.and_eq_true_iff.mp h).1
  · show parseM 0x80 g (FM.dec _) = _
    rw [FM.dec_enc]
    simp [parseM, FM.mem]
theorem st (g : Guard) (ty : Ty) (fe : Fe) (ord : Ord) (sc : Scope) (t : SR) (m : MemOp) : Statement (.st g ty fe ord sc t m) := by
  refine of_parse _ 0x81 g _ rfl (by decide) (fun h => ?_) (fun h => ?_)
  · exact (Bool.and_eq_true_iff.mp h).1
  · show parseM 0x81 g (FM.dec _) = _
    rw [FM.dec_enc]
    simp [parseM, FM.mem]
theorem ld2 (g : Guard) (ord : Ord) (sc : Scope) (t : SR) (m : MemOp) : Statement (.ld2 g ord sc t m) := by
  refine of_parse _ 0x82 g _ rfl (by decide) (fun h => ?_) (fun h => ?_)
  · exact (Bool.and_eq_true_iff.mp h).1
  · show parseM 0x82 g (FM.dec _) = _
    rw [FM.dec_enc]
    simp [parseM, FM.mem]
theorem st2 (g : Guard) (ord : Ord) (sc : Scope) (t : SR) (m : MemOp) : Statement (.st2 g ord sc t m) := by
  refine of_parse _ 0x83 g _ rfl (by decide) (fun h => ?_) (fun h => ?_)
  · exact (Bool.and_eq_true_iff.mp h).1
  · show parseM 0x83 g (FM.dec _) = _
    rw [FM.dec_enc]
    simp [parseM, FM.mem]
theorem vld (g : Guard) (ord : Ord) (sc : Scope) (q : QR) (t : VR) (m : MemOp) : Statement (.vld g ord sc q t m) := by
  refine of_parse _ 0x84 g _ rfl (by decide) (fun h => ?_) (fun h => ?_)
  · exact (Bool.and_eq_true_iff.mp h).1
  · show parseM 0x84 g (FM.dec _) = _
    rw [FM.dec_enc]
    simp [parseM, FM.mem]
theorem vst (g : Guard) (ord : Ord) (sc : Scope) (q : QR) (t : VR) (m : MemOp) : Statement (.vst g ord sc q t m) := by
  refine of_parse _ 0x85 g _ rfl (by decide) (fun h => ?_) (fun h => ?_)
  · exact (Bool.and_eq_true_iff.mp h).1
  · show parseM 0x85 g (FM.dec _) = _
    rw [FM.dec_enc]
    simp [parseM, FM.mem]
theorem vgath (g : Guard) (q : QR) (t : VR) (m : MemOp) : Statement (.vgath g q t m) := by
  refine of_parse _ 0x86 g _ rfl (by decide) (fun h => ?_) (fun h => ?_)
  · exact (Bool.and_eq_true_iff.mp h).1
  · show parseM 0x86 g (FM.dec _) = _
    rw [FM.dec_enc]
    simp [parseM, FM.mem]
theorem vscat (g : Guard) (q : QR) (t : VR) (m : MemOp) : Statement (.vscat g q t m) := by
  refine of_parse _ 0x87 g _ rfl (by decide) (fun h => ?_) (fun h => ?_)
  · exact (Bool.and_eq_true_iff.mp h).1
  · show parseM 0x87 g (FM.dec _) = _
    rw [FM.dec_enc]
    simp [parseM, FM.mem]
theorem cas (g : Guard) (ty : Ty) (ord : Ord) (sc : Scope) (t : SR) (m : MemOp) : Statement (.cas g ty ord sc t m) := by
  refine of_parse _ 0x88 g _ rfl (by decide) (fun h => ?_) (fun h => ?_)
  · exact (Bool.and_eq_true_iff.mp h).1
  · show parseM 0x88 g (FM.dec _) = _
    rw [FM.dec_enc]
    simp [parseM, FM.mem]
theorem cas2 (g : Guard) (ord : Ord) (sc : Scope) (t : SR) (m : MemOp) : Statement (.cas2 g ord sc t m) := by
  refine of_parse _ 0x89 g _ rfl (by decide) (fun h => ?_) (fun h => ?_)
  · exact (Bool.and_eq_true_iff.mp h).1
  · show parseM 0x89 g (FM.dec _) = _
    rw [FM.dec_enc]
    simp [parseM, FM.mem]
theorem amoadd (g : Guard) (ty : Ty) (ord : Ord) (sc : Scope) (t : SR) (m : MemOp) : Statement (.amoadd g ty ord sc t m) := by
  refine of_parse _ 0x8A g _ rfl (by decide) (fun h => ?_) (fun h => ?_)
  · exact (Bool.and_eq_true_iff.mp h).1
  · show parseM 0x8A g (FM.dec _) = _
    rw [FM.dec_enc]
    simp [parseM, FM.mem]
theorem amoand (g : Guard) (ty : Ty) (ord : Ord) (sc : Scope) (t : SR) (m : MemOp) : Statement (.amoand g ty ord sc t m) := by
  refine of_parse _ 0x8B g _ rfl (by decide) (fun h => ?_) (fun h => ?_)
  · exact (Bool.and_eq_true_iff.mp h).1
  · show parseM 0x8B g (FM.dec _) = _
    rw [FM.dec_enc]
    simp [parseM, FM.mem]
theorem amoor (g : Guard) (ty : Ty) (ord : Ord) (sc : Scope) (t : SR) (m : MemOp) : Statement (.amoor g ty ord sc t m) := by
  refine of_parse _ 0x8C g _ rfl (by decide) (fun h => ?_) (fun h => ?_)
  · exact (Bool.and_eq_true_iff.mp h).1
  · show parseM 0x8C g (FM.dec _) = _
    rw [FM.dec_enc]
    simp [parseM, FM.mem]
theorem amoxor (g : Guard) (ty : Ty) (ord : Ord) (sc : Scope) (t : SR) (m : MemOp) : Statement (.amoxor g ty ord sc t m) := by
  refine of_parse _ 0x8D g _ rfl (by decide) (fun h => ?_) (fun h => ?_)
  · exact (Bool.and_eq_true_iff.mp h).1
  · show parseM 0x8D g (FM.dec _) = _
    rw [FM.dec_enc]
    simp [parseM, FM.mem]
theorem amomin (g : Guard) (ty : Ty) (ord : Ord) (sc : Scope) (t : SR) (m : MemOp) : Statement (.amomin g ty ord sc t m) := by
  refine of_parse _ 0x8E g _ rfl (by decide) (fun h => ?_) (fun h => ?_)
  · exact (Bool.and_eq_true_iff.mp h).1
  · show parseM 0x8E g (FM.dec _) = _
    rw [FM.dec_enc]
    simp [parseM, FM.mem]
theorem amomax (g : Guard) (ty : Ty) (ord : Ord) (sc : Scope) (t : SR) (m : MemOp) : Statement (.amomax g ty ord sc t m) := by
  refine of_parse _ 0x8F g _ rfl (by decide) (fun h => ?_) (fun h => ?_)
  · exact (Bool.and_eq_true_iff.mp h).1
  · show parseM 0x8F g (FM.dec _) = _
    rw [FM.dec_enc]
    simp [parseM, FM.mem]
theorem amominu (g : Guard) (ty : Ty) (ord : Ord) (sc : Scope) (t : SR) (m : MemOp) : Statement (.amominu g ty ord sc t m) := by
  refine of_parse _ 0x90 g _ rfl (by decide) (fun h => ?_) (fun h => ?_)
  · exact (Bool.and_eq_true_iff.mp h).1
  · show parseM 0x90 g (FM.dec _) = _
    rw [FM.dec_enc]
    simp [parseM, FM.mem]
theorem amomaxu (g : Guard) (ty : Ty) (ord : Ord) (sc : Scope) (t : SR) (m : MemOp) : Statement (.amomaxu g ty ord sc t m) := by
  refine of_parse _ 0x91 g _ rfl (by decide) (fun h => ?_) (fun h => ?_)
  · exact (Bool.and_eq_true_iff.mp h).1
  · show parseM 0x91 g (FM.dec _) = _
    rw [FM.dec_enc]
    simp [parseM, FM.mem]
theorem amoswap (g : Guard) (ty : Ty) (ord : Ord) (sc : Scope) (t : SR) (m : MemOp) : Statement (.amoswap g ty ord sc t m) := by
  refine of_parse _ 0x92 g _ rfl (by decide) (fun h => ?_) (fun h => ?_)
  · exact (Bool.and_eq_true_iff.mp h).1
  · show parseM 0x92 g (FM.dec _) = _
    rw [FM.dec_enc]
    simp [parseM, FM.mem]
theorem amofadd (g : Guard) (ord : Ord) (sc : Scope) (t : SR) (m : MemOp) : Statement (.amofadd g ord sc t m) := by
  refine of_parse _ 0x93 g _ rfl (by decide) (fun h => ?_) (fun h => ?_)
  · exact (Bool.and_eq_true_iff.mp h).1
  · show parseM 0x93 g (FM.dec _) = _
    rw [FM.dec_enc]
    simp [parseM, FM.mem]
theorem xadd32 (g : Guard) (ty : Ty) (ord : Ord) (sc : Scope) (t : SR) (m : MemOp) : Statement (.xadd32 g ty ord sc t m) := by
  refine of_parse _ 0x94 g _ rfl (by decide) (fun h => ?_) (fun h => ?_)
  · exact (Bool.and_eq_true_iff.mp h).1
  · show parseM 0x94 g (FM.dec _) = _
    rw [FM.dec_enc]
    simp [parseM, FM.mem]
theorem xadd64 (g : Guard) (ty : Ty) (ord : Ord) (sc : Scope) (t : SR) (m : MemOp) : Statement (.xadd64 g ty ord sc t m) := by
  refine of_parse _ 0x95 g _ rfl (by decide) (fun h => ?_) (fun h => ?_)
  · exact (Bool.and_eq_true_iff.mp h).1
  · show parseM 0x95 g (FM.dec _) = _
    rw [FM.dec_enc]
    simp [parseM, FM.mem]
theorem xrd32 (g : Guard) (ty : Ty) (rm : Rc) (ord : Ord) (sc : Scope) (t : SR) (m : MemOp) : Statement (.xrd32 g ty rm ord sc t m) := by
  refine of_parse _ 0x96 g _ rfl (by decide) (fun h => ?_) (fun h => ?_)
  · exact (Bool.and_eq_true_iff.mp h).1
  · show parseM 0x96 g (FM.dec _) = _
    rw [FM.dec_enc]
    simp [parseM, FM.mem]
theorem xrd64 (g : Guard) (ty : Ty) (rm : Rc) (ord : Ord) (sc : Scope) (t : SR) (m : MemOp) : Statement (.xrd64 g ty rm ord sc t m) := by
  refine of_parse _ 0x97 g _ rfl (by decide) (fun h => ?_) (fun h => ?_)
  · exact (Bool.and_eq_true_iff.mp h).1
  · show parseM 0x97 g (FM.dec _) = _
    rw [FM.dec_enc]
    simp [parseM, FM.mem]
theorem famoadd (g : Guard) (ty : Ty) (ord : Ord) (sc : Scope) (t : SR) (m : MemOp) : Statement (.famoadd g ty ord sc t m) := by
  refine of_parse _ 0x98 g _ rfl (by decide) (fun h => ?_) (fun h => ?_)
  · exact (Bool.and_eq_true_iff.mp h).1
  · show parseM 0x98 g (FM.dec _) = _
    rw [FM.dec_enc]
    simp [parseM, FM.mem]
theorem famoand (g : Guard) (ty : Ty) (ord : Ord) (sc : Scope) (t : SR) (m : MemOp) : Statement (.famoand g ty ord sc t m) := by
  refine of_parse _ 0x99 g _ rfl (by decide) (fun h => ?_) (fun h => ?_)
  · exact (Bool.and_eq_true_iff.mp h).1
  · show parseM 0x99 g (FM.dec _) = _
    rw [FM.dec_enc]
    simp [parseM, FM.mem]
theorem famoor (g : Guard) (ty : Ty) (ord : Ord) (sc : Scope) (t : SR) (m : MemOp) : Statement (.famoor g ty ord sc t m) := by
  refine of_parse _ 0x9A g _ rfl (by decide) (fun h => ?_) (fun h => ?_)
  · exact (Bool.and_eq_true_iff.mp h).1
  · show parseM 0x9A g (FM.dec _) = _
    rw [FM.dec_enc]
    simp [parseM, FM.mem]
theorem famoxor (g : Guard) (ty : Ty) (ord : Ord) (sc : Scope) (t : SR) (m : MemOp) : Statement (.famoxor g ty ord sc t m) := by
  refine of_parse _ 0x9B g _ rfl (by decide) (fun h => ?_) (fun h => ?_)
  · exact (Bool.and_eq_true_iff.mp h).1
  · show parseM 0x9B g (FM.dec _) = _
    rw [FM.dec_enc]
    simp [parseM, FM.mem]
theorem famomin (g : Guard) (ty : Ty) (ord : Ord) (sc : Scope) (t : SR) (m : MemOp) : Statement (.famomin g ty ord sc t m) := by
  refine of_parse _ 0x9C g _ rfl (by decide) (fun h => ?_) (fun h => ?_)
  · exact (Bool.and_eq_true_iff.mp h).1
  · show parseM 0x9C g (FM.dec _) = _
    rw [FM.dec_enc]
    simp [parseM, FM.mem]
theorem famomax (g : Guard) (ty : Ty) (ord : Ord) (sc : Scope) (t : SR) (m : MemOp) : Statement (.famomax g ty ord sc t m) := by
  refine of_parse _ 0x9D g _ rfl (by decide) (fun h => ?_) (fun h => ?_)
  · exact (Bool.and_eq_true_iff.mp h).1
  · show parseM 0x9D g (FM.dec _) = _
    rw [FM.dec_enc]
    simp [parseM, FM.mem]
theorem famoswap (g : Guard) (ty : Ty) (ord : Ord) (sc : Scope) (t : SR) (m : MemOp) : Statement (.famoswap g ty ord sc t m) := by
  refine of_parse _ 0x9E g _ rfl (by decide) (fun h => ?_) (fun h => ?_)
  · exact (Bool.and_eq_true_iff.mp h).1
  · show parseM 0x9E g (FM.dec _) = _
    rw [FM.dec_enc]
    simp [parseM, FM.mem]
theorem fcas (g : Guard) (ty : Ty) (ord : Ord) (sc : Scope) (t : SR) (m : MemOp) : Statement (.fcas g ty ord sc t m) := by
  refine of_parse _ 0x9F g _ rfl (by decide) (fun h => ?_) (fun h => ?_)
  · exact (Bool.and_eq_true_iff.mp h).1
  · show parseM 0x9F g (FM.dec _) = _
    rw [FM.dec_enc]
    simp [parseM, FM.mem]
theorem vadd (g : Guard) (ty : Ty) (rm : Rc) (sat : Bool) (d a : VR) (b : VB) : Statement (.vadd g ty rm sat d a b) := by
  refine of_parse _ 0xA0 g _ rfl (by decide) (fun h => ?_) (fun h => ?_)
  · exact (Bool.and_eq_true_iff.mp h).1
  · show parseV 0xA0 g (FV.dec _) = _
    rw [FV.dec_enc]
    simp [parseV]
    refine ⟨?_, FV.vb_of _ b (bit6 sat) rfl rfl (by cases sat <;> decide)⟩
    cases b <;> cases sat <;> simp [VB.flag, bit6]
theorem vsub (g : Guard) (ty : Ty) (rm : Rc) (sat : Bool) (d a : VR) (b : VB) : Statement (.vsub g ty rm sat d a b) := by
  refine of_parse _ 0xA1 g _ rfl (by decide) (fun h => ?_) (fun h => ?_)
  · exact (Bool.and_eq_true_iff.mp h).1
  · show parseV 0xA1 g (FV.dec _) = _
    rw [FV.dec_enc]
    simp [parseV]
    refine ⟨?_, FV.vb_of _ b (bit6 sat) rfl rfl (by cases sat <;> decide)⟩
    cases b <;> cases sat <;> simp [VB.flag, bit6]
theorem vmul (g : Guard) (ty : Ty) (rm : Rc) (d a : VR) (b : VB) : Statement (.vmul g ty rm d a b) := by
  refine of_parse _ 0xA2 g _ rfl (by decide) (fun h => ?_) (fun h => ?_)
  · exact (Bool.and_eq_true_iff.mp h).1
  · show parseV 0xA2 g (FV.dec _) = _
    rw [FV.dec_enc]
    simp [parseV]
    exact FV.vb_of' _ b rfl rfl
theorem vfma (g : Guard) (ty : Ty) (rm : Rc) (neg : BitVec 2) (d a b c : VR) : Statement (.vfma g ty rm neg d a b c) := by
  refine of_parse _ 0xA3 g _ rfl (by decide) (fun h => ?_) (fun h => ?_)
  · exact (Bool.and_eq_true_iff.mp h).1
  · show parseV 0xA3 g (FV.dec _) = _
    rw [FV.dec_enc]
    simp [parseV]
theorem vmin (g : Guard) (ty : Ty) (d a : VR) (b : VB) : Statement (.vmin g ty d a b) := by
  refine of_parse _ 0xA4 g _ rfl (by decide) (fun h => ?_) (fun h => ?_)
  · exact (Bool.and_eq_true_iff.mp h).1
  · show parseV 0xA4 g (FV.dec _) = _
    rw [FV.dec_enc]
    simp [parseV]
    exact FV.vb_of' _ b rfl rfl
theorem vmax (g : Guard) (ty : Ty) (d a : VR) (b : VB) : Statement (.vmax g ty d a b) := by
  refine of_parse _ 0xA5 g _ rfl (by decide) (fun h => ?_) (fun h => ?_)
  · exact (Bool.and_eq_true_iff.mp h).1
  · show parseV 0xA5 g (FV.dec _) = _
    rw [FV.dec_enc]
    simp [parseV]
    exact FV.vb_of' _ b rfl rfl
theorem vabs (g : Guard) (ty : Ty) (d a : VR) : Statement (.vabs g ty d a) := by
  refine of_parse _ 0xA6 g _ rfl (by decide) (fun h => ?_) (fun h => ?_)
  · exact (Bool.and_eq_true_iff.mp h).1
  · show parseV 0xA6 g (FV.dec _) = _
    rw [FV.dec_enc]
    simp [parseV]
theorem vneg (g : Guard) (ty : Ty) (d a : VR) : Statement (.vneg g ty d a) := by
  refine of_parse _ 0xA7 g _ rfl (by decide) (fun h => ?_) (fun h => ?_)
  · exact (Bool.and_eq_true_iff.mp h).1
  · show parseV 0xA7 g (FV.dec _) = _
    rw [FV.dec_enc]
    simp [parseV]
theorem vand (g : Guard) (ty : Ty) (d a : VR) (b : VB) : Statement (.vand g ty d a b) := by
  refine of_parse _ 0xA8 g _ rfl (by decide) (fun h => ?_) (fun h => ?_)
  · exact (Bool.and_eq_true_iff.mp h).1
  · show parseV 0xA8 g (FV.dec _) = _
    rw [FV.dec_enc]
    simp [parseV]
    exact FV.vb_of' _ b rfl rfl
theorem vor (g : Guard) (ty : Ty) (d a : VR) (b : VB) : Statement (.vor g ty d a b) := by
  refine of_parse _ 0xA9 g _ rfl (by decide) (fun h => ?_) (fun h => ?_)
  · exact (Bool.and_eq_true_iff.mp h).1
  · show parseV 0xA9 g (FV.dec _) = _
    rw [FV.dec_enc]
    simp [parseV]
    exact FV.vb_of' _ b rfl rfl
theorem vxor (g : Guard) (ty : Ty) (d a : VR) (b : VB) : Statement (.vxor g ty d a b) := by
  refine of_parse _ 0xAA g _ rfl (by decide) (fun h => ?_) (fun h => ?_)
  · exact (Bool.and_eq_true_iff.mp h).1
  · show parseV 0xAA g (FV.dec _) = _
    rw [FV.dec_enc]
    simp [parseV]
    exact FV.vb_of' _ b rfl rfl
theorem vshl (g : Guard) (ty : Ty) (d a : VR) (b : VB) : Statement (.vshl g ty d a b) := by
  refine of_parse _ 0xAB g _ rfl (by decide) (fun h => ?_) (fun h => ?_)
  · exact (Bool.and_eq_true_iff.mp h).1
  · show parseV 0xAB g (FV.dec _) = _
    rw [FV.dec_enc]
    simp [parseV]
    exact FV.vb_of' _ b rfl rfl
theorem vshr (g : Guard) (ty : Ty) (d a : VR) (b : VB) : Statement (.vshr g ty d a b) := by
  refine of_parse _ 0xAC g _ rfl (by decide) (fun h => ?_) (fun h => ?_)
  · exact (Bool.and_eq_true_iff.mp h).1
  · show parseV 0xAC g (FV.dec _) = _
    rw [FV.dec_enc]
    simp [parseV]
    exact FV.vb_of' _ b rfl rfl
theorem vcmp (g : Guard) (cc : Cond) (ty : Ty) (d : PR) (a : VR) (b : VB) : Statement (.vcmp g cc ty d a b) := by
  refine of_parse _ 0xAD g _ rfl (by decide) (fun h => ?_) (fun h => ?_)
  · exact (Bool.and_eq_true_iff.mp h).1
  · show parseV 0xAD g (FV.dec _) = _
    rw [FV.dec_enc]
    have e1 : (b.flag ||| cc.code.zeroExtend 6).truncate 5 = cc.code := by cases b <;> cases cc <;> simp only [VB.flag] <;> decide
    have e2 := FV.vb_of ⟨d, a.zeroExtend 7, b.num, 0, b.flag ||| cc.code.zeroExtend 6, ty.code, 0, 0, 0⟩ b (cc.code.zeroExtend 6) rfl rfl (by cases cc <;> decide)
    simp only [parseV, e1, Cond.ofCode_code, Ty.ofCode_code, Option.bind_some, Option.map_some, e2]
    simp
theorem vsel (g : Guard) (ty : Ty) (d : VR) (c : PR) (a b : VR) : Statement (.vsel g ty d c a b) := by
  refine of_parse _ 0xAE g _ rfl (by decide) (fun h => ?_) (fun h => ?_)
  · exact (Bool.and_eq_true_iff.mp h).1
  · show parseV 0xAE g (FV.dec _) = _
    rw [FV.dec_enc]
    simp [parseV]
theorem vcvt (g : Guard) (ty u : Ty) (rm : Rc) (d a : VR) : Statement (.vcvt g ty u rm d a) := by
  refine of_parse _ 0xAF g _ rfl (by decide) (fun h => ?_) (fun h => ?_)
  · exact (Bool.and_eq_true_iff.mp h).1
  · show parseV 0xAF g (FV.dec _) = _
    rw [FV.dec_enc]
    simp [parseV]
theorem vdup (g : Guard) (ty : Ty) (d : VR) (a : SR) : Statement (.vdup g ty d a) := by
  refine of_parse _ 0xB0 g _ rfl (by decide) (fun h => ?_) (fun h => ?_)
  · exact (Bool.and_eq_true_iff.mp h).1
  · show parseV 0xB0 g (FV.dec _) = _
    rw [FV.dec_enc]
    cases ty <;> simp [parseV]
theorem vins (g : Guard) (ty : Ty) (d : VR) (a b : SR) : Statement (.vins g ty d a b) := by
  refine of_parse _ 0xB0 g _ rfl (by decide) (fun h => ?_) (fun h => ?_)
  · exact (Bool.and_eq_true_iff.mp h).1
  · show parseV 0xB0 g (FV.dec _) = _
    rw [FV.dec_enc]
    cases ty <;> simp [parseV]
theorem vext (g : Guard) (ty : Ty) (d : SR) (a : VR) (b : SR) : Statement (.vext g ty d a b) := by
  refine of_parse _ 0xB0 g _ rfl (by decide) (fun h => ?_) (fun h => ?_)
  · exact (Bool.and_eq_true_iff.mp h).1
  · show parseV 0xB0 g (FV.dec _) = _
    rw [FV.dec_enc]
    cases ty <;> simp [parseV]
theorem vexp2 (g : Guard) (ty : Ty) (d a : VR) : Statement (.vexp2 g ty d a) := by
  refine of_parse _ 0xB1 g _ rfl (by decide) (fun h => ?_) (fun h => ?_)
  · exact (Bool.and_eq_true_iff.mp h).1
  · show parseV 0xB1 g (FV.dec _) = _
    rw [FV.dec_enc]
    simp [parseV]
theorem vlog2 (g : Guard) (ty : Ty) (d a : VR) : Statement (.vlog2 g ty d a) := by
  refine of_parse _ 0xB2 g _ rfl (by decide) (fun h => ?_) (fun h => ?_)
  · exact (Bool.and_eq_true_iff.mp h).1
  · show parseV 0xB2 g (FV.dec _) = _
    rw [FV.dec_enc]
    simp [parseV]
theorem vrcp (g : Guard) (ty : Ty) (d a : VR) : Statement (.vrcp g ty d a) := by
  refine of_parse _ 0xB3 g _ rfl (by decide) (fun h => ?_) (fun h => ?_)
  · exact (Bool.and_eq_true_iff.mp h).1
  · show parseV 0xB3 g (FV.dec _) = _
    rw [FV.dec_enc]
    simp [parseV]
theorem vrsqrt (g : Guard) (ty : Ty) (d a : VR) : Statement (.vrsqrt g ty d a) := by
  refine of_parse _ 0xB4 g _ rfl (by decide) (fun h => ?_) (fun h => ?_)
  · exact (Bool.and_eq_true_iff.mp h).1
  · show parseV 0xB4 g (FV.dec _) = _
    rw [FV.dec_enc]
    simp [parseV]
theorem vrotr (g : Guard) (d a : VR) (b : SR) : Statement (.vrotr g d a b) := by
  refine of_parse _ 0xB5 g _ rfl (by decide) (fun h => ?_) (fun h => ?_)
  · exact h
  · show parseV 0xB5 g (FV.dec _) = _
    rw [FV.dec_enc]
    simp [parseV]
theorem vrotc (g : Guard) (d a : VR) (b : SR) : Statement (.vrotc g d a b) := by
  refine of_parse _ 0xB6 g _ rfl (by decide) (fun h => ?_) (fun h => ?_)
  · exact h
  · show parseV 0xB6 g (FV.dec _) = _
    rw [FV.dec_enc]
    simp [parseV]
theorem vbcr (g : Guard) (d a : VR) (b : SR) : Statement (.vbcr g d a b) := by
  refine of_parse _ 0xB7 g _ rfl (by decide) (fun h => ?_) (fun h => ?_)
  · exact h
  · show parseV 0xB7 g (FV.dec _) = _
    rw [FV.dec_enc]
    simp [parseV]
theorem vbcc (g : Guard) (d a : VR) (b : SR) : Statement (.vbcc g d a b) := by
  refine of_parse _ 0xB8 g _ rfl (by decide) (fun h => ?_) (fun h => ?_)
  · exact h
  · show parseV 0xB8 g (FV.dec _) = _
    rw [FV.dec_enc]
    simp [parseV]
theorem vredr (g : Guard) (op : Red) (ty : Ty) (rm : Rc) (d a : VR) : Statement (.vredr g op ty rm d a) := by
  refine of_parse _ 0xB9 g _ rfl (by decide) (fun h => ?_) (fun h => ?_)
  · exact (Bool.and_eq_true_iff.mp h).1
  · show parseV 0xB9 g (FV.dec _) = _
    rw [FV.dec_enc]
    simp [parseV]
theorem vredc (g : Guard) (op : Red) (ty : Ty) (rm : Rc) (d a : VR) : Statement (.vredc g op ty rm d a) := by
  refine of_parse _ 0xBA g _ rfl (by decide) (fun h => ?_) (fun h => ?_)
  · exact (Bool.and_eq_true_iff.mp h).1
  · show parseV 0xBA g (FV.dec _) = _
    rw [FV.dec_enc]
    simp [parseV]
theorem vtrnr (g : Guard) (d a : VR) : Statement (.vtrnr g d a) := by
  refine of_parse _ 0xBB g _ rfl (by decide) (fun h => ?_) (fun h => ?_)
  · exact h
  · show parseV 0xBB g (FV.dec _) = _
    rw [FV.dec_enc]
    simp [parseV]
theorem vtrnc (g : Guard) (d a : VR) : Statement (.vtrnc g d a) := by
  refine of_parse _ 0xBC g _ rfl (by decide) (fun h => ?_) (fun h => ?_)
  · exact h
  · show parseV 0xBC g (FV.dec _) = _
    rw [FV.dec_enc]
    simp [parseV]
theorem vcx (g : Guard) (dn : Bool) (ty : Ty) (d a : VR) (b : SR) : Statement (.vcx g dn ty d a b) := by
  refine of_parse _ 0xBD g _ rfl (by decide) (fun h => ?_) (fun h => ?_)
  · exact (Bool.and_eq_true_iff.mp h).1
  · show parseV 0xBD g (FV.dec _) = _
    rw [FV.dec_enc]
    simp [parseV]
    cases dn <;> simp [bit6]
theorem vmac (g : Guard) (ty u : Ty) (rm : Rc) (z : Bool) (d : AR) (a b : VR) : Statement (.vmac g ty u rm z d a b) := by
  refine of_parse _ 0xBE g _ rfl (by decide) (fun h => ?_) (fun h => ?_)
  · exact (Bool.and_eq_true_iff.mp h).1
  · show parseV 0xBE g (FV.dec _) = _
    rw [FV.dec_enc]
    simp [parseV]
    cases z <;> simp [bit6]
theorem vnarr (g : Guard) (ty u : Ty) (rm : Rc) (d : VR) (a : AR) : Statement (.vnarr g ty u rm d a) := by
  refine of_parse _ 0xBF g _ rfl (by decide) (fun h => ?_) (fun h => ?_)
  · exact (Bool.and_eq_true_iff.mp h).1
  · show parseV 0xBF g (FV.dec _) = _
    rw [FV.dec_enc]
    simp [parseV]
theorem qpush (g : Guard) (q : BitVec 4) (sr : SR) (code : BitVec 8) : Statement (.qpush g q sr code) := by
  refine of_parse _ 0xC0 g _ rfl (by decide) (fun h => ?_) (fun h => ?_)
  · exact (Bool.and_eq_true_iff.mp h).1
  · show parseE0 0xC0 g (FE.dec _) = _
    rw [FE.dec_enc]
    simp [parseE0]
theorem qpop (g : Guard) (d : SR) (q : BitVec 4) : Statement (.qpop g d q) := by
  refine of_parse _ 0xC1 g _ rfl (by decide) (fun h => ?_) (fun h => ?_)
  · exact (Bool.and_eq_true_iff.mp h).1
  · show parseE0 0xC1 g (FE.dec _) = _
    rw [FE.dec_enc]
    simp [parseE0]
theorem qpeek (g : Guard) (d : SR) (q : BitVec 4) : Statement (.qpeek g d q) := by
  refine of_parse _ 0xC2 g _ rfl (by decide) (fun h => ?_) (fun h => ?_)
  · exact (Bool.and_eq_true_iff.mp h).1
  · show parseE0 0xC2 g (FE.dec _) = _
    rw [FE.dec_enc]
    simp [parseE0]
theorem qstat (g : Guard) (d : SR) (q : BitVec 4) : Statement (.qstat g d q) := by
  refine of_parse _ 0xC3 g _ rfl (by decide) (fun h => ?_) (fun h => ?_)
  · exact (Bool.and_eq_true_iff.mp h).1
  · show parseE0 0xC3 g (FE.dec _) = _
    rw [FE.dec_enc]
    simp [parseE0]
theorem mclaim (g : Guard) (d : SR) (pd : PR) (n : BitVec 8) : Statement (.mclaim g d pd n) := by
  refine of_parse _ 0xC4 g _ rfl (by decide) (fun h => ?_) (fun h => ?_)
  · exact (Bool.and_eq_true_iff.mp h).1
  · show parseE0 0xC4 g (FE.dec _) = _
    rw [FE.dec_enc]
    have e1 := zext_app_hi (k := 32) pd n (by decide)
    have e2 := zext_app_lo (k := 32) pd n (by decide)
    simp only [parseE0, e1, e2]
theorem mtset (g : Guard) (t : TR) (d sr : SR) : Statement (.mtset g t d sr) := by
  refine of_parse _ 0xC5 g _ rfl (by decide) (fun h => ?_) (fun h => ?_)
  · exact h
  · show parseE0 0xC5 g (FE.dec _) = _
    rw [FE.dec_enc]
    simp [parseE0]
theorem mtget (g : Guard) (d : SR) (t : TR) (hf : BitVec 1) : Statement (.mtget g d t hf) := by
  refine of_parse _ 0xC6 g _ rfl (by decide) (fun h => ?_) (fun h => ?_)
  · exact h
  · show parseE0 0xC6 g (FE.dec _) = _
    rw [FE.dec_enc]
    have e1 := zext_app_hi (k := 32) hf t (by decide)
    have e2 := zext_app_lo (k := 32) hf t (by decide)
    simp only [parseE0, e1, e2]
theorem qclr (g : Guard) (q : BitVec 4) : Statement (.qclr g q) := by
  refine of_parse _ 0xC7 g _ rfl (by decide) (fun h => ?_) (fun h => ?_)
  · exact (Bool.and_eq_true_iff.mp h).1
  · show parseE0 0xC7 g (FE.dec _) = _
    rw [FE.dec_enc]
    simp [parseE0]
theorem mld (g : Guard) (sr : SR) (imm : BitVec 32) : Statement (.mld g sr imm) := by
  refine of_parse _ 0xD0 g _ rfl (by decide) (fun h => ?_) (fun h => ?_)
  · exact (Bool.and_eq_true_iff.mp h).1
  · show parseE0 0xD0 g (FE.dec _) = _
    rw [FE.dec_enc]
    simp [parseE0]
theorem mldt (g : Guard) (sr : SR) (imm : BitVec 32) : Statement (.mldt g sr imm) := by
  refine of_parse _ 0xD1 g _ rfl (by decide) (fun h => ?_) (fun h => ?_)
  · exact (Bool.and_eq_true_iff.mp h).1
  · show parseE0 0xD1 g (FE.dec _) = _
    rw [FE.dec_enc]
    simp [parseE0]
theorem mmul (g : Guard) (sr : SR) (imm : BitVec 32) : Statement (.mmul g sr imm) := by
  refine of_parse _ 0xD2 g _ rfl (by decide) (fun h => ?_) (fun h => ?_)
  · exact (Bool.and_eq_true_iff.mp h).1
  · show parseE0 0xD2 g (FE.dec _) = _
    rw [FE.dec_enc]
    simp [parseE0]
theorem mmulZ (g : Guard) (sr : SR) (imm : BitVec 32) : Statement (.mmulZ g sr imm) := by
  refine of_parse _ 0xD3 g _ rfl (by decide) (fun h => ?_) (fun h => ?_)
  · exact (Bool.and_eq_true_iff.mp h).1
  · show parseE0 0xD3 g (FE.dec _) = _
    rw [FE.dec_enc]
    simp [parseE0]
theorem mmsp (g : Guard) (sr : SR) (imm : BitVec 32) : Statement (.mmsp g sr imm) := by
  refine of_parse _ 0xD4 g _ rfl (by decide) (fun h => ?_) (fun h => ?_)
  · exact (Bool.and_eq_true_iff.mp h).1
  · show parseE0 0xD4 g (FE.dec _) = _
    rw [FE.dec_enc]
    simp [parseE0]
theorem mmspZ (g : Guard) (sr : SR) (imm : BitVec 32) : Statement (.mmspZ g sr imm) := by
  refine of_parse _ 0xD5 g _ rfl (by decide) (fun h => ?_) (fun h => ?_)
  · exact (Bool.and_eq_true_iff.mp h).1
  · show parseE0 0xD5 g (FE.dec _) = _
    rw [FE.dec_enc]
    simp [parseE0]
theorem mrel (g : Guard) (sr : SR) (imm : BitVec 32) : Statement (.mrel g sr imm) := by
  refine of_parse _ 0xD6 g _ rfl (by decide) (fun h => ?_) (fun h => ?_)
  · exact (Bool.and_eq_true_iff.mp h).1
  · show parseE0 0xD6 g (FE.dec _) = _
    rw [FE.dec_enc]
    simp [parseE0]
theorem mzero (g : Guard) (sr : SR) (imm : BitVec 32) : Statement (.mzero g sr imm) := by
  refine of_parse _ 0xD7 g _ rfl (by decide) (fun h => ?_) (fun h => ?_)
  · exact (Bool.and_eq_true_iff.mp h).1
  · show parseE0 0xD7 g (FE.dec _) = _
    rw [FE.dec_enc]
    simp [parseE0]
theorem mst (g : Guard) (sr : SR) (imm : BitVec 32) : Statement (.mst g sr imm) := by
  refine of_parse _ 0xD8 g _ rfl (by decide) (fun h => ?_) (fun h => ?_)
  · exact (Bool.and_eq_true_iff.mp h).1
  · show parseE0 0xD8 g (FE.dec _) = _
    rw [FE.dec_enc]
    simp [parseE0]
theorem mfill (g : Guard) (sr : SR) (imm : BitVec 32) : Statement (.mfill g sr imm) := by
  refine of_parse _ 0xD9 g _ rfl (by decide) (fun h => ?_) (fun h => ?_)
  · exact (Bool.and_eq_true_iff.mp h).1
  · show parseE0 0xD9 g (FE.dec _) = _
    rw [FE.dec_enc]
    simp [parseE0]
theorem gsprobe (g : Guard) (sr : SR) (imm : BitVec 32) : Statement (.gsprobe g sr imm) := by
  refine of_parse _ 0xE0 g _ rfl (by decide) (fun h => ?_) (fun h => ?_)
  · exact h
  · show parseE0 0xE0 g (FE.dec _) = _
    rw [FE.dec_enc]
    simp [parseE0]
theorem gsinsert (g : Guard) (sr : SR) (imm : BitVec 32) : Statement (.gsinsert g sr imm) := by
  refine of_parse _ 0xE1 g _ rfl (by decide) (fun h => ?_) (fun h => ?_)
  · exact h
  · show parseE0 0xE1 g (FE.dec _) = _
    rw [FE.dec_enc]
    simp [parseE0]
theorem gsclear (g : Guard) (sr : SR) (imm : BitVec 32) : Statement (.gsclear g sr imm) := by
  refine of_parse _ 0xE2 g _ rfl (by decide) (fun h => ?_) (fun h => ?_)
  · exact h
  · show parseE0 0xE2 g (FE.dec _) = _
    rw [FE.dec_enc]
    simp [parseE0]
theorem gsgather (g : Guard) (sr : SR) (imm : BitVec 32) : Statement (.gsgather g sr imm) := by
  refine of_parse _ 0xE3 g _ rfl (by decide) (fun h => ?_) (fun h => ?_)
  · exact h
  · show parseE0 0xE3 g (FE.dec _) = _
    rw [FE.dec_enc]
    simp [parseE0]
theorem gsscadd (g : Guard) (sr : SR) (imm : BitVec 32) : Statement (.gsscadd g sr imm) := by
  refine of_parse _ 0xE4 g _ rfl (by decide) (fun h => ?_) (fun h => ?_)
  · exact h
  · show parseE0 0xE4 g (FE.dec _) = _
    rw [FE.dec_enc]
    simp [parseE0]
theorem gsrules (g : Guard) (sr : SR) (imm : BitVec 32) : Statement (.gsrules g sr imm) := by
  refine of_parse _ 0xE5 g _ rfl (by decide) (fun h => ?_) (fun h => ?_)
  · exact h
  · show parseE0 0xE5 g (FE.dec _) = _
    rw [FE.dec_enc]
    simp [parseE0]
theorem gssegsum (g : Guard) (sr : SR) (imm : BitVec 32) : Statement (.gssegsum g sr imm) := by
  refine of_parse _ 0xE6 g _ rfl (by decide) (fun h => ?_) (fun h => ?_)
  · exact h
  · show parseE0 0xE6 g (FE.dec _) = _
    rw [FE.dec_enc]
    simp [parseE0]
theorem gscompact (g : Guard) (sr : SR) (imm : BitVec 32) : Statement (.gscompact g sr imm) := by
  refine of_parse _ 0xE7 g _ rfl (by decide) (fun h => ?_) (fun h => ?_)
  · exact h
  · show parseE0 0xE7 g (FE.dec _) = _
    rw [FE.dec_enc]
    simp [parseE0]
theorem sosort (g : Guard) (sr : SR) (imm : BitVec 32) : Statement (.sosort g sr imm) := by
  refine of_parse _ 0xE8 g _ rfl (by decide) (fun h => ?_) (fun h => ?_)
  · exact h
  · show parseE0 0xE8 g (FE.dec _) = _
    rw [FE.dec_enc]
    simp [parseE0]
theorem somerge (g : Guard) (sr : SR) (imm : BitVec 32) : Statement (.somerge g sr imm) := by
  refine of_parse _ 0xE9 g _ rfl (by decide) (fun h => ?_) (fun h => ?_)
  · exact h
  · show parseE0 0xE9 g (FE.dec _) = _
    rw [FE.dec_enc]
    simp [parseE0]
theorem sotopk (g : Guard) (sr : SR) (imm : BitVec 32) : Statement (.sotopk g sr imm) := by
  refine of_parse _ 0xEA g _ rfl (by decide) (fun h => ?_) (fun h => ?_)
  · exact h
  · show parseE0 0xEA g (FE.dec _) = _
    rw [FE.dec_enc]
    simp [parseE0]
theorem sothresh (g : Guard) (sr : SR) (imm : BitVec 32) : Statement (.sothresh g sr imm) := by
  refine of_parse _ 0xEB g _ rfl (by decide) (fun h => ?_) (fun h => ?_)
  · exact h
  · show parseE0 0xEB g (FE.dec _) = _
    rw [FE.dec_enc]
    simp [parseE0]
theorem sosums (g : Guard) (sr : SR) (imm : BitVec 32) : Statement (.sosums g sr imm) := by
  refine of_parse _ 0xEC g _ rfl (by decide) (fun h => ?_) (fun h => ?_)
  · exact h
  · show parseE0 0xEC g (FE.dec _) = _
    rw [FE.dec_enc]
    simp [parseE0]
theorem sogather (g : Guard) (sr : SR) (imm : BitVec 32) : Statement (.sogather g sr imm) := by
  refine of_parse _ 0xED g _ rfl (by decide) (fun h => ?_) (fun h => ?_)
  · exact h
  · show parseE0 0xED g (FE.dec _) = _
    rw [FE.dec_enc]
    simp [parseE0]
theorem cpcopy (g : Guard) (sr : SR) (imm : BitVec 32) : Statement (.cpcopy g sr imm) := by
  refine of_parse _ 0xF0 g _ rfl (by decide) (fun h => ?_) (fun h => ?_)
  · exact h
  · show parseE0 0xF0 g (FE.dec _) = _
    rw [FE.dec_enc]
    simp [parseE0]
theorem cpset (g : Guard) (sr : SR) (imm : BitVec 32) : Statement (.cpset g sr imm) := by
  refine of_parse _ 0xF1 g _ rfl (by decide) (fun h => ?_) (fun h => ?_)
  · exact h
  · show parseE0 0xF1 g (FE.dec _) = _
    rw [FE.dec_enc]
    simp [parseE0]
theorem cpfe (g : Guard) (sr : SR) (imm : BitVec 32) : Statement (.cpfe g sr imm) := by
  refine of_parse _ 0xF2 g _ rfl (by decide) (fun h => ?_) (fun h => ?_)
  · exact h
  · show parseE1 0xF2 g (FE.dec _) = _
    rw [FE.dec_enc]
    simp [parseE1]
theorem cpstride (g : Guard) (sr : SR) (imm : BitVec 32) : Statement (.cpstride g sr imm) := by
  refine of_parse _ 0xF3 g _ rfl (by decide) (fun h => ?_) (fun h => ?_)
  · exact h
  · show parseE1 0xF3 g (FE.dec _) = _
    rw [FE.dec_enc]
    simp [parseE1]
theorem cpprf (g : Guard) (sr : SR) (imm : BitVec 32) : Statement (.cpprf g sr imm) := by
  refine of_parse _ 0xF4 g _ rfl (by decide) (fun h => ?_) (fun h => ?_)
  · exact h
  · show parseE1 0xF4 g (FE.dec _) = _
    rw [FE.dec_enc]
    simp [parseE1]
theorem cpwb (g : Guard) (sr : SR) (imm : BitVec 32) : Statement (.cpwb g sr imm) := by
  refine of_parse _ 0xF5 g _ rfl (by decide) (fun h => ?_) (fun h => ?_)
  · exact h
  · show parseE1 0xF5 g (FE.dec _) = _
    rw [FE.dec_enc]
    simp [parseE1]
theorem cpsig (g : Guard) (sr : SR) (imm : BitVec 32) : Statement (.cpsig g sr imm) := by
  refine of_parse _ 0xF6 g _ rfl (by decide) (fun h => ?_) (fun h => ?_)
  · exact h
  · show parseE1 0xF6 g (FE.dec _) = _
    rw [FE.dec_enc]
    simp [parseE1]

theorem timeCompare (c k : Nat) : Statement (.timeCompare c k) := by intro _ w h; cases h
theorem feRetryAttempt (c k : Nat) : Statement (.feRetryAttempt c k) := by intro _ w h; cases h
theorem wakeNotice (n : Nat) : Statement (.wakeNotice n) := by intro _ w h; cases h
theorem forwardedAtomicFill (n : Nat) : Statement (.forwardedAtomicFill n) := by intro _ w h; cases h
theorem pushAcceptance (c k : Nat) : Statement (.pushAcceptance c k) := by intro _ w h; cases h
theorem popDelivery (c k : Nat) : Statement (.popDelivery c k) := by intro _ w h; cases h
theorem packetDeparture (c : Nat) : Statement (.packetDeparture c) := by intro _ w h; cases h
theorem handlerStart (c : Nat) : Statement (.handlerStart c) := by intro _ w h; cases h
theorem mldCommand (c : Nat) : Statement (.mldCommand c) := by intro _ w h; cases h
theorem mldtCommand (c : Nat) : Statement (.mldtCommand c) := by intro _ w h; cases h
theorem mmulCommand (c : Nat) : Statement (.mmulCommand c) := by intro _ w h; cases h
theorem mmulZCommand (c : Nat) : Statement (.mmulZCommand c) := by intro _ w h; cases h
theorem mmspCommand (c : Nat) : Statement (.mmspCommand c) := by intro _ w h; cases h
theorem mmspZCommand (c : Nat) : Statement (.mmspZCommand c) := by intro _ w h; cases h
theorem mrelCommand (c : Nat) : Statement (.mrelCommand c) := by intro _ w h; cases h
theorem mzeroCommand (c : Nat) : Statement (.mzeroCommand c) := by intro _ w h; cases h
theorem mstCommand (c : Nat) : Statement (.mstCommand c) := by intro _ w h; cases h
theorem mfillCommand (c : Nat) : Statement (.mfillCommand c) := by intro _ w h; cases h
theorem leaseGrant (die cluster : Nat) : Statement (.leaseGrant die cluster) := by intro _ w h; cases h
theorem gsprobeCommand (c : Nat) : Statement (.gsprobeCommand c) := by intro _ w h; cases h
theorem gsinsertCommand (c : Nat) : Statement (.gsinsertCommand c) := by intro _ w h; cases h
theorem gsclearCommand (c : Nat) : Statement (.gsclearCommand c) := by intro _ w h; cases h
theorem gsgatherCommand (c : Nat) : Statement (.gsgatherCommand c) := by intro _ w h; cases h
theorem gsscaddCommand (c : Nat) : Statement (.gsscaddCommand c) := by intro _ w h; cases h
theorem gsrulesCommand (c : Nat) : Statement (.gsrulesCommand c) := by intro _ w h; cases h
theorem gssegsumCommand (c : Nat) : Statement (.gssegsumCommand c) := by intro _ w h; cases h
theorem gscompactCommand (c : Nat) : Statement (.gscompactCommand c) := by intro _ w h; cases h
theorem sosortCommand (c : Nat) : Statement (.sosortCommand c) := by intro _ w h; cases h
theorem somergeCommand (c : Nat) : Statement (.somergeCommand c) := by intro _ w h; cases h
theorem sotopkCommand (c : Nat) : Statement (.sotopkCommand c) := by intro _ w h; cases h
theorem sothreshCommand (c : Nat) : Statement (.sothreshCommand c) := by intro _ w h; cases h
theorem sosumsCommand (c : Nat) : Statement (.sosumsCommand c) := by intro _ w h; cases h
theorem sogatherCommand (c : Nat) : Statement (.sogatherCommand c) := by intro _ w h; cases h
theorem cpcopyCommand (c : Nat) : Statement (.cpcopyCommand c) := by intro _ w h; cases h
theorem cpsetCommand (c : Nat) : Statement (.cpsetCommand c) := by intro _ w h; cases h
theorem cpfeCommand (c : Nat) : Statement (.cpfeCommand c) := by intro _ w h; cases h
theorem cpstrideCommand (c : Nat) : Statement (.cpstrideCommand c) := by intro _ w h; cases h
theorem cpprfCommand (c : Nat) : Statement (.cpprfCommand c) := by intro _ w h; cases h
theorem cpwbCommand (c : Nat) : Statement (.cpwbCommand c) := by intro _ w h; cases h
theorem cpsigCommand (c : Nat) : Statement (.cpsigCommand c) := by intro _ w h; cases h
theorem loaderTile (c sub : Nat) : Statement (.loaderTile c sub) := by intro _ w h; cases h
theorem storerTile (c sub : Nat) : Statement (.storerTile c sub) := by intro _ w h; cases h
theorem entryEmission (level : Nat) : Statement (.entryEmission level) := by intro _ w h; cases h
theorem strandStart (c k : Nat) : Statement (.strandStart c k) := by intro _ w h; cases h
theorem entryPromotion (task : Nat) : Statement (.entryPromotion task) := by intro _ w h; cases h
theorem periodStart (ctx : Nat) : Statement (.periodStart ctx) := by intro _ w h; cases h
theorem budgetExhaustion (ctx rcb : Nat) : Statement (.budgetExhaustion ctx rcb) := by intro _ w h; cases h
theorem dlshareWindow : Statement (.dlshareWindow) := by intro _ w h; cases h
theorem powerClassSelect : Statement (.powerClassSelect) := by intro _ w h; cases h
theorem takeBack (die slot : Nat) : Statement (.takeBack die slot) := by intro _ w h; cases h
theorem drainTimeout (c k : Nat) : Statement (.drainTimeout c k) := by intro _ w h; cases h
theorem nodeCompletion (task : Nat) : Statement (.nodeCompletion task) := by intro _ w h; cases h
theorem launchEnd (ctx : Nat) : Statement (.launchEnd ctx) := by intro _ w h; cases h
theorem logicalCoreSwitch (die slot : Nat) : Statement (.logicalCoreSwitch die slot) := by intro _ w h; cases h
theorem pageOut (buf page : Nat) : Statement (.pageOut buf page) := by intro _ w h; cases h
theorem pageIn (buf : Nat) (want : PageWant) : Statement (.pageIn buf want) := by intro _ w h; cases h
theorem doorbell (abut fn qid : Nat) (value : Word) : Statement (.doorbell abut fn qid value) := by intro _ w h; cases h
theorem packetNop (qid : Nat) : Statement (.packetNop qid) := by intro _ w h; cases h
theorem launchImage (qid : Nat) : Statement (.launchImage qid) := by intro _ w h; cases h
theorem freeze (qid : Nat) : Statement (.freeze qid) := by intro _ w h; cases h
theorem writeSignal (qid : Nat) : Statement (.writeSignal qid) := by intro _ w h; cases h
theorem wait (qid : Nat) : Statement (.wait qid) := by intro _ w h; cases h
theorem queueCreate (qid : Nat) : Statement (.queueCreate qid) := by intro _ w h; cases h
theorem queueDestroy (qid : Nat) : Statement (.queueDestroy qid) := by intro _ w h; cases h
theorem queueReset (qid : Nat) : Statement (.queueReset qid) := by intro _ w h; cases h
theorem queueQuery (qid : Nat) : Statement (.queueQuery qid) := by intro _ w h; cases h
theorem bufAlloc (qid : Nat) : Statement (.bufAlloc qid) := by intro _ w h; cases h
theorem bufFree (qid : Nat) : Statement (.bufFree qid) := by intro _ w h; cases h
theorem bufRevoke (qid : Nat) : Statement (.bufRevoke qid) := by intro _ w h; cases h
theorem setDlshare (qid : Nat) : Statement (.setDlshare qid) := by intro _ w h; cases h
theorem waitingStepResume (qid idx : Nat) : Statement (.waitingStepResume qid idx) := by intro _ w h; cases h
theorem waitTimeout (qid idx : Nat) : Statement (.waitTimeout qid idx) := by intro _ w h; cases h
theorem sliceExpiry (hwslot : Nat) : Statement (.sliceExpiry hwslot) := by intro _ w h; cases h
theorem frameBoundary : Statement (.frameBoundary) := by intro _ w h; cases h
theorem auditSend (link : Nat) : Statement (.auditSend link) := by intro _ w h; cases h
theorem creditAudit (link : Nat) : Statement (.creditAudit link) := by intro _ w h; cases h
theorem connectionSetup (entry : Nat) (w0 : Word) : Statement (.connectionSetup entry w0) := by intro _ w h; cases h
theorem connectionTeardown (entry : Nat) : Statement (.connectionTeardown entry) := by intro _ w h; cases h
theorem circuitActive (entry : Nat) : Statement (.circuitActive entry) := by intro _ w h; cases h
theorem circuitDown (entry : Nat) : Statement (.circuitDown entry) := by intro _ w h; cases h
theorem apertureRead (abut fn off size : Nat) : Statement (.apertureRead abut fn off size) := by intro _ w h; cases h
theorem apertureWrite (abut fn off : Nat) (data : List Byte) : Statement (.apertureWrite abut fn off data) := by intro _ w h; cases h
theorem adminQueueEnable (fn : Nat) (value : Word) : Statement (.adminQueueEnable fn value) := by intro _ w h; cases h
theorem adminQueueDisable (fn : Nat) : Statement (.adminQueueDisable fn) := by intro _ w h; cases h
theorem steeringEnable (abut entry : Nat) (w0 w1 w2 w3 : Word) : Statement (.steeringEnable abut entry w0 w1 w2 w3) := by intro _ w h; cases h
theorem steeringDisable (abut entry : Nat) : Statement (.steeringDisable abut entry) := by intro _ w h; cases h
theorem registerWrite (abut fn off : Nat) (value : Word) : Statement (.registerWrite abut fn off value) := by intro _ w h; cases h
theorem ingressFrame (abut port : Nat) (frame : List Byte) (age : Nat) : Statement (.ingressFrame abut port frame age) := by intro _ w h; cases h
theorem egressSlot (abut entry age : Nat) : Statement (.egressSlot abut entry age) := by intro _ w h; cases h
theorem egressRetry (abut entry age : Nat) : Statement (.egressRetry abut entry age) := by intro _ w h; cases h
theorem ptpFrame (abut port : Nat) (locked : Bool) (offset : BitVec 32) (act : PtpAct) :
    Statement (.ptpFrame abut port locked offset act) := by intro _ w h; cases h
theorem hardwareError (e : HwError) : Statement (.hardwareError e) := by intro _ w h; cases h
theorem coreRetirement (die pos : Nat) : Statement (.coreRetirement die pos) := by intro _ w h; cases h
theorem dieRetirement (die : Nat) : Statement (.dieRetirement die) := by intro _ w h; cases h
theorem patrolScrub : Statement (.patrolScrub) := by intro _ w h; cases h
theorem heartbeat (core : Nat) : Statement (.heartbeat core) := by intro _ w h; cases h
theorem attestationRequest : Statement (.attestationRequest) := by intro _ w h; cases h
theorem thermalThrottle (die temp : Nat) : Statement (.thermalThrottle die temp) := by intro _ w h; cases h
theorem thermalTrip (die temp : Nat) : Statement (.thermalTrip die temp) := by intro _ w h; cases h
theorem bringUp : Statement (.bringUp) := by intro _ w h; cases h
theorem coldReset : Statement (.coldReset) := by intro _ w h; cases h
theorem perstAbutment1 : Statement (.perstAbutment1) := by intro _ w h; cases h
theorem perstAbutment2 : Statement (.perstAbutment2) := by intro _ w h; cases h
theorem functionLevelReset (fn : Nat) : Statement (.functionLevelReset fn) := by intro _ w h; cases h
theorem illegalInstruction (step : Nat) (w : Word) : Statement (.illegalInstruction step w) := by intro _ w h; cases h
theorem instructionFetchFault (off : Word) : Statement (.instructionFetchFault off) := by intro _ w h; cases h
theorem dirtyByteWriteBack (c line : Nat) : Statement (.dirtyByteWriteBack c line) := by intro _ w h; cases h
theorem trailerDiscard (link vc n : Nat) : Statement (.trailerDiscard link vc n) := by intro _ w h; cases h
theorem receivedFrameDrop (abut port : Nat) (frame : List Byte) (badFcs : Bool) : Statement (.receivedFrameDrop abut port frame badFcs) := by intro _ w h; cases h
theorem thermalThrottleEnd (die temp : Nat) : Statement (.thermalThrottleEnd die temp) := by intro _ w h; cases h
theorem powerClassTakesEffect : Statement (.powerClassTakesEffect) := by intro _ w h; cases h

end Sys2Proof.Laws.RoundTrip
end

