-- ==== Sys2Proof/Safety.lean ====
section
/-! DEFINITION. What counts as a safe step, and the invariant that steps keep. -/

namespace Sys2Proof.Num

/-- The real number that a decoded value is; of a NaN and an infinity, 0 (R74). -/
def Val.real : Val → ℚ
  | .num neg m e => (if neg then -1 else 1) * m * (2 : ℚ) ^ e
  | _ => 0
/-- Neither NaN nor infinity. -/
def Val.Finite (v : Val) : Prop := v.isNan = false ∧ v.isInf = false
/-- The place of a value that is no NaN in the order of comparison: −∞ lowest, the two zeros equal, +∞ highest (R171). -/
def Val.place : Val → WithBot (WithTop ℚ)
  | .inf neg => if neg then ⊥ else ((⊤ : WithTop ℚ) : WithBot (WithTop ℚ))
  | v => ((v.real : WithTop ℚ) : WithBot (WithTop ℚ))

end Sys2Proof.Num

namespace Sys2Proof.Machine

/-- A step is safe when the machine goes on: it neither faults nor is refused. -/
def Out.safe : Out → Bool
  | .next _ => true
  | _ => false

/-- The canonical form of a memory: addresses strictly rising, no entry equal to the value an unlisted address reads. -/
def Memory.wf (m : List Host.Cell) : Bool := Tab.wf (0 : Byte) m

/-- Device memory and host memory are in their canonical form. -/
def State.canon (s : State) : Prop := Memory.wf s.mem = true ∧ Memory.wf s.hostMem = true

-- The terms in which the statements speak.

/-- The strand that issues. -/
def State.me (s : State) : Strand := s.strand s.cur
/-- The machine once the issuing strand's word has retired with registers `t`: the next offset is that of the end check (R179),
and nothing else changes. -/
def State.retired (s : State) (t : Strand) : State := s.setStrand s.cur { t with wait := .none }.advance
/-- The machine once the issuing strand has gone to an offset of its own (R176). -/
def State.gone (s : State) (t : Strand) (pc : Word) : State := s.setStrand s.cur { t with wait := .none, pc := pc }
/-- The issuing strand waits with its word, which has had no effect (R103). -/
def State.held (s : State) (w : Wait) : State := s.setStrand s.cur { s.me with wait := w }
/-- The guard of a word lets the issuing strand act (R125). -/
def State.acts (s : State) (g : Guard) : Prop := s.me.guard g = true
/-- The issuing strand is a task strand (R102). -/
def State.onTask (s : State) : Prop := isHandler s.cur = false
/-- A vector word of a task strand with some active element (R125). -/
def State.actsV (s : State) (g : Guard) : Prop := isHandler s.cur = false ∧ s.me.mask g ≠ 0
/-- The word is not part of a versioned task (R287). -/
def State.plainTask (s : State) : Prop := s.me.versioned = false
/-- No flag of `fl` is enabled (R81). -/
def State.quiet (s : State) (fl : Num.Flags) : Prop := fl &&& s.me.en = 0
/-- An aligned access at n bytes of the issuing core's local store, outside its poison and, for a write, its journal. -/
def State.inStore (s : State) (off n : Nat) : Prop :=
  off + n ≤ lsSize ∧ (s.lcore (lcOf s.cur)).lsPoisonIn off n = none ∧
    (s.queuePresent (lcOf s.cur) 1 && s.inJournal (lcOf s.cur) off n) = false
/-- A byte of device memory as a logical core reads it: its L1's, else its home's (R50, R55). -/
def State.coreByte (s : State) (c id off : Nat) : Byte :=
  match (s.lcore c).l1.get none (byteKey id off) with
  | some x => x.b
  | none => s.homeByte id off

-- Places of memory operands.

/-- No byte of a logical core's L1 is dirty (R55). -/
def State.cleanL1 (s : State) (c : Nat) : Prop := ∀ k x, (s.lcore c).l1.get none k = some x → x.dirty = false
/-- What writes with no L1 of its own, a loader, a storer or an ingress engine, has none (R300). -/
def State.bareEngines (s : State) : Prop := s.cleanL1 noL1 ∧ (s.lcore noL1).roc = []
/-- The dirty bytes of a logical core's L1 have homes of their own (R272). -/
def State.dirtyApart (s : State) (c : Nat) : Prop :=
  ∀ k k' x x', (s.lcore c).l1.get none k = some ⟨x, true⟩ → (s.lcore c).l1.get none k' = some ⟨x', true⟩ →
    s.pa (k / 2 ^ 40) (k % 2 ^ 40) = s.pa (k' / 2 ^ 40) (k' % 2 ^ 40) → k = k'
/-- Byte i of a place at its home. -/
def State.placeByte (s : State) (c : Nat) (pl : Place) (i : Nat) : Byte :=
  match pl with
  | .dev id off _ => s.homeByte id (off + i)
  | .ls off => (s.lcore c).ls.get 0 (off + i)
  | .rx off => (s.rxBytes c (off + i) 1).headD 0
  | .host a => Tab.get 0 s.hostMem (a + i)
/-- Byte i of n bytes of device memory as a plain load sees it: the L1's when it is dirty, or when the L1 holds all the n bytes or
the byte's whole word; else its home's (R42, R50, R55). -/
def State.plainByte (s : State) (c id off n i : Nat) : Byte :=
  let l := s.lcore c
  let k := byteKey id (off + i)
  match l.l1.get none k with
  | some x => if x.dirty || l1Holds l (byteKey id off) n || l1Holds l (k / 8 * 8) 8 then x.b else s.homeByte id (off + i)
  | none => s.homeByte id (off + i)
/-- Byte i of the n bytes of a place as a load sees it: through the L1, and at the home with .acq of die scope or wider (R47, R50,
R55). -/
def State.seenByte (s : State) (c : Nat) (ord : Ord) (sc : Scope) (pl : Place) (n i : Nat) : Byte :=
  match pl with
  | .dev id off _ => if loadsHome ord sc then s.homeByte id (off + i) else s.plainByte c id off n i
  | pl => s.placeByte c pl i
/-- The L1 of a logical core holds its words whole, or dirty bytes of them alone. -/
def State.wholeL1 (s : State) (c : Nat) : Prop :=
  ∀ k x, (s.lcore c).l1.get none k = some x → x.dirty = false → l1Holds (s.lcore c) (k / 8 * 8) 8 = true
/-- Nothing of the issuing strand or its core's copy engine is under way that a release of a scope waits for (R48, R55). -/
def State.settled (s : State) (sc : Scope) : Prop :=
  s.ownPackets sc = [] ∧ s.ownFills sc = [] ∧ ∀ x, x ∈ s.apart.late → s.ownCopies sc x = false
/-- The little-endian value of n bytes of a place at its home (R4). -/
def State.placeNat (s : State) (c : Nat) (pl : Place) (n : Nat) : Nat := leNat ((List.range n).map (s.placeByte c pl))
/-- Only the n bytes of a place differ, at the homes and in the local store of the core. -/
def State.onlyPlace (s t : State) (c : Nat) (pl : Place) (n : Nat) : Prop :=
  (∀ a, (match pl with
      | .dev id off _ => ∀ i, i < n → a ≠ s.pa id (off + i)
      | _ => True) → Tab.get 0 t.mem a = Tab.get 0 s.mem a) ∧
  (∀ a, (match pl with
      | .ls off => a < off ∨ off + n ≤ a
      | _ => True) → (t.lcore c).ls.get 0 a = (s.lcore c).ls.get 0 a) ∧
  (∀ a, (match pl with
      | .host b => a < b ∨ b + n ≤ a
      | _ => True) → Tab.get 0 t.hostMem a = Tab.get 0 s.hostMem a)
/-- The registers of the issuing strand after a word that retires (R179). -/
def State.left (t : State) (r : Strand) : Prop := t.me = { r with wait := .none }.advance

-- Engine commands.

/-- The next command of a queue may start (R31, R300): its core runs and has the queue, no command is started, no FAULT is
set, the response side has room, no access is part done, and no engine of the core has a line to send home. -/
def State.head (s : State) (c q : Nat) (cmd : Cmd) (rest : List Cmd) : Prop :=
  s.apart = {} ∧ (s.lcore c).owed = [] ∧ s.coreRuns c = true ∧ s.queuePresent c q = true ∧ (s.queue c q).started = none ∧ (s.queue c q).cmds = cmd :: rest ∧
    (s.queue c q).fault = false ∧ (s.queue c q).resp.length < 32 ∧ (s.queue c q).bad = [] ∧ (s.queue c q).firstBad = none ∧
    (s.queue c q).desc = [] ∧ (s.queue c q).held = [] ∧ (s.queue c q).more = 0 ∧ (s.queue c q).relist = false ∧ (s.queue c q).mark = {}
/-- The command has completed (R28, R304): DONESEQ is its number, and the response entry stands behind the earlier ones. -/
def State.ended (s t : State) (c q : Nat) (cmd : Cmd) (rest : List Cmd) (resp : List Word) : Prop :=
  let x := s.queue c q
  let y := t.queue c q
  y.doneSeq = BitVec.ofNat 64 cmd.seq ∧ y.cmds = rest ∧ y.started = none ∧ y.fault = false ∧ y.resp = x.resp ++ resp ∧
    y.nextSeq = x.nextSeq
/-- The eight words of a command's descriptor in the local store (R299). -/
def State.descOf (s : State) (c : Nat) (cmd : Cmd) : List Word :=
  (List.range 8).map fun i => BitVec.ofNat 64 ((s.lcore c).lsNat (cmd.desc + 8 * i) 8)
/-- n bytes of a local store that a command may read and write: in range, whole, outside the journal (R110, R277, R341). -/
def State.openLs (s : State) (c off n : Nat) : Prop :=
  off + n ≤ lsSize ∧ (s.lcore c).lsPoisonIn off n = none ∧ (s.queuePresent c 1 && s.inJournal c off n) = false
/-- Bytes outside a range of a local store are unchanged. -/
def State.onlyLs (s t : State) (c off n : Nat) : Prop :=
  ∀ a, a < off ∨ off + n ≤ a → (t.lcore c).ls.get 0 a = (s.lcore c).ls.get 0 a

-- Packets.

/-- The next packet of a queue is p and may start (R449, R451, R452): `u` is the machine once the queue is served and the packet's words
are in memory. Its common fields are in range. -/
def State.packetTurn (s u : State) (qid : Nat) (p : List Word) : Prop :=
  let q := u.qrec qid
  s.canStart qid = true ∧ (s.enter qid).bind (fun t => t.ringIn (t.qrec qid) (t.qrec qid).rptr) = some u ∧
    u.packetAt q q.rptr = some p ∧ opAllowed q (pktOp p) = true ∧ sigBad p = false ∧ u.sigOk q p = true
/-- The machine once the next packet of a queue has started (R452, R456). -/
def State.started (u : State) (qid : Nat) (p : List Word) : State :=
  u.modQrec qid fun q => ({ q with
    rptr := (q.rptr + 1) % 2 ^ 32, waits := if pktOp p = 0x04 then q.waits.set 0 q.rptr u.now else q.waits }.setStep q.rptr 1)
/-- The next packet starts, and `v` is the machine once the pages that it reaches are in memory (R455). -/
def State.packetBegins (s u v : State) (qid : Nat) (p : List Word) : Prop :=
  s.packetTurn u qid p ∧ (u.started qid p).packetIn (u.qrec qid) 1 p = some v
/-- The processor returns to packet p, number i of a queue, at the waiting step at which it stands, and `v` is the machine once the pages
that it reaches are in memory (R453, R455). -/
def State.packetReturns (s v : State) (qid i : Nat) (p : List Word) : Prop :=
  s.alive = true ∧ i ∈ (s.qrec qid).waiting ∧ s.stepReady qid i = true ∧
    ∃ u, (s.enter qid).bind (fun t => t.ringIn (t.qrec qid) i) = some u ∧ u.packetAt (u.qrec qid) i = some p ∧
      u.packetIn (u.qrec qid) ((u.qrec qid).dueStep i) p = some v
/-- The packet has its effect on a machine, and completes with STATUS 0 (R454); a slice whose queue has nothing left to do is over (R453). -/
def State.packetDone (u v : State) (qid : Nat) (p : List Word) (value : Nat) : Out :=
  .next (v.completePacket qid (u.qrec qid).rptr p 0 0 value).passTurns
/-- A buffer's word at an offset can be reached by the firmware without paging (R455). -/
def State.atHand (s : State) (id off : Nat) : Prop := (s.buf id).host = true ∨ pageRes (s.page id off) = true

-- Vector words.

/-- The flags of the active elements together (R81, R248). -/
def State.vecFlags (s : State) (g : Guard) (f : Nat → Num.Res) : Num.Flags :=
  flagsOf ((active (s.me.mask g)).map fun e => (e, f e))
/-- A vector word has retired with the code of f at each active element of a register or pair; every other element, every other
register of the strand and every byte of device memory stay (R109, R248). -/
def State.vecDone (s t : State) (g : Guard) (ty : Ty) (d : VR) (f : Nat → Num.Res) : Prop :=
  (∀ e, e < 1024 → t.me.elem ty d e =
    if (s.me.mask g).getLsbD e then (f e).code % 2 ^ ty.width else s.me.elem ty d e) ∧
  (∀ r e, r < 32 → e < 1024 → r ≠ d.toNat → (ty.is64 = true → r ≠ d.toNat + 1) → t.me.rv r e = s.me.rv r e) ∧
  t.me.fpctl = s.me.fpctl ||| (s.vecFlags g f).zeroExtend 64 ∧
  t.me.s = s.me.s ∧ t.me.p = s.me.p ∧ t.me.a = s.me.a ∧ t.me.b = s.me.b ∧ t.me.q = s.me.q ∧ t.mem = s.mem
/-- A word that sets some enabled flag of `fl` raises FP exception with the enabled flags of its active elements together, and writes
nothing (R81, R248). -/
def State.vecTraps (s : State) (i : Instr) (fl : Num.Flags) : Prop :=
  ¬s.quiet fl → exec i s = .next (s.takeTrap s.cur 0x07 (fl &&& s.me.en).toNat s.me.pc (wordOf i))
/-- A vector word completes with f, when no flag is enabled, or none that it sets; else it traps. -/
def State.vecWord (s : State) (i : Instr) (g : Guard) (ty : Ty) (d : VR) (f : Nat → Num.Res) : Prop :=
  (s.me.en = 0 ∨ s.quiet (s.vecFlags g f) → ∃ t, exec i s = .next t ∧ s.vecDone t g ty d f) ∧ s.vecTraps i (s.vecFlags g f)

-- Guards.

/-- The guard of an instruction that is no event, the strands that may run it, and whether its guard selects elements (R125, R126). -/
def wordGuard (i : Instr) : Option (Guard × Who × Bool) :=
  match i with
  | .nop g .. | .trap g .. | .brk g .. | .tret g .. | .crd g .. | .cwr g .. | .crset g .. | .crclr g .. | .fence g .. | .time g .. |
    .cid g .. | .dhops g .. | .barv g .. | .barw g .. | .add g .. | .sub g .. | .mul g .. | .mulh g .. | .mulhu g .. | .div g .. |
    .divu g .. | .rem g .. | .remu g .. | .and g .. | .or g .. | .xor g .. | .andn g .. | .shl g .. | .shr g .. | .sra g .. |
    .rotl g .. | .min g .. | .max g .. | .minu g .. | .maxu g .. | .clz g .. | .ctz g .. | .popc g .. | .ext g .. | .cmp g .. |
    .sel g .. | .sadd g .. | .ssub g .. | .mad g .. | .lea g .. | .fadd g .. | .fsub g .. | .fmul g .. | .fdiv g .. | .fsqrt g .. |
    .fma g .. | .fmin g .. | .fmax g .. | .fabs g .. | .fneg g .. | .fsgn g .. | .fcmp g .. | .fcvt g .. | .fclass g .. |
    .frnd g .. | .plog g .. | .pcnt g .. | .pfirst g .. | .prange g .. | .psplat g .. | .addi g .. | .andi g .. | .ori g .. |
    .xori g .. | .muli g .. | .shli g .. | .shri g .. | .srai g .. | .movi g .. | .movhi g .. | .cmpi g .. | .cmpiu g .. |
    .adpc g .. | .br g .. | .call g .. | .jmp g .. | .callr g .. | .ret g .. | .ld g .. | .st g .. | .ld2 g .. | .st2 g .. |
    .cas g .. | .cas2 g .. | .amoadd g .. | .amoand g .. | .amoor g .. | .amoxor g .. | .amomin g .. | .amomax g .. |
    .amominu g .. | .amomaxu g .. | .amoswap g .. | .amofadd g .. | .xadd32 g .. | .xadd64 g .. | .xrd32 g .. | .xrd64 g .. |
    .famoadd g .. | .famoand g .. | .famoor g .. | .famoxor g .. | .famomin g .. | .famomax g .. | .famoswap g .. | .fcas g .. |
    .qpush g .. | .qpop g .. | .qpeek g .. | .qstat g .. | .mclaim g .. | .mtset g .. | .mtget g .. | .qclr g .. | .mmul g .. |
    .mmulZ g .. | .mmsp g .. | .mmspZ g .. | .mrel g .. | .mzero g .. | .mfill g .. | .gsprobe g .. | .gsinsert g .. |
    .gsclear g .. | .gsgather g .. | .gsscadd g .. | .gsrules g .. | .gssegsum g .. | .gscompact g .. | .sosort g .. |
    .somerge g .. | .sotopk g .. | .sothresh g .. | .sosums g .. | .sogather g .. | .cpcopy g .. | .cpset g .. | .cpfe g .. |
    .cpstride g .. | .cpprf g .. | .cpwb g .. | .cpsig g .. =>
    some (g, .any, false)
  | .tnext g .. | .tdone g .. | .tspawn g .. | .tyield g .. | .loop g .. | .lbrk g .. | .lcget g .. | .lcset g .. | .qld g .. |
    .qst g .. | .mld g .. | .mldt g .. | .mst g .. =>
    some (g, .task, false)
  | .hret g .. =>
    some (g, .handler, false)
  | .vld g .. | .vst g .. | .vgath g .. | .vscat g .. | .vadd g .. | .vsub g .. | .vmul g .. | .vfma g .. | .vmin g .. |
    .vmax g .. | .vabs g .. | .vneg g .. | .vand g .. | .vor g .. | .vxor g .. | .vshl g .. | .vshr g .. | .vcmp g .. | .vsel g .. |
    .vcvt g .. | .vdup g .. | .vins g .. | .vext g .. | .vexp2 g .. | .vlog2 g .. | .vrcp g .. | .vrsqrt g .. | .vrotr g .. |
    .vrotc g .. | .vbcr g .. | .vbcc g .. | .vredr g .. | .vredc g .. | .vtrnr g .. | .vtrnc g .. | .vcx g .. | .vmac g .. |
    .vnarr g .. =>
    some (g, .task, true)
  | _ => none

end Sys2Proof.Machine
end

