-- ==== Sys2Proof/Certificates/Slice0/Obligations.lean ====
section
/-! DEFINITION. The statements for the provers. -/

open Sys2Proof Sys2Proof.Machine

-- Scalar words.

/-- R163, R164: the result of every RR integer word, for all operands, with the end check and nothing else. -/
def Obligations.IntegerWordsWriteTheirResults : Prop :=
  ∀ (g : Guard) (k : BitVec 2) (d ra rb rc : SR) (s : State), s.acts g →
    let a := s.me.rs ra
    let b := s.me.rs rb
    let res := fun (v : Word) => (.next (s.retired (s.me.ws d v)) : Out)
    exec (.add g d ra rb) s = res (a + b) ∧
    exec (.sub g d ra rb) s = res (a - b) ∧
    exec (.mul g d ra rb) s = res (a * b) ∧
    exec (.mulh g d ra rb) s = res (BitVec.ofInt 64 (a.toInt * b.toInt / 2 ^ 64)) ∧
    exec (.mulhu g d ra rb) s = res (BitVec.ofNat 64 (a.toNat * b.toNat / 2 ^ 64)) ∧
    exec (.div g d ra rb) s = res (if b = 0 then BitVec.allOnes 64
      else if a = BitVec.intMin 64 ∧ b = -1 then BitVec.intMin 64 else BitVec.ofInt 64 (a.toInt.tdiv b.toInt)) ∧
    exec (.divu g d ra rb) s = res (if b = 0 then BitVec.allOnes 64 else BitVec.ofNat 64 (a.toNat / b.toNat)) ∧
    exec (.rem g d ra rb) s = res (if b = 0 then a else a - b * BitVec.ofInt 64 (a.toInt.tdiv b.toInt)) ∧
    exec (.remu g d ra rb) s = res (if b = 0 then a else a - b * BitVec.ofNat 64 (a.toNat / b.toNat)) ∧
    exec (.and g d ra rb) s = res (a &&& b) ∧
    exec (.or g d ra rb) s = res (a ||| b) ∧
    exec (.xor g d ra rb) s = res (a ^^^ b) ∧
    exec (.andn g d ra rb) s = res (a &&& ~~~b) ∧
    exec (.shl g d ra rb) s = res (a <<< (b.toNat % 64)) ∧
    exec (.shr g d ra rb) s = res (a >>> (b.toNat % 64)) ∧
    exec (.sra g d ra rb) s = res (a.sshiftRight (b.toNat % 64)) ∧
    exec (.rotl g d ra rb) s = res (a.rotateLeft (b.toNat % 64)) ∧
    exec (.min g d ra rb) s = res (if a.toInt ≤ b.toInt then a else b) ∧
    exec (.max g d ra rb) s = res (if a.toInt ≤ b.toInt then b else a) ∧
    exec (.minu g d ra rb) s = res (if a.toNat ≤ b.toNat then a else b) ∧
    exec (.maxu g d ra rb) s = res (if a.toNat ≤ b.toNat then b else a) ∧
    exec (.clz g d ra) s = res (BitVec.ofNat 64 (((List.range 64).find? fun i => a.getLsbD (63 - i)).getD 64)) ∧
    exec (.ctz g d ra) s = res (BitVec.ofNat 64 (((List.range 64).find? fun i => a.getLsbD i).getD 64)) ∧
    exec (.popc g d ra) s = res (BitVec.ofNat 64 ((List.range 64).filter fun i => a.getLsbD i).length) ∧
    exec (.mad g d ra rb rc) s = res (a * b + s.me.rs rc) ∧
    exec (.lea g k d ra rb) s = res (a + b * BitVec.ofNat 64 (2 ^ k.toNat))

/-- R165, R166: ext, sadd, ssub, cmp, sel, and the immediate forms. -/
def Obligations.SaturationComparisonAndImmediateWords : Prop :=
  (∀ (g : Guard) (ty : Ty) (cc : Cond) (d ra rb : SR) (p pc : PR) (s : State), s.acts g → ty.isInt = true →
      let a := s.me.rs ra
      let b := s.me.rs rb
      let w := ty.width
      let read := fun (x : Word) => if ty.isSigned then sextN w x.toNat else ((x.toNat % 2 ^ w : Nat) : Int)
      let lo : Int := if ty.isSigned then -2 ^ (w - 1) else 0
      let hi : Int := if ty.isSigned then 2 ^ (w - 1) - 1 else 2 ^ w - 1
      let sat := fun (x : Int) => BitVec.ofNat 64 ((max lo (min hi x)) % 2 ^ w).toNat
      let con : Bool := match cc with
        | .eq => decide (a = b) | .ne => decide (a ≠ b)
        | .lt => decide (a.toInt < b.toInt) | .le => decide (a.toInt ≤ b.toInt)
        | .gt => decide (b.toInt < a.toInt) | .ge => decide (b.toInt ≤ a.toInt)
        | .ltu => decide (a.toNat < b.toNat) | .leu => decide (a.toNat ≤ b.toNat)
        | .gtu => decide (b.toNat < a.toNat) | .geu => decide (b.toNat ≤ a.toNat)
        | _ => false
      exec (.ext g ty d ra) s = .next (s.retired (s.me.ws d (BitVec.ofInt 64 (read a)))) ∧
      exec (.sadd g ty d ra rb) s = .next (s.retired (s.me.ws d (sat (read a + read b)))) ∧
      exec (.ssub g ty d ra rb) s = .next (s.retired (s.me.ws d (sat (read a - read b)))) ∧
      exec (.cmp g cc p ra rb) s = .next (s.retired (s.me.wp p (if con then BitVec.allOnes 1024 else 0))) ∧
      exec (.sel g d pc ra rb) s = .next (s.retired (s.me.ws d (if s.me.rpBit pc 0 then a else b)))) ∧
  (∀ (g : Guard) (cc : CondI) (d ra : SR) (p : PR) (imm : BitVec 32) (k : BitVec 6) (s : State), s.acts g →
      let a := s.me.rs ra
      let i := imm.signExtend 64
      let u := imm.zeroExtend 64
      let res := fun (v : Word) => (.next (s.retired (s.me.ws d v)) : Out)
      let con := fun (b : Bool) => (.next (s.retired (s.me.wp p (if b then BitVec.allOnes 1024 else 0))) : Out)
      exec (.addi g d ra imm) s = res (a + i) ∧
      exec (.andi g d ra imm) s = res (a &&& i) ∧
      exec (.ori g d ra imm) s = res (a ||| i) ∧
      exec (.xori g d ra imm) s = res (a ^^^ i) ∧
      exec (.muli g d ra imm) s = res (a * i) ∧
      exec (.shli g d ra k) s = res (a <<< k.toNat) ∧
      exec (.shri g d ra k) s = res (a >>> k.toNat) ∧
      exec (.srai g d ra k) s = res (a.sshiftRight k.toNat) ∧
      exec (.movi g d imm) s = res i ∧
      exec (.movhi g d ra imm) s = res (BitVec.ofNat 64 (imm.toNat * 2 ^ 32 + a.toNat % 2 ^ 32)) ∧
      exec (.cmpi g cc p ra imm) s = con (match cc with
        | .eq => decide (a.toInt = i.toInt) | .ne => decide (a.toInt ≠ i.toInt)
        | .lt => decide (a.toInt < i.toInt) | .le => decide (a.toInt ≤ i.toInt)
        | .gt => decide (i.toInt < a.toInt) | .ge => decide (i.toInt ≤ a.toInt)) ∧
      exec (.cmpiu g cc p ra imm) s = con (match cc with
        | .eq => decide (a.toNat = u.toNat) | .ne => decide (a.toNat ≠ u.toNat)
        | .lt => decide (a.toNat < u.toNat) | .le => decide (a.toNat ≤ u.toNat)
        | .gt => decide (u.toNat < a.toNat) | .ge => decide (u.toNat ≤ a.toNat)) ∧
      exec (.adpc g d imm) s = res (s.me.pc + 8 * i))

/-- R175: the predicate words on whole registers, element by element. -/
def Obligations.PredicateWordsWriteTheirResults : Prop :=
  ∀ (g : Guard) (tt : BitVec 4) (d : SR) (p pa pb : PR) (ra rb : SR) (s : State), s.acts g →
    let x := s.me.rp pa
    let y := s.me.rp pb
    (∃ v : Pred, exec (.plog g tt p pa pb) s = .next (s.retired (s.me.wp p v)) ∧
      ∀ e, e < 1024 → v.getLsbD e = tt.getLsbD (2 * (x.getLsbD e).toNat + (y.getLsbD e).toNat)) ∧
    exec (.pcnt g d pa) s =
      .next (s.retired (s.me.ws d (BitVec.ofNat 64 ((List.range 1024).filter fun e => x.getLsbD e).length))) ∧
    exec (.pfirst g d pa) s =
      .next (s.retired (s.me.ws d (BitVec.ofNat 64 (((List.range 1024).find? fun e => x.getLsbD e).getD 1024)))) ∧
    (∃ v : Pred, exec (.prange g p ra rb) s = .next (s.retired (s.me.wp p v)) ∧
      ∀ e, e < 1024 → v.getLsbD e = (decide ((s.me.rs ra).toNat ≤ e) && decide (e < (s.me.rs rb).toNat))) ∧
    exec (.psplat g p ra) s = .next (s.retired (s.me.wp p (if s.me.rs ra = 0 then 0 else BitVec.allOnes 1024)))

/-- R176: branches, calls and returns to an aligned target; a misaligned one traps with no link written. -/
def Obligations.BranchesReachTheirTargets : Prop :=
  ∀ (g : Guard) (d ra : SR) (off : BitVec 32) (s : State), s.acts g →
    let pc := s.me.pc
    let rel := pc + 8 * off.signExtend 64
    let ind := s.me.rs ra + 8 * off.signExtend 64
    let link := s.me.ws d (pc + 8)
    let mis := fun (x : Word) => (.next (s.takeTrap s.cur 0x04 0 pc x) : Out)
    (rel.toNat % 8 = 0 → exec (.br g off) s = .next (s.gone s.me rel) ∧ exec (.call g d off) s = .next (s.gone link rel)) ∧
    (ind.toNat % 8 = 0 → exec (.jmp g ra off) s = .next (s.gone s.me ind) ∧
      exec (.callr g d ra off) s = .next (s.gone link ind)) ∧
    ((s.me.rs ra).toNat % 8 = 0 → exec (.ret g ra) s = .next (s.gone s.me (s.me.rs ra))) ∧
    (rel.toNat % 8 ≠ 0 → exec (.br g off) s = mis rel ∧ exec (.call g d off) s = mis rel) ∧
    (ind.toNat % 8 ≠ 0 → exec (.jmp g ra off) s = mis ind ∧ exec (.callr g d ra off) s = mis ind) ∧
    ((s.me.rs ra).toNat % 8 ≠ 0 → exec (.ret g ra) s = mis (s.me.rs ra))

/-- R178, R180: loop, lbrk, lcget and lcset on a task strand. -/
def Obligations.LoopWordsSetTheirCounters : Prop :=
  ∀ (g : Guard) (n : LR) (ra : SR) (len : BitVec 8) (imm : BitVec 32) (s : State), s.acts g → s.onTask →
    let w := s.me.pc.toNat / 8
    let c := if ra = 0 then imm.toNat else (s.me.rs ra).toNat
    let x := s.me.lcGet n.toNat
    let clash := ∃ j, j < 3 ∧ j ≠ n.toNat ∧ lcCount (s.me.lcGet j) ≠ 0 ∧
      lcStart (s.me.lcGet j) + lcLen (s.me.lcGet j) = w + 1 + len.toNat
    let ok := c < 2 ^ 32 ∧ w + 1 < 2 ^ 24 ∧ (c ≠ 0 → ¬clash)
    let t := s.me.lcSet n.toNat (BitVec.ofNat 64 (len.toNat * 2 ^ 56 + (w + 1) * 2 ^ 32 + c))
    (ok → c ≠ 0 → exec (.loop g n ra len imm) s = .next (s.retired t)) ∧
    (ok → c = 0 → exec (.loop g n ra len imm) s = .next (s.gone t (BitVec.ofNat 64 ((w + len.toNat + 2) * 8)))) ∧
    (¬ok → exec (.loop g n ra len imm) s =
      .next (s.takeTrap s.cur 0x01 7 s.me.pc (wordOf (.loop g n ra len imm)))) ∧
    (lcCount x ≠ 0 → exec (.lbrk g n) s =
      .next (s.gone (s.me.lcSet n.toNat (x.put 31 0 0)) (BitVec.ofNat 64 ((lcStart x + lcLen x + 1) * 8)))) ∧
    (lcCount x = 0 → exec (.lbrk g n) s = .next (s.retired s.me)) ∧
    exec (.lcget g ra n) s = .next (s.retired (s.me.ws ra x)) ∧
    exec (.lcset g n ra) s = .next (s.retired (s.me.lcSet n.toNat (s.me.rs ra)))

/-- R179: the end check takes the lowest counter whose body ends at the word; no counter, the next word. -/
def Obligations.EndCheckFollowsTheLowestCounter : Prop :=
  ∀ t : Strand,
    let w := t.pc.toNat / 8
    let ends := fun (n : Nat) => lcCount (t.lcGet n) ≠ 0 ∧ lcStart (t.lcGet n) + lcLen (t.lcGet n) = w
    (∀ n, n < 3 → ends n → (∀ j, j < n → ¬ends j) → 1 < lcCount (t.lcGet n) →
      t.advance.pc = BitVec.ofNat 64 (lcStart (t.lcGet n) * 8) ∧
      lcCount (t.advance.lcGet n) = lcCount (t.lcGet n) - 1 ∧ lcStart (t.advance.lcGet n) = lcStart (t.lcGet n) ∧
      lcLen (t.advance.lcGet n) = lcLen (t.lcGet n) ∧ ∀ j, j ≠ n → t.advance.lcGet j = t.lcGet j) ∧
    (∀ n, n < 3 → ends n → (∀ j, j < n → ¬ends j) → lcCount (t.lcGet n) = 1 →
      t.advance.pc = t.pc + 8 ∧ lcCount (t.advance.lcGet n) = 0 ∧ ∀ j, j ≠ n → t.advance.lcGet j = t.lcGet j) ∧
    ((∀ n, n < 3 → ¬ends n) → t.advance = { t with pc := t.pc + 8 })

/-- R81, R82, R85, R97, R98, R167 to R174: with no flag enabled every word completes: it writes the code of its result, and its flags
gather (fabs, fneg, fsgn and fclass set none, and complete whatever is enabled). With flags enabled, a word that sets none of them
completes so too; one that sets an enabled flag raises FP exception with the enabled flags in DETAIL and the word in TRAPVAL, and nothing is
written. Of the results: a NaN operand gives the quiet NaN, with NV when it signals; a finite number by zero the infinity of its sign,
with DZ; a sum and a product of finite values are exact; a sum of two codes, a product and an fma are their exact value converted once;
and rounding takes one of the two neighbours, the nearest by RNE with a tie to the even one, and by the other modes the one of their side.
fsqrt of a zero and of +∞ is the operand, and of a value below 0 the quiet NaN with NV; fmin and fmax choose by value, −0 below +0, the
first of equals, and pass one quiet NaN over; fneg and fsgn change the sign bit alone; fcmp compares by value, and a NaN is unordered;
fclass sets the one bit of the class; fcvt to the same type and frnd of an infinity deliver the operand, and frnd of a finite value the
integer of its mode, with the operand's sign, and NX when it differs. -/
def Obligations.FloatingPointWordsDeliverOrTrap : Prop :=
  (∀ (ty : Ty) (f : Num.Fmt) (m : Num.Mode) (mx : Bool) (neg : BitVec 2) (a b c : Nat), Num.Fmt.of ty = some f → f.inf = true →
    let x := Num.decode ty a
    let y := Num.decode ty b
    let z := Num.decode ty c
    let w := ty.width
    let sn : Num.Flags := if x.isSnan || y.isSnan then Num.NV else 0
    let quiet : Num.Res := ⟨(2 ^ f.eb - 1) * 2 ^ f.m + 2 ^ (f.m - 1), if x.isSnan || y.isSnan then Num.NV else 0⟩
    (x.isNan = true ∨ y.isNan = true →
      Num.fadd ty m a b = quiet ∧ Num.fsub ty m a b = quiet ∧ Num.fmul ty m a b = quiet ∧ Num.fdiv ty m a b = quiet) ∧
    (x.isNan = false → x.isInf = false → x.isZero = false → y.isZero = true → Num.fdiv ty m a b =
      ⟨(if x.neg? == y.neg? then 0 else 2 ^ (f.m + f.eb)) + (2 ^ f.eb - 1) * 2 ^ f.m, Num.DZ⟩) ∧
    (x.isNan = false → x.isInf = false → y.isNan = false → y.isInf = false →
      Num.fadd ty m a b = Num.conv ty m (Num.sumExact m [x, y]).1 ∧
      Num.fsub ty m a b = Num.conv ty m (Num.sumExact m [x, y.negate]).1 ∧ Num.fmul ty m a b = Num.conv ty m (Num.prod x y)) ∧
    (x.Finite → y.Finite → z.Finite → Num.fma ty m neg a b c = Num.conv ty m (Num.sumExact m
      [if neg.getLsbD 0 then (Num.prod x y).negate else Num.prod x y, if neg.getLsbD 1 then z.negate else z]).1) ∧
    -- fsqrt and frnd (R168, R174)
    (let one : Num.Res := ⟨(2 ^ f.eb - 1) * 2 ^ f.m + 2 ^ (f.m - 1), if x.isSnan then Num.NV else 0⟩
     let r := Num.decode ty (Num.frnd ty m a).code
     let v := x.real
     (x.isNan = true → Num.fsqrt ty m a = one ∧ Num.frnd ty m a = one) ∧
     (x.isZero = true ∨ (x.isInf = true ∧ x.neg? = false) → Num.fsqrt ty m a = ⟨a % 2 ^ w, 0⟩) ∧
     (x.isNan = false → x.isZero = false → x.neg? = true → Num.fsqrt ty m a = ⟨(2 ^ f.eb - 1) * 2 ^ f.m + 2 ^ (f.m - 1), Num.NV⟩) ∧
     (x.isInf = true → Num.frnd ty m a = ⟨a % 2 ^ w, 0⟩) ∧
     (x.Finite → r.Finite ∧ r.neg? = x.neg? ∧ (Num.frnd ty m a).fl = (if r.real = v then 0 else Num.NX) ∧
       r.real = (match m with
         | .rdn => ⌊v⌋
         | .rup => ⌈v⌉
         | .rtz => if v < 0 then ⌈v⌉ else ⌊v⌋
         | .rne => if v - ⌊v⌋ < 1 / 2 ∨ (v - ⌊v⌋ = 1 / 2 ∧ ⌊v⌋ % 2 = 0) then ⌊v⌋ else ⌊v⌋ + 1 : ℤ))) ∧
    -- fmin and fmax (R169)
    (let r := Num.fminmax ty mx a b
     let k := (Num.decode ty r.code).place
     (x.isSnan = true ∨ y.isSnan = true ∨ (x.isNan = true ∧ y.isNan = true) → r = quiet) ∧
     (x.isSnan = false → y.isSnan = false → (x.isNan = true → y.isNan = false → r = ⟨b, 0⟩) ∧
       (x.isNan = false → y.isNan = true → r = ⟨a, 0⟩)) ∧
     (x.isNan = false → y.isNan = false → (r = ⟨a, 0⟩ ∨ r = ⟨b, 0⟩) ∧ k = (if mx then max x.place y.place else min x.place y.place) ∧
       (x.place = y.place → r = if x.isZero = true ∧ x.neg? ≠ y.neg? ∧ x.neg? = mx then ⟨b, 0⟩ else ⟨a, 0⟩))) ∧
    -- fneg, fsgn, fclass and fcvt (R170, R172, R173)
    (a < 2 ^ w → Num.fneg ty a = a ^^^ 2 ^ (w - 1) ∧ Num.fsgn ty a b = a % 2 ^ (w - 1) + 2 ^ (w - 1) * (b / 2 ^ (w - 1) % 2)) ∧
    (let e := a / 2 ^ f.m % 2 ^ f.eb
     let fr := a % 2 ^ f.m
     let pick := fun (n p : Nat) => if a.testBit (w - 1) then n else p
     Num.fclass ty a = if e = 2 ^ f.eb - 1 then
         (if fr = 0 then pick 1 128 else if 3 ≤ f.m ∧ fr < 2 ^ (f.m - 1) then 256 else 512)
       else if e = 0 then (if fr = 0 then pick 8 16 else pick 4 32) else pick 2 64) ∧
    (x.isNan = false → Num.fcvt ty ty m a = ⟨a % 2 ^ w, 0⟩) ∧
    -- fcmp (R140, R171)
    (x.isNan = true ∨ y.isNan = true →
      Cond.holdsFp .feq x y = (false, sn) ∧ Cond.holdsFp .fne x y = (true, sn) ∧ Cond.holdsFp .fun_ x y = (true, sn) ∧
      Cond.holdsFp .for_ x y = (false, sn) ∧ ∀ k, k ∈ [Cond.flt, .fle, .fgt, .fge] → Cond.holdsFp k x y = (false, Num.NV)) ∧
    (x.isNan = false → y.isNan = false →
      let gives := fun (k : Cond) (p : Prop) => ((Cond.holdsFp k x y).1 = true ↔ p) ∧ (Cond.holdsFp k x y).2 = 0
      gives .feq (x.place = y.place) ∧ gives .fne (x.place ≠ y.place) ∧ gives .flt (x.place < y.place) ∧
      gives .fle (x.place ≤ y.place) ∧ gives .fgt (y.place < x.place) ∧ gives .fge (y.place ≤ x.place) ∧
      gives .fun_ False ∧ gives .for_ True)) ∧
  (∀ (m : Num.Mode) (ts : List Num.Val), (∀ v, v ∈ ts → v.Finite) →
    (Num.sumExact m ts).1.Finite ∧ (Num.sumExact m ts).2 = 0 ∧ (Num.sumExact m ts).1.real = (ts.map Num.Val.real).sum) ∧
  (∀ a b : Num.Val, a.Finite → b.Finite → (Num.prod a b).Finite ∧ (Num.prod a b).real = a.real * b.real) ∧
  (∀ (m : Num.Mode) (neg : Bool) (n d : Nat), 0 < d →
    let i := Num.pick m neg (n / d) (n % d) d
    (n % d = 0 → i * d = n) ∧ (i = n / d ∨ i = n / d + 1) ∧
    (m = .rne → 2 * (i * d) ≤ 2 * n + d ∧ 2 * n ≤ 2 * (i * d) + d ∧
      (2 * (i * d) = 2 * n + d ∨ 2 * n = 2 * (i * d) + d → i % 2 = 0)) ∧
    (m = .rtz ∨ (m = .rup ∧ neg = true) ∨ (m = .rdn ∧ neg = false) → i * d ≤ n) ∧
    ((m = .rup ∧ neg = false) ∨ (m = .rdn ∧ neg = true) → n ≤ i * d)) ∧
  ∀ (g : Guard) (ty u : Ty) (rm : Rc) (neg : BitVec 2) (cc : Cond) (d ra rb rc : SR) (p : PR) (s : State), s.acts g →
    let a := low ty.width (s.me.rs ra)
    let b := low ty.width (s.me.rs rb)
    let c := low ty.width (s.me.rs rc)
    let m := s.me.mode rm
    let writes := fun (r : Num.Res) => (.next (s.retired ((s.me.ws d (BitVec.ofNat 64 r.code)).orFlags r.fl)) : Out)
    let cmp := Cond.holdsFp cc (Num.decode ty a) (Num.decode ty b)
    let compares := (.next (s.retired ((s.me.wp p (if cmp.1 then BitVec.allOnes 1024 else 0)).orFlags cmp.2)) : Out)
    let traps := fun (i : Instr) (fl : Num.Flags) =>
      exec i s = .next (s.takeTrap s.cur 0x07 (fl &&& s.me.en).toNat s.me.pc (wordOf i))
    let words : List (Instr × Num.Res) :=
      [(.fadd g ty rm d ra rb, Num.fadd ty m a b), (.fsub g ty rm d ra rb, Num.fsub ty m a b),
       (.fmul g ty rm d ra rb, Num.fmul ty m a b), (.fdiv g ty rm d ra rb, Num.fdiv ty m a b),
       (.fsqrt g ty rm d ra, Num.fsqrt ty m a), (.fma g ty rm neg d ra rb rc, Num.fma ty m neg a b c),
       (.fmin g ty d ra rb, Num.fminmax ty false a b), (.fmax g ty d ra rb, Num.fminmax ty true a b),
       (.fcvt g ty u rm d ra, Num.fcvt ty u m (low u.width (s.me.rs ra))), (.frnd g ty rm d ra, Num.frnd ty m a)]
    exec (.fabs g ty d ra) s = writes ⟨a % 2 ^ (ty.width - 1), 0⟩ ∧
    exec (.fneg g ty d ra) s = writes ⟨Num.fneg ty a, 0⟩ ∧
    exec (.fsgn g ty d ra rb) s = writes ⟨Num.fsgn ty a b, 0⟩ ∧
    exec (.fclass g ty d ra) s = writes ⟨Num.fclass ty a, 0⟩ ∧
    (s.me.en = 0 →
      exec (.fadd g ty rm d ra rb) s = writes (Num.fadd ty m a b) ∧
      exec (.fsub g ty rm d ra rb) s = writes (Num.fsub ty m a b) ∧
      exec (.fmul g ty rm d ra rb) s = writes (Num.fmul ty m a b) ∧
      exec (.fdiv g ty rm d ra rb) s = writes (Num.fdiv ty m a b) ∧
      exec (.fsqrt g ty rm d ra) s = writes (Num.fsqrt ty m a) ∧
      exec (.fma g ty rm neg d ra rb rc) s = writes (Num.fma ty m neg a b c) ∧
      exec (.fmin g ty d ra rb) s = writes (Num.fminmax ty false a b) ∧
      exec (.fmax g ty d ra rb) s = writes (Num.fminmax ty true a b) ∧
      exec (.fcvt g ty u rm d ra) s = writes (Num.fcvt ty u m (low u.width (s.me.rs ra))) ∧
      exec (.frnd g ty rm d ra) s = writes (Num.frnd ty m a) ∧
      exec (.fcmp g cc ty p ra rb) s = compares) ∧
    (∀ x, x ∈ words → (s.quiet x.2.fl → exec x.1 s = writes x.2) ∧ (¬s.quiet x.2.fl → traps x.1 x.2.fl)) ∧
    (s.quiet cmp.2 → exec (.fcmp g cc ty p ra rb) s = compares) ∧
    (¬s.quiet cmp.2 → traps (.fcmp g cc ty p ra rb) cmp.2)

-- System words, traps and returns.

/-- R3, R54, R55, R111, R187, R188, R190, R192: the system words that complete for user code, and control-register words at the rights
of R111, reserved bits reading 0; at user privilege without the right, privileged operation with DETAIL 2. A fence that releases does so
at its release's point: of die scope or wider it leaves every dirty byte of the L1 at its home, and no byte of the L1 dirty; with a packet
of its own strand still to leave, the packet leaves now or the fence waits. -/
def Obligations.SystemWordsCompleteOrAreDenied : Prop :=
  (∀ (g : Guard) (d ra rb : SR) (cr : Cr) (ord : Ord) (sc : Scope) (s : State), s.acts g →
      let old := s.crRead s.cur cr
      let m := Cr.rwMask cr
      let writes := fun (i : Instr) (v : Word) =>
        s.me.super = true ∨ Cr.userWrite cr = true →
        ∃ t, exec i s = .next t ∧ t = (s.crStore s.cur cr ((old &&& ~~~m) ||| (v &&& m))).retired
          ((s.crStore s.cur cr ((old &&& ~~~m) ||| (v &&& m))).strand s.cur)
      exec (.nop g) s = .next (s.retired s.me) ∧
      exec (.time g d) s = .next (s.retired (s.me.ws d s.devTime)) ∧
      exec (.cid g d) s = .next (s.retired (s.me.ws d (BitVec.ofNat 64 (lcOf s.cur % 320)))) ∧
      exec (.dhops g d ra rb) s = .next (s.retired (s.me.ws d (s.vhops (ctxOf s.cur) (s.me.rs ra) (s.me.rs rb)))) ∧
      (s.me.super = true ∨ Cr.userRead cr = true → exec (.crd g d cr) s = .next (s.retired (s.me.ws d old))) ∧
      writes (.cwr g cr ra) (s.me.rs ra) ∧
      writes (.crset g cr ra) (old ||| s.me.rs ra) ∧
      writes (.crclr g cr ra) (old &&& ~~~(s.me.rs ra)) ∧
      old &&& ~~~(Cr.fields cr) = 0 ∧
      (let c := lcOf s.cur
       let fence := exec (.fence g ord sc) s
       let after := fun (u : State) =>
         (.next ((if Ord.hasAcq ord = true ∧ sc ≠ .core then u.modLcore c LCore.invalidate else u).retired s.me) : Out)
       (Ord.hasRel ord = false ∨ sc = .core → fence = after s) ∧
       (Ord.hasRel ord = true → sc ≠ .core →
         (s.ownPackets sc = [] → fence = after (s.relPoint sc)) ∧
         (s.settled sc → s.dirtyApart c → ∃ t, fence = .next t ∧ t.cleanL1 c ∧
           (∀ k x, (s.lcore c).l1.get none k = some ⟨x, true⟩ → t.homeByte (k / 2 ^ 40) (k % 2 ^ 40) = x) ∧
           ∀ a, (∀ k x, (s.lcore c).l1.get none k = some ⟨x, true⟩ → a ≠ s.pa (k / 2 ^ 40) (k % 2 ^ 40)) →
             Tab.get 0 t.mem a = Tab.get 0 s.mem a) ∧
         ∀ p, s.ownPackets sc = [p] →
           (s.depart c p = none → fence = .next (s.held (.send (.fence g ord sc)))) ∧
           ∀ u, s.depart c p = some u → u.ownPackets sc = [] → fence = after (u.relPoint sc)))) ∧
  (∀ (g : Guard) (d ra : SR) (cr : Cr) (s : State), s.acts g → s.me.super = false →
      let deny := fun (i : Instr) => exec i s = .next (s.takeTrap s.cur 0x0A 2 s.me.pc (wordOf i))
      (Cr.userRead cr = false → deny (.crd g d cr)) ∧
      (Cr.userWrite cr = false → deny (.cwr g cr ra) ∧ deny (.crset g cr ra) ∧ deny (.crclr g cr ra)))

/-- R195: taking a trap outside a trap writes the trap registers, the mode bits and the next offset of that strand, and no other
register of it; no other strand's register changes. A trap inside a trap
(R198) stops the strand and changes no trap register of it. -/
def Obligations.TrapEntryWritesTheTrapRegisters : Prop :=
  (∀ (s : State) (k code detail : Nat) (pcv val : Word), (s.strand k).inTrap = false → code < 256 → detail < 256 →
      let t := (s.takeTrap k code detail pcv val).strand k
      let o := s.strand k
      t.trapCause = BitVec.ofNat 64 (detail * 256 + code) ∧ t.trapPc = pcv ∧ t.trapVal = val ∧ t.trapStat = o.status ∧
      t.status = (o.status ||| 0xC00) ∧ t.super = true ∧ t.inTrap = true ∧
      t.pc = (s.lcore (lcOf k)).trapVec ∧ t.wait = .none ∧
      t.s = o.s ∧ t.v = o.v ∧ t.a = o.a ∧ t.p = o.p ∧ t.b = o.b ∧ t.q = o.q ∧ t.lc = o.lc ∧ t.fpctl = o.fpctl ∧
      t.fectl = o.fectl ∧ t.feBudget = o.feBudget ∧ t.prio = o.prio ∧ t.timeCmp = o.timeCmp ∧ t.scratch0 = o.scratch0 ∧
      t.scratch1 = o.scratch1 ∧ t.node = o.node ∧ t.iter = o.iter ∧
      (∀ j, j ≠ k → (s.takeTrap k code detail pcv val).strand j = s.strand j) ∧
      (s.takeTrap k code detail pcv val).mem = s.mem ∧ (s.takeTrap k code detail pcv val).lcores = s.lcores) ∧
  (∀ (s : State) (k code detail : Nat) (pcv val : Word), (s.strand k).inTrap = true →
      let t := (s.takeTrap k code detail pcv val).strand k
      let o := s.strand k
      t.stopped = true ∧ t.trapCause = o.trapCause ∧ t.trapPc = o.trapPc ∧ t.trapVal = o.trapVal ∧
      t.trapStat = o.trapStat ∧ t.status = o.status ∧ t.pc = o.pc)

/-- R106, R126, R189, R194, R196: trap takes environment call with TRAPPC at the next word, brk breakpoint with TRAPPC at itself, TRAPVAL
IMM zero-extended; time-compare, a word that fails a check before its effect, and a fetch beyond the code buffer. -/
def Obligations.TrapsAreTaken : Prop :=
  (∀ (g : Guard) (imm : BitVec 16) (s : State), s.acts g →
      exec (.trap g imm) s = .next (s.takeTrap s.cur 0x0C 0 (s.me.pc + 8) (BitVec.ofNat 64 imm.toNat)) ∧
      exec (.brk g imm) s = .next (s.takeTrap s.cur 0x0B 0 s.me.pc (BitVec.ofNat 64 imm.toNat))) ∧
  (∀ (s : State) (c k n : Nat) (w off : Word), k ≤ 4 →
      let j := mkStrand c k
      (s.inWork j = true → (s.strand j).inTrap = false → (s.strand j).timeCmp ≠ BitVec.allOnes 64 →
        (s.strand j).timeCmp.toNat ≤ s.now →
        exec (.timeCompare c k) s = .next ((s.takeTrap j 0x0D 0 (s.strand j).pc s.devTime).modStrand j
          fun t => { t with timeCmp := BitVec.allOnes 64 })) ∧
      exec (.illegalInstruction n w) s = .next (s.takeTrap s.cur 0x01 n s.me.pc w) ∧
      exec (.instructionFetchFault off) s = .next (s.takeTrap s.cur 0x02 0x0D off off))

/-- R199, R200: tret restores SUPER and INTRAP from TRAPSTAT and goes to TRAPPC, at user privilege it traps; hret ends the packet and
frees its space: with no other packet waiting, or HANDLER.EN 0, the handler strand is idle; else it starts the next packet at
HANDLER.ENTRY × 8, with MSGINFO describing that packet and its registers as they were. -/
def Obligations.ReturnsRestore : Prop :=
  ∀ (g : Guard) (s : State), s.acts g →
    let t := s.me
    let c := lcOf s.cur
    (t.super = true → exec (.tret g) s =
      .next (s.gone { t with status := (t.status &&& ~~~0xC00) ||| (t.trapStat &&& 0xC00) } t.trapPc)) ∧
    (t.super = false → exec (.tret g) s = .next (s.takeTrap s.cur 0x0A 1 t.pc (wordOf (.tret g)))) ∧
    (isHandler s.cur = true → ((s.lcore c).window).length ≤ 1 → exec (.hret g) s =
      .next ((s.setStrand s.cur { t with active := false, wait := .none }).modLcore c fun l =>
        { l with window := [], lsPoison := l.lsPoison.clear (lsSize / 32) (lsSize / 32 + 128) })) ∧
    (∀ p q rest, isHandler s.cur = true → (s.lcore c).window = p :: q :: rest → t.stopped = false →
      ((s.lcore c).handler.getLsbD 0 = true → ∃ u, exec (.hret g) s = .next u ∧
        u.me = { t with active := true, wait := .none, status := t.status &&& ~~~0xC00, pc := (s.lcore c).handler &&& ~~~7 } ∧
        (u.lcore c).msgInfo = BitVec.ofNat 64 (q.sender * 2 ^ 32 + q.words.length) ∧ (u.lcore c).window = q :: rest ∧
        (u.lcore c).l1 = (if q.rel then (s.lcore c).invalidate.l1 else (s.lcore c).l1) ∧ (u.lcore c).ls = (s.lcore c).ls ∧
        u.mem = s.mem ∧ ∀ k, k ≠ s.cur → u.strand k = s.strand k) ∧
      ((s.lcore c).handler.getLsbD 0 = false → exec (.hret g) s =
        .next ((s.setStrand s.cur { t with active := false, wait := .none }).modLcore c fun l =>
          { l with window := q :: rest, lsPoison := l.lsPoison.clear (lsSize / 32) (lsSize / 32 + 128) }))) ∧
    (isHandler s.cur = false → exec (.hret g) s = .next (s.takeTrap s.cur 0x01 4 t.pc (wordOf (.hret g))))

-- Tasks and barriers.

/-- R183 to R186: tnext hands out the lowest iteration left of the core's part, or none; tyield with no switch pending does nothing; tdone
outside a trap ends the strand's part, and it becomes idle; tspawn creates a child in a free entry and gives its identifier to
s[D], or traps on a record number beyond the graph. -/
def Obligations.TaskWordsHandOutEndAndSpawn : Prop :=
  (∀ (g : Guard) (d : SR) (pa : PR) (n : Nat) (p : Part) (s : State), s.acts g → s.onTask →
      s.me.node = some n → s.me.switchPending = false →
      let core := coreOfLc (lcOf s.cur)
      ((s.task n).part core = some p → p.next ≤ p.end_ →
        ∃ t, exec (.tnext g d pa) s = .next t ∧
          t.me = { (({ s.me with iter := some p.next }).ws d (BitVec.ofNat 64 p.next)).wp pa (BitVec.allOnes 1024)
            with wait := .none }.advance) ∧
      ((∀ q ∈ (s.task n).parts, q.end_ < q.next) → (s.task n).part core = some p →
        ∃ t, exec (.tnext g d pa) s = .next t ∧
          t.me = { (({ s.me with iter := none }).ws d 0).wp pa 0 with wait := .none }.advance) ∧
      exec (.tyield g) s = .next (s.setStrand s.cur s.me.advance)) ∧
  (∀ (g : Guard) (d ra : SR) (n e : Nat) (s u : State), s.acts g → s.onTask → s.me.node = some n →
      (s.me.inTrap = false →
        ∃ t, exec (.tdone g) s = .next t ∧ t.me.node = none ∧ t.me.iter = none ∧ (t.task n).lastDone = coreOfLc (lcOf s.cur)) ∧
      (let nodes := s.nnodes (s.task n).ctx (s.task n).graph
       ((s.me.rs ra).toNat < nodes → s.me.versioned = false → s.ownPackets .pkg = [] →
         (s.relPoint .pkg).freeEntry = (some e, u) →
         ∃ t, exec (.tspawn g d ra) s = .next t ∧ (t.task e).st = .ready ∧ (t.task e).node = (s.me.rs ra).toNat ∧
           (t.task e).spawned = true ∧ t.left (s.me.ws d (BitVec.ofNat 64 (t.task e).ident))) ∧
       (nodes ≤ (s.me.rs ra).toNat →
         exec (.tspawn g d ra) s = .next (s.takeTrap s.cur 0x02 0x0E s.me.pc (s.me.rs ra)))))

/-- R227, R228: an arrival below COUNT counts, the last one turns the phase; barw completes once the phase has turned, else it
waits. Barrier and ticket are those the word names. -/
def Obligations.BarriersCountArrivals : Prop :=
  ∀ (g : Guard) (ra : SR) (imm : BitVec 16) (ph : Nat) (s : State), s.acts g → s.plainTask →
    let x := ctxOf s.cur
    let b := (s.me.rs ra + imm.zeroExtend 64).toNat
    let w := (s.ctx x).barriers.get 0 b
    let now := fun (t : State) => (t.ctx x).barriers.get 0 b
    b ≤ 4095 → barCount w ≠ 0 → s.ownPackets .pkg = [] →
    (barArrived w + 1 < barCount w →
      ∃ t, exec (.barv g ra imm) s = .next t ∧ barArrived (now t) = barArrived w + 1 ∧ barPhase (now t) = barPhase w ∧
        barCount (now t) = barCount w ∧ t.me.ticket = some (b, barPhase w)) ∧
    (barArrived w + 1 = barCount w →
      ∃ t, exec (.barv g ra imm) s = .next t ∧ barArrived (now t) = 0 ∧ barPhase (now t) = (barPhase w + 1) % 2 ^ 32 ∧
        barCount (now t) = barCount w ∧ t.me.ticket = some (b, barPhase w)) ∧
    (s.me.ticket = some (b, ph) → barPhase w ≠ ph →
      exec (.barw g ra imm) s = .next ((s.modLcore (lcOf s.cur) LCore.invalidate).retired s.me)) ∧
    (s.me.ticket = some (b, ph) → barPhase w = ph →
      exec (.barw g ra imm) s = .next (s.held (.bar b 1 (!s.me.noPark && decide (s.me.spin < 1)))))

-- Loads and stores.

/-- R207, R208, R243: an access that passes its checks delivers the little-endian bytes of its place, and changes no byte. That exec
reads the words of an ld2 and a qld together, and a turn of the agenda reads some of them earlier, is the model's choice (log 113). -/
def Obligations.LoadsDeliverTheirBytes : Prop :=
  ∀ (g : Guard) (ty : Ty) (ord : Ord) (sc : Scope) (d : SR) (q : QR) (m : MemOp) (pl : Place) (s : State),
    s.acts g → s.plainTask →
    let c := lcOf s.cur
    (loadsHome ord sc = true → s.cleanL1 c) →
    let val := fun (n : Nat) => leNat ((List.range n).map (s.seenByte c ord sc pl n))
    let ok := fun (n : Nat) => s.locate s.cur s.me m (s.me.offset m) n n { r := true } = .ok pl
    let gives := fun (i : Instr) (r : Strand) => ∃ t, exec i s = .next t ∧ t.left r ∧ t.mem = s.mem ∧ t.fe = s.fe ∧
      t.hostMem = s.hostMem ∧ (t.lcore c).ls = (s.lcore c).ls ∧ ∀ k, k ≠ s.cur → t.strand k = s.strand k
    (ok (tyBytes ty) → gives (.ld g ty .plain ord sc d m) (s.me.ws d (BitVec.ofNat 64 (val (tyBytes ty))))) ∧
    (ok 16 → gives (.ld2 g ord sc d m)
      ((s.me.ws d (BitVec.ofNat 64 (val 16))).wsN (d.toNat + 1) (BitVec.ofNat 64 (val 16 / 2 ^ 64)))) ∧
    (s.onTask → ok 32 → gives (.qld g ord sc q m) { s.me with q := s.me.q.set 0 q.toNat (BitVec.ofNat 256 (val 32)) })

/-- R207, R208, R229, R243: a plain store writes its bytes where its offset lies and no other byte; a store to the send buffer appends
its words, or closes the packet, once no packet of its core is still to leave. A store that releases does so at its release's point. The
model's choices: a plain store that releases writes the L1 after its release (log 42), exec writes the words of an st2 and a
qst together, and a turn of the agenda lets some of them arrive later (log 113), and host memory takes a store at once (log 110). -/
def Obligations.StoresWriteTheirBytes : Prop :=
  ∀ (g : Guard) (ty : Ty) (ord : Ord) (sc : Scope) (r : SR) (q : QR) (m : MemOp) (pl : Place) (s : State),
    s.acts g → s.plainTask →
    let c := lcOf s.cur
    let o := s.me.offset m
    let l := s.lcore c
    (Ord.hasRel ord = true → s.cleanL1 c ∧ s.settled sc) →
    let stores := fun (i : Instr) (n x : Nat) =>
      s.locate s.cur s.me m o n n { w := true } = .ok pl →
      ∃ t, exec i s = .next t ∧ t.left s.me ∧
        (match pl with
          | .dev id off _ =>
            (∀ k, k < n → t.coreByte c id (off + k) = (leBytes n x).getD k 0) ∧
            (∀ id' off', byteKey id' off' < byteKey id off ∨ byteKey id off + n ≤ byteKey id' off' →
              t.coreByte c id' off' = s.coreByte c id' off') ∧ t.mem = s.mem ∧ (t.lcore c).ls = l.ls ∧ t.hostMem = s.hostMem
          | pl => t.placeNat c pl n = x % 2 ^ (8 * n) ∧ s.onlyPlace t c pl n)
    let sends := fun (i : Instr) (ws : List Word) =>
      let releases := Ord.hasRel ord && decide (sc ≠ .core)
      let u := if releases then s.relPoint sc else s
      m.sp = .mw → o.toNat ≤ 0x1FFF → o.toNat % 8 = 0 → s.closedPackets c = [] → l.sendBuf.length + ws.length ≤ 512 →
      (o.getLsbD 12 = false → exec i s =
        .next ((u.modLcore c fun x => { x with sendBuf := x.sendBuf ++ ws }).retired s.me)) ∧
      (o.getLsbD 12 = true → o.bits 11 3 < (s.ctx (ctxOfLc c)).lcount → exec i s =
        .next ((u.modLcore c fun x => { x with
          sendBuf := []
          closings := x.closings + 1
          closed := some ⟨coreOfLc c, o.bits 11 3, x.sendBuf ++ ws, releases, some s.cur, x.closings⟩ }).retired s.me))
    (m.sp ≠ .mw → stores (.st g ty .plain ord sc r m) (tyBytes ty) (s.me.rs r).toNat) ∧
    (m.sp ≠ .mw → stores (.st2 g ord sc r m) 16 ((s.me.rs r).toNat + 2 ^ 64 * (s.me.rsN (r.toNat + 1)).toNat)) ∧
    (s.onTask → stores (.qst g ord sc q m) 32 (s.me.q.get 0 q.toNat).toNat) ∧
    (ty.width = 64 → sends (.st g ty .plain ord sc r m) [s.me.rs r]) ∧
    sends (.st2 g ord sc r m) [s.me.rs r, s.me.rsN (r.toNat + 1)]

/-- R210, R211: a waiting form whose bit is as it wants it completes, sets the bit as its form says and refills LEFT; one whose bit is
not, spends one of LEFT and waits, and traps when LEFT is 0. That an unconditional fill refills LEFT is the model's choice (log 43). -/
def Obligations.FullEmptyFormsCompleteOrWait : Prop :=
  ∀ (g : Guard) (ty : Ty) (fe : Fe) (ord : Ord) (sc : Scope) (d r : SR) (m : MemOp) (pl : Place) (s : State),
    s.acts g → s.plainTask → (∀ a, pl ≠ .host a) → (∀ a, pl ≠ .rx a) →
    let c := lcOf s.cur
    s.cleanL1 c → s.settled .pkg →
    let n := tyBytes ty
    let o := s.me.offset m
    let waits := fun (i : Instr) (u : State) =>
      (s.me.feLeft ≠ 0 → ∃ t, exec i s = .next t ∧ t.me.feLeft = s.me.feLeft - 1 ∧ t.me.wait ≠ .none ∧ t.me.pc = s.me.pc ∧
        t.me.s = s.me.s ∧ t.mem = s.mem ∧ t.fe = s.fe ∧ (t.lcore c).ls = (s.lcore c).ls) ∧
      (s.me.feLeft = 0 → exec i s = .next (u.takeTrap s.cur 0x05
        ((if s.me.wait.ever then 32 else 0) + m.sp.code.toNat * 8 + fe.code.toNat) s.me.pc o))
    (fe = .wt ∨ fe = .cn → s.locate s.cur s.me m o n n (ldNeed fe) = .ok pl →
      (s.placeFull c pl = true → ∃ t, exec (.ld g ty fe ord sc d m) s = .next t ∧
        t.left (s.me.refill.ws d (BitVec.ofNat 64 (s.placeNat c pl n))) ∧ t.placeFull c pl = (fe == .wt) ∧
        t.placeNat c pl n = s.placeNat c pl n) ∧
      (s.placeFull c pl = false → waits (.ld g ty fe ord sc d m) (s.prepHome c pl n))) ∧
    (fe = .fl ∨ fe = .fu → m.sp ≠ .mw → s.locate s.cur s.me m o n n (stNeed fe) = .ok pl →
      (fe = .fu ∨ s.placeFull c pl = false → ∃ t, exec (.st g ty fe ord sc r m) s = .next t ∧
        t.left s.me.refill ∧ t.placeFull c pl = true ∧
        t.placeNat c pl n = (s.me.rs r).toNat % 2 ^ (8 * n) ∧ s.onlyPlace t c pl n) ∧
      (fe = .fl → s.placeFull c pl = true → waits (.st g ty fe ord sc r m) (s.prepHome c pl n)))

-- Atomics.

/-- R56, R218 to R221: an atomic reads its bytes at the home, leaves the new value there and no other byte changed, and delivers the
old value. One on a word of device memory whose line is dirty in the L1 first leaves every dirty byte of that line at its home, so that
the old value has the core's own plain stores, and the L1 then holds no byte of the word. -/
def Obligations.AtomicsActAtTheHome : Prop :=
  (∀ (g : Guard) (ty : Ty) (sc : Scope) (r : SR) (m : MemOp) (id off : Nat) (roc : Bool) (s : State),
    s.acts g → s.plainTask → ty.isInt = true →
    let c := lcOf s.cur
    let a := s.me
    let n := tyBytes ty
    let l1 := (s.lcore c).l1
    let key := byteKey id off
    let first := leNat ((List.range n).map fun i => match l1.get none (key + i) with
      | some ⟨b, true⟩ => b
      | _ => s.homeByte id (off + i))
    s.locate s.cur a m (a.offset m) n n rmwNeed = .ok (.dev id off roc) → off + n ≤ 2 ^ 40 → off % n = 0 →
    ∃ t, exec (.amoadd g ty .none sc r m) s = .next t ∧ t.left (a.ws r (BitVec.ofNat 64 first)) ∧
      t.homeNat id off n = (first + low ty.width (a.rs r)) % 2 ^ (8 * n) ∧
      (∀ i, i < n → (t.lcore c).l1.get none (key + i) = none) ∧
      (∀ k b, k / 64 = key / 64 → (k < key ∨ key + n ≤ k) → l1.get none k = some ⟨b, true⟩ →
        t.homeByte (k / 2 ^ 40) (k % 2 ^ 40) = b) ∧
      ∀ x, (∀ k, k / 64 = key / 64 → x ≠ s.pa (k / 2 ^ 40) (k % 2 ^ 40)) → Tab.get 0 t.mem x = Tab.get 0 s.mem x) ∧
  ∀ (g : Guard) (ty : Ty) (ord : Ord) (sc : Scope) (r : SR) (m : MemOp) (pl : Place) (s : State),
    s.acts g → s.plainTask → ty.isInt = true → s.cleanL1 (lcOf s.cur) → (Ord.hasRel ord = true → s.settled sc) →
    let c := lcOf s.cur
    let a := s.me
    let n := tyBytes ty
    let acts := fun (i : Instr) (n new : Nat) (regs : Strand) =>
      s.locate s.cur a m (a.offset m) n n rmwNeed = .ok pl →
      ∃ t, exec i s = .next t ∧ t.left regs ∧ t.placeNat c pl n = new % 2 ^ (8 * n) ∧ s.onlyPlace t c pl n
    let old := s.placeNat c pl n
    let x := low ty.width (a.rs r)
    let amo := fun (i : Instr) (new : Nat) => acts i n new (a.ws r (BitVec.ofNat 64 old))
    let old2 := s.placeNat c pl 16
    let sum := Num.fadd .f32 .rne (s.placeNat c pl 4) (low 32 (a.rs r))
    amo (.amoadd g ty ord sc r m) (old + x) ∧
    amo (.amoand g ty ord sc r m) (old &&& x) ∧
    amo (.amoor g ty ord sc r m) (old ||| x) ∧
    amo (.amoxor g ty ord sc r m) (old ^^^ x) ∧
    amo (.amomin g ty ord sc r m) (if sextN ty.width x < sextN ty.width old then x else old) ∧
    amo (.amomax g ty ord sc r m) (if sextN ty.width old < sextN ty.width x then x else old) ∧
    amo (.amominu g ty ord sc r m) (min old x) ∧
    amo (.amomaxu g ty ord sc r m) (max old x) ∧
    amo (.amoswap g ty ord sc r m) x ∧
    amo (.cas g ty ord sc r m) (if old = x then low ty.width (a.rsN (r.toNat + 1)) else old) ∧
    acts (.cas2 g ord sc r m) 16
      (if old2 = (a.rs r).toNat + 2 ^ 64 * (a.rsN (r.toNat + 1)).toNat
        then (a.rsN (r.toNat + 2)).toNat + 2 ^ 64 * (a.rsN (r.toNat + 3)).toNat else old2)
      ((a.ws r (BitVec.ofNat 64 old2)).wsN (r.toNat + 1) (BitVec.ofNat 64 (old2 / 2 ^ 64))) ∧
    acts (.amofadd g ord sc r m) 4 sum.code ((a.ws r (BitVec.ofNat 64 (s.placeNat c pl 4))).orFlags sum.fl)

/-- R95, R222, R223: xadd adds a finite value into its cell exactly; a zero is not sent and raises nothing, whatever it addresses; an
infinity or NaN is not sent and sets NV, or raises FP exception where NV is enabled, unless the capability or the alignment of its word
traps; xrd delivers the cell rounded, and raises FP exception where it would set an enabled flag, with nothing written. Which checks are
still made of an addend that is not sent, and that it neither releases nor acquires, is the model's choice (log 83). -/
def Obligations.CellWordsAddAndRead : Prop :=
  ∀ (g : Guard) (ty : Ty) (rm : Rc) (ord : Ord) (sc : Scope) (r : SR) (m : MemOp) (pl : Place) (s : State),
    s.acts g → s.plainTask → s.cleanL1 (lcOf s.cur) → (Ord.hasRel ord = true → s.settled sc) →
    let c := lcOf s.cur
    let a := s.me
    let v := Num.decode ty (low ty.width (a.rs r))
    let adds := fun (i : Instr) (n : Nat) (weight : Int) =>
      let place := s.locate s.cur a m (a.offset m) n n { w := true, a := true }
      (place = .ok pl → v.isNan = false → v.isInf = false → v.isZero = false →
        ∃ t, exec i s = .next t ∧ t.left a ∧ s.onlyPlace t c pl n ∧
          t.placeNat c pl n = wrapN (8 * n) ((s.placeNat c pl n : Int) + Num.cellAddend weight v)) ∧
      (v.isZero = true → exec i s = .next (s.retired a)) ∧
      (v.isNan = true ∨ v.isInf = true → (∀ x, place = .error x → x.code ≠ 0x02 ∧ x.code ≠ 0x04) →
        (s.quiet Num.NV → exec i s = .next (s.retired (a.orFlags Num.NV))) ∧
        (¬s.quiet Num.NV → exec i s = .next (s.takeTrap s.cur 0x07 Num.NV.toNat a.pc (wordOf i))))
    let reads := fun (i : Instr) (n : Nat) (weight : Int) =>
      s.locate s.cur a m (a.offset m) n n { r := true, a := true } = .ok pl →
      let z := Num.cellRound ty (a.mode rm) weight (sextN (8 * n) (s.placeNat c pl n))
      let u := if Ord.hasRel ord = true ∧ sc ≠ .core then s.relPoint sc else s
      (s.me.en = 0 ∨ s.quiet z.fl → ∃ t, exec i s = .next t ∧ t.left ((a.ws r (BitVec.ofNat 64 z.code)).orFlags z.fl) ∧ t.mem = s.mem ∧
        (t.lcore c).ls = (s.lcore c).ls) ∧
      (¬s.quiet z.fl → exec i s = .next (u.takeTrap s.cur 0x07 (z.fl &&& a.en).toNat a.pc (wordOf i)))
    adds (.xadd32 g ty ord sc r m) 64 160 ∧ adds (.xadd64 g ty ord sc r m) 512 1088 ∧
    reads (.xrd32 g ty rm ord sc r m) 64 160 ∧ reads (.xrd64 g ty rm ord sc r m) 512 1088

/-- R224, R225, R63, R477: a forwarded atomic acts at the home and sends the old value from its Pier; its fill, when no earlier one of
that Pier to that die is still under way, writes the target word and sets its bit. -/
def Obligations.ForwardedAtomicsFillTheirTargets : Prop :=
  ∀ (g : Guard) (ty : Ty) (ord : Ord) (sc : Scope) (r : SR) (m : MemOp) (pl : Place) (s : State) (j : Nat) (f : Fill),
    let c := lcOf s.cur
    let a := s.me
    let n := tyBytes ty
    let old := s.placeNat c pl n
    let x := low ty.width (a.rs r)
    let sends := fun (i : Instr) (tw : Word) (new : Nat) =>
      s.acts g → s.plainTask → ty.isInt = true → s.cleanL1 c → (Ord.hasRel ord = true → s.settled sc) →
      s.locateFwd a m n tw = .ok pl →
      ∃ t, exec i s = .next t ∧ t.left a ∧ t.placeNat c pl n = new % 2 ^ (8 * n) ∧ s.onlyPlace t c pl n ∧
        t.fills = s.fills ++ [⟨s.cur, mkLc (ctxOf s.cur) (tw.bits 56 48), tw.bits 18 0, BitVec.ofNat 64 old, s.pierAt pl⟩]
    let tw := a.rsN (r.toNat + 1)
    sends (.famoadd g ty ord sc r m) tw (old + x) ∧
    sends (.famoand g ty ord sc r m) tw (old &&& x) ∧
    sends (.famoor g ty ord sc r m) tw (old ||| x) ∧
    sends (.famoxor g ty ord sc r m) tw (old ^^^ x) ∧
    sends (.famomin g ty ord sc r m) tw (if sextN ty.width x < sextN ty.width old then x else old) ∧
    sends (.famomax g ty ord sc r m) tw (if sextN ty.width old < sextN ty.width x then x else old) ∧
    sends (.famoswap g ty ord sc r m) tw x ∧
    sends (.fcas g ty ord sc r m) (a.rsN (r.toNat + 2)) (if old = x then low ty.width tw else old) ∧
    (s.fills[j]? = some f → s.alive = true → (∀ g ∈ s.fills.take j, s.oneStream g f = false) → ∃ t, exec (.forwardedAtomicFill j) s = .next t ∧ t.fills.length + 1 = s.fills.length ∧
      (t.lcore f.lcore).lsBytes f.off 8 = leBytes 8 f.value.toNat ∧ (t.lcore f.lcore).lsFull f.off = true ∧
      s.onlyLs t f.lcore f.off 8 ∧ t.mem = s.mem)

-- Vector words.

/-- R242, R244, R247, R248: with EFMT = RFMT and no scales, a vld or vgath whose elements pass their checks moves the bits of each
active element of the shape from its place, and leaves every other element. In any formats, one whose elements set an enabled flag as
they are converted raises FP exception, and nothing is written. That exec reads the elements together, and a turn of the
agenda reads some of their words earlier, is the model's choice (log 113). -/
def Obligations.VectorLoadsMoveTheirElements : Prop :=
  ∀ (g : Guard) (sc : Scope) (q : QR) (d : VR) (m : MemOp) (rf : Ty) (ps : List Placed) (s : State), s.actsV g → s.plainTask →
    let c := lcOf s.cur
    let a := s.me
    let f := StreamF.of (a.q.get 0 q.toNat)
    let index := fun (e : Nat) => ((a.rv m.idx.toNat e).zeroExtend 64 <<< m.sc.toNat) + m.disp.signExtend 64
    let loads := fun (i : Instr) (indexed : Bool) =>
      f.vecOk false indexed d.toNat = true →
      s.placeElems a m { r := true } (velems f (a.mask g) (a.offset m) (if indexed then some index else none)) = .ok ps →
      (∀ ef into, f.efmt = some ef → f.rfmt = some into →
        s.vecTraps i (flagsOf ((s.readElems [] a c f.w .none .core ps).1.map fun x =>
          (x.1, loadElem f ef into (f.mode a.rm) x.2.1 x.2.2)))) ∧
      (f.efmt = some (.ty rf) → f.rfmt = some rf → f.skind = 0 → 8 ≤ rf.width → s.wholeL1 c → ∃ t, exec i s = .next t ∧ t.mem = s.mem ∧ t.me.s = a.s ∧ t.me.fpctl = a.fpctl ∧
        (∀ p, p ∈ ps → t.me.elem rf d p.e =
          leNat ((List.range (rf.width / 8)).map (s.seenByte c .none .core p.data p.n)) % 2 ^ rf.width) ∧
        ∀ e, e < 1024 → (∀ p, p ∈ ps → p.e ≠ e) → t.me.elem rf d e = a.elem rf d e)
    loads (.vld g .none sc q d m) false ∧ loads (.vgath g q d m) true

/-- R242, R245, R247, R248: the same of vst and vscat, for elements that do not overlap: the bytes of each active element of the shape
stand at its place as its core sees it, in the local store, in device memory or in host memory, and no other byte changes. A vst that
releases does so at its release's point. The model's choices: exec writes the elements together, and a turn of the agenda lets some words of
one arrive later (log 113), a vst that releases writes the L1 after its release (log 42), and host memory takes them at once (log
110). -/
def Obligations.VectorStoresMoveTheirElements : Prop :=
  ∀ (g : Guard) (ord : Ord) (sc : Scope) (q : QR) (r : VR) (m : MemOp) (rf : Ty) (ps : List Placed) (s : State),
    s.actsV g → s.plainTask →
    let c := lcOf s.cur
    let a := s.me
    let f := StreamF.of (a.q.get 0 q.toNat)
    let index := fun (e : Nat) => ((a.rv m.idx.toNat e).zeroExtend 64 <<< m.sc.toNat) + m.disp.signExtend 64
    let n := rf.width / 8
    let at_ := fun (p : Placed) => match p.data with
      | .dev id off _ => byteKey id off
      | .ls off => off
      | .rx off => off
      | .host x => x
    let byte := fun (u : State) (p : Placed) (i : Nat) => match p.data with
      | .dev id off _ => u.coreByte c id (off + i)
      | pl => u.placeByte c pl i
    let clear := fun (b : Nat) => ∀ p, p ∈ ps → b < at_ p ∨ at_ p + n ≤ b
    let stores := fun (i : Instr) (indexed : Bool) =>
      f.vecOk true indexed r.toNat = true →
      s.placeElems a m { w := true } (velems f (a.mask g) (a.offset m) (if indexed then some index else none)) = .ok ps →
      (∀ ef from_, f.efmt = some ef → f.rfmt = some from_ → (f.skind == 1 && partialBlock f (a.mask g)) = false →
        s.vecTraps i (storeCodes f ef from_ (f.mode a.rm) (fun e => a.elem from_ r e) (ps.map Placed.e)).2) ∧
      (f.efmt = some (.ty rf) → f.rfmt = some rf → f.skind = 0 → 8 ≤ rf.width →
        ps.Pairwise (fun x y => at_ x + n ≤ at_ y ∨ at_ y + n ≤ at_ x) →
        ∃ t, exec i s = .next t ∧ t.left a ∧ t.mem = s.mem ∧
          (∀ p, p ∈ ps → ∀ k, k < n → byte t p k = (leBytes n (a.elem rf r p.e)).getD k 0) ∧
          (∀ id off, (m.sp = .dev → clear (byteKey id off)) → t.coreByte c id off = s.coreByte c id off) ∧
          (∀ b, (m.sp = .ls → clear b) → (t.lcore c).ls.get 0 b = (s.lcore c).ls.get 0 b) ∧
          ∀ b, (m.sp = .host → clear b) → Tab.get 0 t.hostMem b = Tab.get 0 s.hostMem b)
    ((Ord.hasRel ord = true → s.cleanL1 c ∧ s.settled sc) → stores (.vst g ord sc q r m) false) ∧ stores (.vscat g q r m) true

/-- R81, R248, R250: the arithmetic words, element by element; one that sets an enabled flag raises FP exception with the enabled flags
of its active elements together, and writes nothing. -/
def Obligations.VectorArithmeticActsOnElements : Prop :=
  ∀ (g : Guard) (ty : Ty) (rm : Rc) (sat : Bool) (neg : BitVec 2) (d a cv : VR) (b : VB) (bv : VR) (s : State), s.actsV g →
    let w := ty.width
    let int := ty.isInt
    let x := fun (e : Nat) => s.me.elem ty a e
    let y := fun (e : Nat) => s.me.velem ty b e
    let xi := fun (e : Nat) => elemInt ty (x e)
    let yi := fun (e : Nat) => elemInt ty (y e)
    let lo : Int := if ty.isSigned then -2 ^ (w - 1) else 0
    let hi : Int := if ty.isSigned then 2 ^ (w - 1) - 1 else 2 ^ w - 1
    let cut := fun (z : Int) => if sat then max lo (min hi z) else z
    let gives := fun (i : Instr) (f : Nat → Num.Res) => s.vecWord i g ty d f
    let bits := fun (i : Instr) (f : Nat → Nat) => s.vecWord i g ty d fun e => ⟨f e, 0⟩
    let m := s.me.mode rm
    gives (.vadd g ty rm sat d a b) (fun e => if int then ⟨wrapN w (cut (xi e + yi e)), 0⟩ else Num.fadd ty m (x e) (y e)) ∧
    gives (.vsub g ty rm sat d a b) (fun e => if int then ⟨wrapN w (cut (xi e - yi e)), 0⟩ else Num.fsub ty m (x e) (y e)) ∧
    gives (.vmul g ty rm d a b) (fun e => if int then ⟨wrapN w (xi e * yi e), 0⟩ else Num.fmul ty m (x e) (y e)) ∧
    gives (.vfma g ty rm neg d a bv cv) (fun e => Num.fma ty m neg (x e) (s.me.elem ty bv e) (s.me.elem ty cv e)) ∧
    gives (.vmin g ty d a b) (fun e => if int then ⟨if xi e < yi e then x e else y e, 0⟩ else Num.fminmax ty false (x e) (y e)) ∧
    gives (.vmax g ty d a b) (fun e => if int then ⟨if xi e < yi e then y e else x e, 0⟩ else Num.fminmax ty true (x e) (y e)) ∧
    bits (.vabs g ty d a) (fun e => if int then wrapN w |xi e| else x e % 2 ^ (w - 1)) ∧
    bits (.vneg g ty d a) (fun e => if int then wrapN w (-xi e) else Num.fneg ty (x e)) ∧
    bits (.vand g ty d a b) (fun e => x e &&& y e) ∧
    bits (.vor g ty d a b) (fun e => x e ||| y e) ∧
    bits (.vxor g ty d a b) (fun e => x e ^^^ y e) ∧
    bits (.vshl g ty d a b) (fun e => x e * 2 ^ (y e % w)) ∧
    bits (.vshr g ty d a b) (fun e => wrapN w (xi e / (2 ^ (y e % w) : Nat)))

/-- R81, R248, R251 to R253, R257 to R260, each trapping as a flag it sets is enabled: comparison, selection, conversion, single values,
accumulators and special functions. An accumulator of a floating-point format takes the exact sum of what it held (but for .z) and the
exact product, rounded once; the quiet NaN, with NV, of a signalling operand. A special function gives the values of R260 for NaN,
infinities, zeros and negative values, and is exact with no flag for powers of two (vexp2 for integers) whose result is in range; vrcp is
within 0.502 ulp of the exact value, with NX where it differs. The code that a special function gives where the rule bounds it alone,
and the evaluation of 2^x, log2 x and 1/√x where they are no such power, are the model's choice (log 13). -/
def Obligations.VectorMovesAndConversions : Prop :=
  (∀ (ty u : Ty) (f h : Num.Fmt) (m : Num.Mode) (zf : Bool) (a b : Nat) (acc : Word), Num.Fmt.of ty = some f → Num.Fmt.of u = some h →
    h.inf = true → u ≠ .i64 →
    let x := Num.decode ty a
    let y := Num.decode ty b
    let z := Num.decode u (acc.toNat % 2 ^ u.width)
    let quiet := (2 ^ h.eb - 1) * 2 ^ h.m + 2 ^ (h.m - 1)
    (x.Finite → y.Finite → z.Finite ∨ zf = true → macElem ty u m zf a b acc =
      Num.conv u m (Num.sumExact m (if zf then [Num.prod x y] else [z, Num.prod x y])).1) ∧
    (x.isNan = true ∨ y.isNan = true ∨ (zf = false ∧ z.isNan = true) → (macElem ty u m zf a b acc).code = quiet) ∧
    (x.isSnan = true ∨ y.isSnan = true ∨ (zf = false ∧ z.isSnan = true) → (macElem ty u m zf a b acc).fl = Num.NV) ∧
    (x.isInf = true → y.isZero = true → macElem ty u m true a b acc = ⟨quiet, Num.NV⟩)) ∧
  (∀ (ty : Ty) (f : Num.Fmt) (a : Nat) (k : Int), ty ∈ [Ty.f64, .f32, .bf16, .f16] → Num.Fmt.of ty = some f →
    let x := Num.decode ty a
    let v := x.real
    let inf := (2 ^ f.eb - 1) * 2 ^ f.m
    let quiet := inf + 2 ^ (f.m - 1)
    let minus := 2 ^ (f.m + f.eb)
    let sg := if x.neg? then minus else 0
    let ev := fun (fn : Num.Fn) => Num.Fn.eval fn ty a
    let exact := fun (fn : Num.Fn) (q : ℚ) =>
      (Num.decode ty (ev fn).code).Finite ∧ (Num.decode ty (ev fn).code).real = q ∧ (ev fn).fl = 0
    let inRange := fun (j : Int) => f.emin - f.m ≤ j ∧ j ≤ f.bias
    (x.isNan = true → ∀ fn, ev fn = ⟨quiet, if x.isSnan then Num.NV else 0⟩) ∧
    (x.isInf = true → ev .exp2 = ⟨if x.neg? then 0 else inf, 0⟩ ∧ ev .rcp = ⟨sg, 0⟩ ∧
      ev .log2 = (if x.neg? then ⟨quiet, Num.NV⟩ else ⟨inf, 0⟩) ∧ ev .rsqrt = if x.neg? then ⟨quiet, Num.NV⟩ else ⟨0, 0⟩) ∧
    (x.isZero = true → ev .exp2 = ⟨f.bias * 2 ^ f.m, 0⟩ ∧ ev .log2 = ⟨minus + inf, Num.DZ⟩ ∧ ev .rcp = ⟨sg + inf, Num.DZ⟩ ∧
      ev .rsqrt = ⟨sg + inf, Num.DZ⟩) ∧
    (x.Finite → v < 0 → ev .log2 = ⟨quiet, Num.NV⟩ ∧ ev .rsqrt = ⟨quiet, Num.NV⟩) ∧
    (x.Finite → (v = k → inRange k → exact .exp2 (2 ^ k)) ∧ (v = 2 ^ k → exact .log2 k) ∧
      (|v| = 2 ^ k → inRange (-k) → exact .rcp (1 / v)) ∧ (v = 2 ^ (2 * k) → exact .rsqrt (2 ^ (-k)))) ∧
    (x.Finite → v ≠ 0 →
      let r := Num.decode ty (ev .rcp).code
      r.Finite → |r.real - 1 / v| ≤ 502 / 1000 * 2 ^ (max (Int.log 2 |1 / v|) f.emin - f.m) ∧
        (r.real ≠ 1 / v → (ev .rcp).fl &&& Num.NX = Num.NX))) ∧
  ∀ (g : Guard) (cc : Cond) (ty u : Ty) (rm : Rc) (z : Bool) (d a bv : VR) (b : VB) (p : PR) (ra rb : SR) (ar : AR) (s : State),
    s.actsV g →
    let m := s.me.mask g
    let x := fun (e : Nat) => s.me.elem ty a e
    let y := fun (e : Nat) => s.me.velem ty b e
    let i := (s.me.rs rb).bits 9 0
    let cond := fun (e : Nat) =>
      if ty.isInt then (Cond.holdsElem cc (elemInt ty (x e)) (elemInt ty (y e)), (0 : Num.Flags))
      else Cond.holdsFp cc (Num.decode ty (x e)) (Num.decode ty (y e))
    let cfl := s.vecFlags g fun e => ⟨0, (cond e).2⟩
    let mac := fun (e : Nat) => macElem ty u (s.me.mode rm) z (x e) (s.me.elem ty bv e) (s.me.acc ar e)
    (s.me.en = 0 ∨ s.quiet cfl → ∃ t, exec (.vcmp g cc ty p a b) s = .next t ∧ t.me.fpctl = s.me.fpctl ||| cfl.zeroExtend 64 ∧
      ∀ e, e < 1024 → t.me.rpBit p e = if p = 0 then true else if m.getLsbD e then (cond e).1 else s.me.rpBit p e) ∧
    s.vecTraps (.vcmp g cc ty p a b) cfl ∧
    s.vecWord (.vsel g ty d p a bv) g ty d (fun e => ⟨if s.me.rpBit p e then x e else s.me.elem ty bv e, 0⟩) ∧
    s.vecWord (.vcvt g ty u rm d a) g ty d (fun e => Num.fcvt ty u (s.me.mode rm) (s.me.elem u a e)) ∧
    s.vecWord (.vdup g ty d ra) g ty d (fun _ => ⟨low ty.width (s.me.rs ra), 0⟩) ∧
    (∃ t, exec (.vins g ty d ra rb) s = .next t ∧ t.me.fpctl = s.me.fpctl ∧ t.me.s = s.me.s ∧
      ∀ e, e < 1024 → t.me.elem ty d e =
        if e = i ∧ m.getLsbD i = true then low ty.width (s.me.rs ra) else s.me.elem ty d e) ∧
    (∃ t, exec (.vext g ty ra a rb) s = .next t ∧
      t.left (if m.getLsbD i then s.me.ws ra (BitVec.ofNat 64 (x i)) else s.me)) ∧
    s.vecWord (.vexp2 g ty d a) g ty d (fun e => Num.Fn.eval .exp2 ty (x e)) ∧
    s.vecWord (.vlog2 g ty d a) g ty d (fun e => Num.Fn.eval .log2 ty (x e)) ∧
    s.vecWord (.vrcp g ty d a) g ty d (fun e => Num.Fn.eval .rcp ty (x e)) ∧
    s.vecWord (.vrsqrt g ty d a) g ty d (fun e => Num.Fn.eval .rsqrt ty (x e)) ∧
    (s.me.en = 0 ∨ s.quiet (s.vecFlags g mac) → ∃ t, exec (.vmac g ty u rm z ar a bv) s = .next t ∧
      t.me.fpctl = s.me.fpctl ||| (s.vecFlags g mac).zeroExtend 64 ∧ t.me.v = s.me.v ∧
      ∀ e, e < 1024 → t.me.acc ar e = if m.getLsbD e then BitVec.ofNat 64 (mac e).code else s.me.acc ar e) ∧
    s.vecTraps (.vmac g ty u rm z ar a bv) (s.vecFlags g mac) ∧
    (u = .i64 → ∀ e, (mac e).code =
      wrapN 64 ((if z then 0 else ((s.me.acc ar e).toNat : Int)) + elemInt ty (x e) * elemInt ty (s.me.elem ty bv e))) ∧
    s.vecWord (.vnarr g ty u rm d ar) g ty d (fun e => Num.fcvt ty u (s.me.mode rm) ((s.me.acc ar e).toNat % 2 ^ u.width))

/-- R254: the axis words move 32-bit elements. -/
def Obligations.AxisWordsMoveElements : Prop :=
  ∀ (g : Guard) (d a : VR) (b : SR) (s : State), s.actsV g →
    let k : Int := (s.me.rs b).toNat
    let at_ := fun (r c : Int) => (s.me.rv a.toNat (64 * r + c).toNat).toNat
    let moves := fun (i : Instr) (f : Int → Int → Nat) =>
      s.vecWord i g .i32 d fun e => ⟨f ((e / 64 : Nat) : Int) ((e % 64 : Nat) : Int), 0⟩
    moves (.vrotr g d a b) (fun r c => at_ r ((c - k) % 64)) ∧
    moves (.vrotc g d a b) (fun r c => at_ ((r - k) % 16) c) ∧
    moves (.vbcr g d a b) (fun r _ => at_ r (k % 64)) ∧
    moves (.vbcc g d a b) (fun _ c => at_ (k % 16) c) ∧
    moves (.vtrnr g d a) (fun r c => at_ (c % 16) (16 * (c / 16) + r)) ∧
    moves (.vtrnc g d a) (fun r c => at_ (c % 16) (4 * r + c / 16))

/-- R255: each active element of a row or column takes the reduction of the active elements of it: the sum of integers mod 2^w; the
floating-point sum, exact and rounded once whatever the order, a signalling NaN and ∞ − ∞ giving the quiet NaN with NV; the least or
greatest, one of the operands, by value and −0 below +0, quiet NaNs passed over; and the bitwise ones. R256: one step of a bitonic
network, by the operand word and the order that the rule gives. -/
def Obligations.ReductionsAndCompareExchange : Prop :=
  (∀ (ty : Ty) (m : Num.Mode) (mx : Bool) (xs : List Nat), ty.isInt = true → xs ≠ [] →
    let r := reduce (if mx then .max else .min) ty m xs
    reduce .sum ty m xs = ⟨wrapN ty.width (xs.map (elemInt ty)).sum, 0⟩ ∧
    (r.fl = 0 ∧ r.code ∈ xs ∧ ∀ x, x ∈ xs → if mx then elemInt ty x ≤ elemInt ty r.code else elemInt ty r.code ≤ elemInt ty x) ∧
    ∀ i, i < ty.width →
      (reduce .and ty m xs).code.testBit i = (xs.all fun x => x.testBit i) ∧
      (reduce .or ty m xs).code.testBit i = (xs.any fun x => x.testBit i) ∧
      (reduce .xor ty m xs).code.testBit i = decide ((xs.filter fun x => x.testBit i).length % 2 = 1)) ∧
  (∀ (ty : Ty) (f : Num.Fmt) (m : Num.Mode) (mx : Bool) (xs ys : List Nat), Num.Fmt.of ty = some f → f.inf = true → xs ≠ [] →
    let v := Num.decode ty
    let vs := xs.map v
    let op := if mx then Red.max else .min
    let r := reduce op ty m xs
    let quiet := (2 ^ f.eb - 1) * 2 ^ f.m + 2 ^ (f.m - 1)
    (xs.Perm ys → reduce .sum ty m ys = reduce .sum ty m xs) ∧
    ((∀ x, x ∈ vs → x.Finite) → reduce .sum ty m xs = Num.conv ty m (Num.sumExact m vs).1) ∧
    ((∃ x, x ∈ vs ∧ x.isSnan = true) → reduce .sum ty m xs = ⟨quiet, Num.NV⟩ ∧ r = ⟨quiet, Num.NV⟩) ∧
    (.inf false ∈ vs → .inf true ∈ vs → (∀ x, x ∈ vs → x.isNan = false) → reduce .sum ty m xs = ⟨quiet, Num.NV⟩) ∧
    ((∀ x, x ∈ vs → x.isSnan = false) →
      ((∃ x, x ∈ vs ∧ x.isNan = true) → reduce .sum ty m xs = ⟨quiet, 0⟩) ∧
      ((∀ x, x ∈ vs → x.isNan = true) → r = ⟨quiet, 0⟩) ∧
      ((∃ x, x ∈ vs ∧ x.isNan = false) → r.fl = 0 ∧ r.code ∈ xs ∧ (v r.code).isNan = false ∧
        ∀ x, x ∈ vs → x.isNan = false → (if mx then x.place ≤ (v r.code).place else (v r.code).place ≤ x.place) ∧
          (x.isZero = true → (v r.code).isZero = true → x.neg? = !mx → (v r.code).neg? = !mx)))) ∧
  (∀ (ty : Ty) (f : Num.Fmt) (x y j k : Nat) (w : Word),
    (vcxOperand w = some (j, k) ↔
      w.toNat = k * 2 ^ 16 + j ∧ (∃ i, i < 10 ∧ j = 2 ^ i) ∧ (k = 0 ∨ ∃ i, i ≤ 10 ∧ k = 2 ^ i ∧ j < k)) ∧
    (ty.isInt = true → vcxGreater ty x y = decide (elemInt ty y < elemInt ty x)) ∧
    (Num.Fmt.of ty = some f → f.inf = true →
      let a := Num.decode ty x
      let b := Num.decode ty y
      (b.isNan = true → vcxGreater ty x y = false) ∧ (a.isNan = true → b.isNan = false → vcxGreater ty x y = true) ∧
      (a.isNan = false → b.isNan = false → (vcxGreater ty x y = true ↔
        b.place < a.place ∨ (a.isZero = true ∧ b.isZero = true ∧ b.neg? = true ∧ a.neg? = false))))) ∧
  ∀ (g : Guard) (op : Red) (ty : Ty) (rm : Rc) (dn : Bool) (d a : VR) (b : SR) (s : State), s.actsV g →
    let m := s.me.mask g
    let red := fun (es : List Nat) =>
      reduce op ty (s.me.mode rm) ((es.filter fun e => m.getLsbD e).map fun e => s.me.elem ty a e)
    let w := s.me.rs b
    let j := w.bits 9 0
    let k := w.bits 26 16
    let value := fun (e : Nat) =>
      let lo := if e &&& j = 0 then e else e - j
      let up := (k == 0 || lo &&& k == 0) != dn
      let x := s.me.elem ty a lo
      let y := s.me.elem ty a (lo + j)
      let swap := if up then vcxGreater ty x y else vcxGreater ty y x
      if m.getLsbD lo && m.getLsbD (lo + j) then (if (e == lo) != swap then x else y) else s.me.elem ty d e
    s.vecWord (.vredr g op ty rm d a) g ty d (fun e => red ((List.range 64).map (64 * (e / 64) + ·))) ∧
    s.vecWord (.vredc g op ty rm d a) g ty d (fun e => red ((List.range 16).map (64 * · + e % 64))) ∧
    (vcxOperand w = some (j, k) → ∃ t, exec (.vcx g dn ty d a b) s = .next t ∧ t.me.fpctl = s.me.fpctl ∧ t.me.s = s.me.s ∧
      ∀ e, e < 1024 → t.me.elem ty d e = value e % 2 ^ ty.width) ∧
    (vcxOperand w = none → exec (.vcx g dn ty d a b) s =
      .next (s.takeTrap s.cur 0x01 7 s.me.pc (wordOf (.vcx g dn ty d a b))))

-- Queues, templates, slots.

/-- R29 to R31, R66, R154, R234, R291, R325: a push to an absent queue, to one with FAULT, of an illegal entry, or in a versioned task
traps. A push to a present queue with no FAULT and room is accepted when no strand waits before it: its entry
stands behind the others with the next sequence number, and of device memory only the deferred regions of its strand's node go home. A
push that waited is accepted once an entry has been started; one without room, or behind a strand that waits, waits. -/
def Obligations.PushesAreAccepted : Prop :=
  ∀ (g : Guard) (sr : SR) (imm : BitVec 32) (qn : BitVec 4) (code : BitVec 8) (s : State) (n : Nat),
    let c := lcOf s.cur
    let major := (s.me.rs sr).truncate 32 ++ imm
    qn.toNat ≤ 5 →
    let words : List (Instr × Nat × Nat × Word × Bool) :=
      [(.qpush g qn sr code, qn.toNat, code.toNat, s.me.rs sr, false),
       (.mld g sr imm, 1, 0xD0, major, true), (.mldt g sr imm, 1, 0xD1, major, true),
       (.mmul g sr imm, 2, 0xD2, major, false), (.mmulZ g sr imm, 2, 0xD3, major, false),
       (.mmsp g sr imm, 2, 0xD4, major, false), (.mmspZ g sr imm, 2, 0xD5, major, false),
       (.mrel g sr imm, 2, 0xD6, major, false), (.mzero g sr imm, 2, 0xD7, major, false),
       (.mst g sr imm, 3, 0xD8, major, true), (.mfill g sr imm, 3, 0xD9, major, false),
       (.gsprobe g sr imm, 4, 0xE0, major, false), (.gsinsert g sr imm, 4, 0xE1, major, false),
       (.gsclear g sr imm, 4, 0xE2, major, false), (.gsgather g sr imm, 4, 0xE3, major, false),
       (.gsscadd g sr imm, 4, 0xE4, major, false), (.gsrules g sr imm, 4, 0xE5, major, false),
       (.gssegsum g sr imm, 4, 0xE6, major, false), (.gscompact g sr imm, 4, 0xE7, major, false),
       (.sosort g sr imm, 5, 0xE8, major, false), (.somerge g sr imm, 5, 0xE9, major, false),
       (.sotopk g sr imm, 5, 0xEA, major, false), (.sothresh g sr imm, 5, 0xEB, major, false),
       (.sosums g sr imm, 5, 0xEC, major, false), (.sogather g sr imm, 5, 0xED, major, false),
       (.cpcopy g sr imm, 0, 0xF0, major, false), (.cpset g sr imm, 0, 0xF1, major, false),
       (.cpfe g sr imm, 0, 0xF2, major, false), (.cpstride g sr imm, 0, 0xF3, major, false),
       (.cpprf g sr imm, 0, 0xF4, major, false), (.cpwb g sr imm, 0, 0xF5, major, false),
       (.cpsig g sr imm, 0, 0xF6, major, false)]
    let taken := fun (t : State) (q code : Nat) (entry : Word) =>
      t.left s.me ∧ (∃ x, (t.queue c q).cmds = (s.queue c q).cmds ++ [x] ∧ x.code = code ∧ x.entry = entry ∧
        x.seq = (s.queue c q).nextSeq) ∧
      (t.queue c q).nextSeq = (s.queue c q).nextSeq + 1 ∧ (∀ k, k ≠ s.cur → t.strand k = s.strand k) ∧
      t.mem = (s.regionsHome s.cur).mem
    ∀ x, x ∈ words →
      let own := s.acts g ∧ (x.2.2.2.2 = true → s.onTask)
      let traps := fun (code detail : Nat) (val : Word) => exec x.1 s = .next (s.takeTrap s.cur code detail s.me.pc val)
      let here := s.queuePresent c x.2.1 = true
      let bad := Push.illegal ⟨x.2.1, x.2.2.1, sr, x.2.2.2.1⟩ s.cur = true
      (own → ¬s.plainTask → traps 0x09 0x04 (wordOf x.1)) ∧
      (own → s.plainTask → ¬here → traps 0x08 0x01 (BitVec.ofNat 64 x.2.1)) ∧
      (own → s.plainTask → here → (s.queue c x.2.1).fault = true → traps 0x08 0x02 (BitVec.ofNat 64 x.2.1)) ∧
      (own → s.plainTask → here → (s.queue c x.2.1).fault = false → bad → traps 0x01 7 (wordOf x.1)) ∧
      (s.plainTask → here → (s.queue c x.2.1).fault = false → ¬bad →
      let room := (s.queue c x.2.1).cmds.length < 32 ∧ s.portFree s.cur x.2.1 true = true
      (room → own → ∃ t, exec x.1 s = .next t ∧ taken t x.2.1 x.2.2.1 x.2.2.2.1) ∧
      (room → n < 5 → s.cur = mkStrand c n → s.inWork s.cur = true → s.me.wait = .push x.1 →
        ∃ t, exec (.pushAcceptance c n) s = .next t ∧ taken t x.2.1 x.2.2.1 x.2.2.2.1) ∧
      (¬room → own → exec x.1 s = .next (s.held (.push x.1))))

/-- R29, R235, R236, R237, R31: pops and peeks deliver the oldest response entry, wait when there is none or a strand waits before them,
and trap on an absent queue or one with FAULT; a waiting one completes when an entry has arrived; qstat reads the status of R28; qclr
clears a fault at supervisor privilege. -/
def Obligations.PopsStatusAndClears : Prop :=
  ∀ (g : Guard) (d : SR) (q : BitVec 4) (e : Word) (rest : List Word) (n : Nat) (s : State),
    let c := lcOf s.cur
    q.toNat ≤ 5 →
    let x := s.queue c q.toNat
    let here := s.queuePresent c q.toNat = true
    let first := s.portFree s.cur q.toNat false = true
    let got := fun (t : State) (resp : List Word) =>
      t.left (s.me.ws d e) ∧ (t.queue c q.toNat).resp = resp ∧ (t.queue c q.toNat).cmds = x.cmds ∧ t.mem = s.mem
    (here → first → x.fault = false → x.resp = e :: rest →
      (s.acts g → (∃ t, exec (.qpop g d q) s = .next t ∧ got t rest) ∧
        (∃ t, exec (.qpeek g d q) s = .next t ∧ got t (e :: rest))) ∧
      (n < 5 → s.cur = mkStrand c n → s.inWork s.cur = true →
        (s.me.wait = .pop (.qpop g d q) → ∃ t, exec (.popDelivery c n) s = .next t ∧ got t rest) ∧
        (s.me.wait = .pop (.qpeek g d q) → ∃ t, exec (.popDelivery c n) s = .next t ∧ got t (e :: rest)))) ∧
    (here → x.fault = false → x.resp = [] ∨ ¬first → s.acts g →
      exec (.qpop g d q) s = .next (s.held (.pop (.qpop g d q))) ∧
      exec (.qpeek g d q) s = .next (s.held (.pop (.qpeek g d q)))) ∧
    (∀ i, i = .qpop g d q ∨ i = .qpeek g d q → s.acts g →
      (¬here → exec i s = .next (s.takeTrap s.cur 0x08 0x01 s.me.pc (BitVec.ofNat 64 q.toNat))) ∧
      (here → x.fault = true → exec i s = .next (s.takeTrap s.cur 0x08 0x02 s.me.pc (BitVec.ofNat 64 q.toNat)))) ∧
    (s.acts g → exec (.qstat g d q) s = .next (s.retired (s.me.ws d
      (if s.queuePresent c q.toNat then BitVec.ofNat 64 (x.doneSeq.bits 31 0 * 2 ^ 32 + x.resp.length * 2 ^ 16 +
        x.cmds.length * 2 ^ 8 + (if x.fault then 2 else 0) + (if x.stall then 1 else 0)) else 4)))) ∧
    (s.acts g → s.me.super = true → here → x.fault = true → ∃ t, exec (.qclr g q) s = .next t ∧ t.left s.me ∧
      (t.queue c q.toNat).fault = false ∧ (t.queue c q.toNat).stall = false ∧ (t.queue c q.toNat).cmds = [] ∧
      (t.queue c q.toNat).resp = x.resp ∧ (t.queue c q.toNat).doneSeq = x.doneSeq) ∧
    (s.acts g → s.me.super = true → (here → x.fault = false) → exec (.qclr g q) s = .next (s.retired s.me)) ∧
    (s.acts g → s.me.super = false →
      exec (.qclr g q) s = .next (s.takeTrap s.cur 0x0A 3 s.me.pc (wordOf (.qclr g q))))

/-- R30, R315, R316, R322: mtset writes a template and mtget reads a half of it; mclaim claims the lowest free run of virtual numbers; a
claim that is refused gives none, and one on a core without the engine traps. -/
def Obligations.TemplatesAndClaims : Prop :=
  ∀ (g : Guard) (n : TR) (d sr : SR) (hf : BitVec 1) (pd : PR) (k : BitVec 8) (v : Nat) (s : State), s.acts g →
    let c := lcOf s.cur
    let old := (s.lcore c).templates.get 0 n.toNat
    let m := (s.lcore c).mx
    let apart := fun (v : Nat) => v + k.toNat ≤ 128 ∧ ∀ i, i < k.toNat → (m.slot (v + i)).st = .free
    (∃ t, exec (.mtset g n d sr) s = .next t ∧ t.left s.me ∧
      (t.lcore c).templates.get 0 n.toNat = s.me.rs d ++ s.me.rs sr ∧
      ∀ j, j ≠ n.toNat → (t.lcore c).templates.get 0 j = (s.lcore c).templates.get 0 j) ∧
    exec (.mtget g d n hf) s =
      .next (s.retired (s.me.ws d (BitVec.ofNat 64 (old.toNat / 2 ^ (64 * hf.toNat) % 2 ^ 64)))) ∧
    (s.queuePresent c 1 = true → s.canClaim c k.toNat = true → apart v → (∀ u, u < v → ¬apart u) →
      ∃ t, exec (.mclaim g d pd k) s = .next t ∧ t.left ((s.me.ws d (BitVec.ofNat 64 v)).wp pd (BitVec.allOnes 1024)) ∧
        (∀ i, i < k.toNat → ((t.lcore c).mx.slot (v + i)).st = .claimed) ∧
        ∀ j, j < v ∨ v + k.toNat ≤ j → (t.lcore c).mx.slot j = m.slot j) ∧
    (s.queuePresent c 1 = true → s.canClaim c k.toNat = false ∨ (∀ u, ¬apart u) →
      exec (.mclaim g d pd k) s = .next (s.retired ((s.me.ws d 0).wp pd 0))) ∧
    (s.queuePresent c 1 = false → exec (.mclaim g d pd k) s = .next (s.takeTrap s.cur 0x08 0x01 s.me.pc 1))

-- Waiting strands and packets between cores.

/-- R210, R211, R214, R228: a retry makes one more attempt of the waiting form, and of a barw wait it counts one more failed attempt; a
wake notice, the first of its Pier, readies the strands whose park records name the word and whose form the new bit could satisfy, and
unlinks their records. -/
def Obligations.WaitersRetryAndWake : Prop :=
  ∀ (g : Guard) (ty : Ty) (fe : Fe) (ord : Ord) (sc : Scope) (r : SR) (m : MemOp) (off : Word) (f k n : Nat) (ev : Bool) (pl : Place)
      (x : Notice) (s : State),
    let c := lcOf s.cur
    let bytes := tyBytes ty
    let here := k < 5 ∧ s.cur = mkStrand c k ∧ s.inWork s.cur = true
    let full := s.placeFull c pl = true
    (here → ∀ b, s.me.wait = .bar b f false → exec (.feRetryAttempt c k) s = .next (s.held (s.me.barWait b (f + 1)))) ∧
    (here → s.plainTask → s.cleanL1 c → s.settled .pkg → (∀ a, pl ≠ .host a) → (∀ a, pl ≠ .rx a) → m.sp ≠ .mw →
      (fe = .wt ∨ fe = .cn → s.me.wait = .fe (.ld g ty fe ord sc r m) off f false ev →
        s.locate s.cur s.me m (s.me.offset m) bytes bytes (ldNeed fe) = .ok pl → full →
        ∃ t, exec (.feRetryAttempt c k) s = .next t ∧
          t.left (s.me.refill.ws r (BitVec.ofNat 64 (s.placeNat c pl bytes))) ∧ t.placeFull c pl = (fe == .wt)) ∧
      (s.me.wait = .fe (.st g ty .fl ord sc r m) off f false ev →
        s.locate s.cur s.me m (s.me.offset m) bytes bytes (stNeed .fl) = .ok pl → ¬full →
        ∃ t, exec (.feRetryAttempt c k) s = .next t ∧ t.left s.me.refill ∧ t.placeFull c pl = true ∧
          t.placeNat c pl bytes = (s.me.rs r).toNat % 2 ^ (8 * bytes))) ∧
    (s.notices[n]? = some x → s.alive = true → (∀ y, y ∈ s.notices.take n → y.pier ≠ x.pier) →
      let wakes := fun (i : Nat) => ∃ e, e ∈ s.ctxs ∧ ∃ j, j ∈ e.2.parked ∧ i = mkStrand (mkLc e.1 (j / 5)) (j % 5) ∧
        x.wakes e.2 j = true
      ∃ t, exec (.wakeNotice n) s = .next t ∧ t.notices.length + 1 = s.notices.length ∧ t.mem = s.mem ∧ t.fe = s.fe ∧
        (∀ i, wakes i → (t.strand i).wait = (s.strand i).wait.ready) ∧ (∀ i, ¬wakes i → t.strand i = s.strand i) ∧
        ∀ y j, j < 1600 → j ∈ (s.ctx y).parked → (y, s.ctx y) ∈ s.ctxs → x.wakes (s.ctx y) j = true →
          (t.ctx y).parkValid j = false)

/-- R52, R62, R230, R231: a packet that has not left leaves in its turn when its receiver's window has room for all its words, and the
send buffer is free again; else it stays. The handler strand starts on the oldest packet, with an acquire when its closing store
released. -/
def Obligations.PacketsReachTheirHandlers : Prop :=
  ∀ (c : Nat) (p : Packet) (rest : List Packet) (s : State),
    let x := ctxOfLc c
    let d := mkLc x p.dest
    let l := s.lcore c
    let h := mkStrand c 4
    let fits := ((s.lcore d).window.map fun q => q.words.length).sum + p.words.length ≤ 512
    (s.alive = true → (s.ctx x).st = .running → s.unsent c = [p] → s.inTurn c p = true → fits →
      ∃ t, exec (.packetDeparture c) s = .next t ∧ t.unsent c = [] ∧
        (t.lcore d).window = (s.lcore d).window ++ [p] ∧
        ∀ k, k < 5 → (∃ i, (s.strand (mkStrand c k)).wait = .send i) → (t.strand (mkStrand c k)).wait = .none) ∧
    (s.unsent c = [p] → s.inTurn c p = false ∨ ¬fits → exec (.packetDeparture c) s = .next s) ∧
    (s.coreRuns c = true → l.window = p :: rest → l.handler.getLsbD 0 = true → (s.strand h).active = false →
      (s.strand h).stopped = false →
      ∃ t, exec (.handlerStart c) s = .next t ∧ (t.strand h).active = true ∧ (t.strand h).wait = .none ∧
        (t.strand h).pc = (l.handler &&& ~~~7) ∧ (t.strand h).super = false ∧ (t.strand h).inTrap = false ∧
        (t.lcore c).msgInfo = BitVec.ofNat 64 (p.sender * 2 ^ 32 + p.words.length) ∧ (t.lcore c).window = l.window ∧
        (t.strand h).s = (s.strand h).s ∧ (t.lcore c).l1 = (if p.rel then l.invalidate.l1 else l.l1))

-- Engine commands.

/-- R299 to R304: copy commands on one aligned word of the local store of their own core. The word is copied, set, filled or emptied,
DONESEQ is the command's number, and no other byte changes. A prefetch of any source, of which a peer is one of the logical cores of the
context, changes nothing; a write-back of a line puts its dirty bytes at their homes. That a cpprf whose source is not device memory does
nothing and completes is the model's choice (log 84). -/
def Obligations.CopyCommandsComplete : Prop :=
  ∀ (c : Nat) (cmd : Cmd) (rest : List Cmd) (s : State), s.head c 0 cmd rest →
    let d := s.descOf c cmd
    let word := fun (i : Nat) => d.getD i 0
    let src := (word 0).toNat
    let dst := (word 1).toNat
    let resp := if cmd.respond then [cmd.response 0 0] else []
    let ready := fun (code : Nat) => cmd.code = code ∧ (s.lcore c).lsPoisonIn cmd.desc 64 = none ∧
      copyMalformed code cmd.entry d = false ∧ (word 3).getLsbD 63 = false
    let fromLs := cmd.entry.bits 21 20 = 1 ∧ src % 8 = 0 ∧ src + 8 ≤ lsSize ∧ (s.lcore c).lsPoisonIn src 8 = none
    let toLs := cmd.entry.bits 27 26 = 1 ∧ dst % 8 = 0 ∧ s.openLs c dst 8
    let does := fun (i : Instr) (bs : List Byte) => ∃ t, exec i s = .next t ∧ s.ended t c 0 cmd rest resp ∧
      (t.lcore c).lsBytes dst 8 = bs ∧ s.onlyLs t c dst 8 ∧ t.mem = s.mem
    (ready 0xF0 → fromLs → toLs → cmd.mode = 0 → word 2 = 8 → does (.cpcopyCommand c) ((s.lcore c).lsBytes src 8)) ∧
    (ready 0xF3 → fromLs → toLs → cmd.mode = 0 → word 2 = 8 → word 5 = 1 →
      does (.cpstrideCommand c) ((s.lcore c).lsBytes src 8)) ∧
    (ready 0xF1 → toLs → cmd.mode = 0 → word 2 = 8 → does (.cpsetCommand c) (leBytes 8 (word 0).toNat)) ∧
    (ready 0xF6 → toLs → cmd.mode = 0 → does (.cpsigCommand c) (leBytes 8 (word 0).toNat)) ∧
    (ready 0xF6 → toLs → cmd.mode = 1 ∨ (cmd.mode = 2 ∧ (s.lcore c).lsFull dst = false) →
      ∃ t, exec (.cpsigCommand c) s = .next t ∧ s.ended t c 0 cmd rest resp ∧
        (t.lcore c).lsBytes dst 8 = leBytes 8 (word 0).toNat ∧ (t.lcore c).lsFull dst = true) ∧
    (ready 0xF6 → toLs → cmd.mode = 2 → (s.lcore c).lsFull dst = true →
      ∃ t, exec (.cpsigCommand c) s = .next t ∧ (t.queue c 0).started = some cmd ∧ (t.queue c 0).stall = true ∧
        (t.lcore c).ls = (s.lcore c).ls) ∧
    (ready 0xF2 → toLs → word 2 = 8 → ∃ t, exec (.cpfeCommand c) s = .next t ∧ s.ended t c 0 cmd rest resp ∧
      (t.lcore c).lsFull dst = (cmd.mode == 1) ∧ (t.lcore c).ls = (s.lcore c).ls) ∧
    (ready 0xF4 → (cmd.entry.bits 21 20 = 2 → (word 4).bits 8 0 < (s.ctx (ctxOfLc c)).lcount) → ∃ t, exec (.cpprfCommand c) s = .next t ∧ s.ended t c 0 cmd rest resp ∧
      (t.lcore c).ls = (s.lcore c).ls ∧ t.mem = s.mem ∧ t.fe = s.fe) ∧
    (ready 0xF5 → cmd.entry.bits 21 20 = 0 → s.reach c (.dev (cmd.capN 0)) {} src (word 2).toNat = none →
      ((cmd.capN 0).base + src) % 64 + (word 2).toNat ≤ 64 →
      ∃ t, exec (.cpwbCommand c) s = .next t ∧ s.ended t c 0 cmd rest resp ∧
        ∀ i, i < (word 2).toNat → t.homeByte (cmd.capN 0).id ((cmd.capN 0).base + src + i) =
          (match (s.lcore c).l1.get none (byteKey (cmd.capN 0).id ((cmd.capN 0).base + src + i)) with
            | some ⟨b, true⟩ => b
            | _ => s.homeByte (cmd.capN 0).id ((cmd.capN 0).base + src + i)))

/-- R328, R329: a load of whole source rows from the local store fills its claimed slots with the rows, in order; mldt with the columns.
How the bytes of a run lie in its slots, row after row, is the model's choice (log 32). -/
def Obligations.MatrixLoadsFillTheirSlots : Prop :=
  ∀ (c : Nat) (cmd : Cmd) (rest : List Cmd) (s : State), s.head c 1 cmd rest →
    let r := cmd.run
    let v := cmd.f 38 32
    let f := cmd.stream
    let b := r.fmt.width / 8
    let o := cmd.f 31 0 * 8
    let at_ := fun (i : Nat) => (off64 (o + (i : Int) * f.rstride)).toNat
    let ls := fun (a : Nat) => (s.lcore c).ls.get 0 a
    let ready := fun (rows n : Nat) => cmd.loadBad = false ∧ cmd.b 76 = true ∧ f.skind = 0 ∧
      (∀ i, i < r.need → ((s.lcore c).mx.slot (v + i)).st = .claimed) ∧
      ∀ i, i < rows → at_ i + n ≤ lsSize ∧ (16 ≤ r.fmt.width → at_ i % b = 0) ∧ (s.lcore c).lsPoisonIn (at_ i) n = none
    let resp := if cmd.b 77 then [cmd.matrixResp 0 0] else []
    let loads := fun (i : Instr) (byte : Nat → Byte) => ∃ t, exec i s = .next t ∧ s.ended t c 1 cmd rest resp ∧
      (t.lcore c).mx.runAt v = some r ∧ (∀ i, i < r.need → ((t.lcore c).mx.slot (v + i)).st = .full) ∧
      (∀ a, a < r.rows * r.rowBytes → (t.lcore c).mx.runByte v a = byte a) ∧
      (t.lcore c).mx.region = (s.lcore c).mx.region ∧ t.mem = s.mem ∧ (t.lcore c).ls = (s.lcore c).ls
    (cmd.code = 0xD0 → ready r.rows r.rowBytes →
      loads (.mldCommand c) fun a => ls (at_ (a / r.rowBytes) + a % r.rowBytes)) ∧
    (cmd.code = 0xD1 → ready 64 (r.count * b) →
      loads (.mldtCommand c) fun a => ls (at_ (a % r.rowBytes / b) + a / r.rowBytes * b + a % b))

/-- R327, R331 to R334: a ready compute command of the lease holder leaves the matrix state that its rule gives, with the flags it
gathered in its response. Each element that mmul, mmul.z, mmsp or mmsp.z covers is then the exact sum, rounded once, of what it held (but
for a .z form) and, for each block, the factor of its two scales by the exact sum of the products of the block's elements of row m of the
one run and row n of the other, the stored elements of a sparse row at the dense positions of their metadata; mzero clears its columns,
mrel frees its slots. A grant goes to a ready head of the highest priority. -/
def Obligations.ComputeCommandsActUnderTheLease : Prop :=
  ∀ (c : Nat) (cmd : Cmd) (rest : List Cmd) (s : State) (die cluster : Nat),
    let mx := (s.lcore c).mx
    let out := cmd.body mx
    let runs := fun (i : Instr) (code : Nat) =>
      s.head c 2 cmd rest → cmd.code = code → cmd.headSt mx = .ready → (s.lease (s.arrayOf c)).holder = some c →
      ∃ t, exec i s = .next t ∧
        s.ended t c 2 cmd rest (if cmd.b 77 then [cmd.matrixResp out.2.1 out.2.2] else []) ∧ (t.lcore c).mx = out.1 ∧
        (t.lcore c).ls = (s.lcore c).ls ∧ t.mem = s.mem ∧ t.strands = s.strands
    let waiting := s.lcKeys.filter fun y => s.arrayOf y == die * 4 + cluster && s.headReady y
    let prio := fun (y : Nat) => match (s.queue y 2).turn with
      | some (x, _) => x.prio
      | none => 0
    runs (.mmulCommand c) 0xD2 ∧ runs (.mmulZCommand c) 0xD3 ∧ runs (.mmspCommand c) 0xD4 ∧ runs (.mmspZCommand c) 0xD5 ∧
    runs (.mrelCommand c) 0xD6 ∧ runs (.mzeroCommand c) 0xD7 ∧
    (∀ (ra rb : Run) (i j : Nat), 0xD2 ≤ cmd.code → cmd.code ≤ 0xD5 → cmd.headSt mx = .ready → (∀ k, (mx.slot k).poison = []) →
      mx.regionPoison = [] → mx.runAt (cmd.f 38 32) = some ra → mx.runAt (cmd.f 46 40) = some rb → i < 128 → j < cmd.n →
      let sparse := decide (0xD4 ≤ cmd.code)
      let t : Ty := if cmd.f64 then .f64 else .f32
      let u := if cmd.f64 then 8 else 4
      let at_ := 2048 * i + 64 * cmd.col + u * j
      let mode := modeOfRm (cmd.f 75 73)
      let bl := if ra.skind ≠ 0 then ra.bl else if rb.skind ≠ 0 then rb.bl else 64
      let a := mx.row (cmd.f 38 32) ra i
      let b := mx.row (cmd.f 46 40) rb j
      let pair := fun (k : Nat) => (mx.runByte (cmd.f 54 48) (8 * i + k / 4)).toNat / 2 ^ (4 * (k / 2 % 2)) % 16
      let pos := fun (k : Nat) => if sparse then 4 * (k / 2) + (if k % 2 = 0 then pair k % 4 else pair k / 4) else k
      let zero := Num.Val.num false 0 0
      let block := fun (h : Nat) => (((List.range (if sparse then 32 else 64)).filter fun k => pos k / bl == h).map fun k =>
        Num.prod (a.vals.getD k zero) (b.vals.getD (pos k) zero))
      let terms := (List.range (64 / bl)).map fun h =>
        Num.prod (pFactor ra.skind (a.scales.getD h 0) rb.skind (b.scales.getD h 0)).1 (Num.sumExact mode (block h)).1
      let held := if cmd.code = 0xD3 ∨ cmd.code = 0xD5 then [] else [Num.decode t (mx.regionNat at_ u)]
      out.1.regionNat at_ u = (Num.conv t mode (Num.sumExact mode (terms ++ held)).1).code % 2 ^ (8 * u)) ∧
    (cmd.code = 0xD7 → cmd.b 64 = false → cmd.headSt mx = .ready → ∀ r a, r < 128 → a < cmd.n * (if cmd.f64 then 8 else 4) →
      out.1.region.get 0 (2048 * r + 64 * cmd.col + a) = 0) ∧
    (cmd.code = 0xD6 → cmd.b 79 = false → ∀ i, i < cmd.n → (out.1.slot (cmd.f 38 32 + i)).st = .free) ∧
    (die ≤ 31 → cluster ≤ 3 → (s.lease (die * 4 + cluster)).holder = none → waiting ≠ [] →
      ∃ t y, exec (.leaseGrant die cluster) s = .next t ∧ y ∈ waiting ∧ (∀ z, z ∈ waiting → prio z ≤ prio y) ∧
        (t.lease (die * 4 + cluster)).holder = some y ∧ (t.lease (die * 4 + cluster)).started = 0 ∧ t.lcores = s.lcores)

/-- R335, R336: mst drains its full groups, unscaled, into rows of the local store that do not meet, and empties them; mfill writes the
value V and sets the bit of its word. -/
def Obligations.MatrixStoresDrainTheirGroups : Prop :=
  ∀ (c : Nat) (cmd : Cmd) (rest : List Cmd) (s : State), s.head c 3 cmd rest →
    let l := s.lcore c
    let mx := l.mx
    let f := cmd.stream
    let n := cmd.f 57 48
    let width := (f.efmt.getD .int4).width
    let bytes := n * width / 8
    let col := cmd.f 36 32
    let k := groupCount (cmd.b 40) n
    let at_ := fun (i : Nat) => (off64 ((cmd.f 31 0 * 8 : Nat) + (i : Int) * f.rstride)).toNat
    let row := fun (i : Nat) => cmd.drainRow mx i
    let fl : Num.Flags := (List.range 128).foldl (fun g i => g ||| (row i).2.2) 0
    let o := cmd.f 31 0 * 8
    (cmd.code = 0xD8 → cmd.storeBad = false → cmd.hitsJournal s c = false → cmd.b 76 = true → f.skind = 0 →
      cmd.b 78 = false → cmd.b 79 = false → mx.allFull col k = true → mx.regionPoison = [] →
      (∀ i, i < 128 → at_ i + bytes ≤ lsSize ∧ (16 ≤ width → at_ i % (width / 8) = 0)) →
      (∀ i j, i < 128 → j < 128 → i ≠ j → at_ i + bytes ≤ at_ j ∨ at_ j + bytes ≤ at_ i) →
      ∃ t, exec (.mstCommand c) s = .next t ∧ s.ended t c 3 cmd rest (if cmd.b 77 then [cmd.matrixResp 0 fl] else []) ∧
        (∀ i, i < 128 → (t.lcore c).lsBytes (at_ i) bytes = (row i).1.map Prod.fst) ∧
        (t.lcore c).mx.groups = mx.groups.setList false col (List.replicate k false) ∧
        (t.lcore c).mx.rflags = mx.rflags ||| fl ∧ t.mem = s.mem) ∧
    (cmd.code = 0xD9 → cmd.resStore = false → cmd.b 76 = true → cmd.b 79 = false → o + 8 ≤ lsSize → s.inJournal c o 8 = false →
      cmd.f 69 68 = 0 ∨ (cmd.f 69 68 = 1 ∧ l.lsFull o = false) →
      ∃ t, exec (.mfillCommand c) s = .next t ∧ s.ended t c 3 cmd rest (if cmd.b 77 then [cmd.matrixResp 0 0] else []) ∧
        (t.lcore c).lsBytes o 8 = leBytes 8 (cmd.seq % 2 ^ 32 * 2 ^ 32 + mx.rflags.toNat * 256) ∧
        (t.lcore c).lsFull o = true ∧ s.onlyLs t c o 8 ∧ t.mem = s.mem)

/-- R366 to R373: gather-scatter commands with all operands in the local store of their core, on a table of any size, one key, one row,
one voxel or one segment. -/
def Obligations.GatherScatterCommandsComplete : Prop :=
  ∀ (c : Nat) (cmd : Cmd) (rest : List Cmd) (s : State), s.head c 4 cmd rest →
    let d := s.descOf c cmd
    let l := s.lcore c
    let u := gsUses cmd.code cmd.mode
    let loc := fun (b : Bool) => if b then some (Loc.ls c) else none
    let x : Gs := ⟨c, cmd.code, cmd.mode, d, loc u.1, loc u.2.1, loc u.2.2, { s := s }, {}⟩
    let ao := x.aOff
    let bo := x.bOff
    let co := x.cOff
    let ready := fun (code : Nat) => cmd.code = code ∧ l.lsPoisonIn cmd.desc 64 = none ∧
      (∀ i, i < 3 → (d.getD 6 0).getLsbD i = true ∨ (i = 1 ∧ u.2.1 = false) ∨ (i = 2 ∧ u.2.2 = false)) ∧
      gsMalformed x cmd.entry = false ∧ x.startBad = none ∧ (d.getD 7 0).getLsbD 63 = false
    let whole := fun (o n : Nat) => o + n ≤ lsSize ∧ l.lsPoisonIn o n = none
    let does := fun (i : Instr) (res : Nat) (f : LCore → Prop) => ∃ t, exec i s = .next t ∧
      s.ended t c 4 cmd rest (if cmd.respond then [cmd.response 0 res] else []) ∧ f (t.lcore c) ∧ t.mem = s.mem
    let key := l.lsNat bo 4
    let slot := ao + 8 * gsHash key x.seed x.log2
    (ready 0xE0 → x.cnt = 1 → key ≠ 0xFFFF_FFFF → whole bo 4 → whole slot 8 → whole co 4 → l.lsNat slot 4 = key →
      does (.gsprobeCommand c) 1 fun t => t.lsNat co 4 = l.lsNat (slot + 4) 4) ∧
    (ready 0xE0 → x.cnt = 1 → key ≠ 0xFFFF_FFFF → whole bo 4 → whole slot 8 → whole co 4 → l.lsNat slot 4 = 0xFFFF_FFFF →
      does (.gsprobeCommand c) 0 fun t => t.lsNat co 4 = 0xFFFF_FFFF) ∧
    (ready 0xE1 → x.cnt = 1 → cmd.mode = 0 → key ≠ 0xFFFF_FFFF → whole bo 4 → whole slot 8 → l.lsNat slot 4 = 0xFFFF_FFFF →
      does (.gsinsertCommand c) 1 fun t => t.lsNat slot 4 = key ∧ t.lsNat (slot + 4) 4 = x.p2lo ∧
        ∀ a, a < slot ∨ slot + 8 ≤ a → t.ls.get 0 a = l.ls.get 0 a) ∧
    (ready 0xE2 → whole ao (8 * 2 ^ x.log2) → does (.gsclearCommand c) (2 ^ x.log2) fun t =>
      (∀ j, j < 2 ^ x.log2 → t.lsNat (ao + 8 * j) 8 = 0xFFFF_FFFF) ∧
      ∀ a, a < ao ∨ ao + 8 * 2 ^ x.log2 ≤ a → t.ls.get 0 a = l.ls.get 0 a) ∧
    (ready 0xE3 → x.cnt = 1 → cmd.mode = 0 → whole co 4 → l.lsNat co 4 < x.p2lo → x.p2lo ≤ 0xFFFF_FFFF →
      whole (ao + l.lsNat co 4 * x.sStride) x.x → whole bo x.x →
      does (.gsgatherCommand c) 1 fun t => t.lsBytes bo x.x = l.lsBytes (ao + l.lsNat co 4 * x.sStride) x.x) ∧
    (ready 0xE4 → x.cnt = 1 → cmd.mode = 4 → x.x = 8 → whole co 4 → l.lsNat co 4 < x.p2lo → x.p2lo ≤ 0xFFFF_FFFF → whole ao 8 →
      let at_ := bo + l.lsNat co 4 * x.dStride
      whole at_ 8 → does (.gsscaddCommand c) 1 fun t =>
        t.lsNat at_ 4 = (l.lsNat at_ 4 + l.lsNat ao 4) % 2 ^ 32 ∧
        t.lsNat (at_ + 4) 4 = (l.lsNat (at_ + 4) 4 + l.lsNat (ao + 4) 4) % 2 ^ 32) ∧
    (ready 0xE5 → x.cnt = 1 → x.x = 1 → whole bo 4 → whole slot 8 → whole co 8 → whole (co + x.p2hi) 8 →
      bits key 31 30 = 0 → bits key 9 0 ≤ (x.word 6).bits 43 34 → bits key 19 10 ≤ (x.word 6).bits 53 44 →
      bits key 29 20 ≤ (x.word 6).bits 63 54 → l.lsNat slot 4 = key →
      does (.gsrulesCommand c) 1 fun t => t.lsNat co 8 = l.lsNat (slot + 4) 4 ∧ t.lsNat (co + x.p2hi) 8 = 1) ∧
    (ready 0xE6 → x.cnt = 1 → cmd.mode = 2 → whole bo 8 → l.lsNat (bo + 4) 4 = l.lsNat bo 4 + 1 →
      whole (ao + 4 * l.lsNat bo 4) 4 → whole co 4 →
      does (.gssegsumCommand c) 1 fun t => t.lsNat co 4 = l.lsNat (ao + 4 * l.lsNat bo 4) 4) ∧
    (ready 0xE7 → x.cnt = 1 → x.x = 4 → whole ao 4 → whole bo 4 → l.lsNat ao 4 ≠ (x.word 4).bits 31 0 →
      does (.gscompactCommand c) 1 fun t => t.lsNat bo 4 = l.lsNat ao 4)

/-- R391 to R398: select-and-order commands on one row in the local store of their core. Ordering entries gives them all, no entry going
before an earlier one by the order of R391; and so does merging two lists that are in order. -/
def Obligations.SelectOrderCommandsComplete : Prop :=
  (∀ (ty : Ty) (dn nl : Bool) (es as bs : List Ent) (n : Nat),
    let sorted := fun (l : List Ent) => l.Pairwise fun x y => before ty dn nl y x = false
    (ordered ty dn nl es).Perm es ∧ sorted (ordered ty dn nl es) ∧
    (as.length + bs.length ≤ n → (mergeRows ty dn nl n as bs).Perm (as ++ bs) ∧
      (sorted as → sorted bs → sorted (mergeRows ty dn nl n as bs)))) ∧
  ∀ (c : Nat) (cmd : Cmd) (rest : List Cmd) (s : State), s.head c 5 cmd rest →
    let d := s.descOf c cmd
    let l := s.lcore c
    let x : So := ⟨c, cmd.code, cmd.mode, d, .ls c, .ls c, .ls c, { s := s }, {}⟩
    let ao := (x.word 0).toNat
    let bo := (x.word 1).toNat
    let co := (x.word 2).toNat
    let nl := cmd.mode / 4 % 2 == 1
    let dn := cmd.mode % 2 == 1
    let ready := fun (code : Nat) => cmd.code = code ∧ l.lsPoisonIn cmd.desc 64 = none ∧
      (x.word 6).getLsbD 0 = true ∧ (x.usesB = true → (x.word 6).getLsbD 1 = true) ∧ (x.word 6).getLsbD 2 = true ∧
      soMalformed x cmd.entry = false ∧ x.startBad = none ∧ (x.word 7).getLsbD 63 = false ∧ x.rows = 1
    let whole := fun (o n : Nat) => o + n ≤ lsSize ∧ l.lsPoisonIn o n = none
    let entries := fun (o n : Nat) (pairs : Bool) => (List.range n).map fun j =>
      if pairs then (l.lsNat (o + 8 * j) x.wb, l.lsNat (o + 8 * j + 4) 4) else (l.lsNat (o + x.wb * j) x.wb, j)
    let packed := fun (es : List Ent) => es.flatMap fun e => leBytes 4 e.1 ++ leBytes 4 e.2
    let es := entries ao x.cols x.pairs
    let bs := entries bo x.k true
    let does := fun (i : Instr) (res : Nat) (out : List Byte) => ∃ t, exec i s = .next t ∧
      s.ended t c 5 cmd rest (if cmd.respond then [cmd.response 0 res] else []) ∧ (t.lcore c).lsBytes co out.length = out ∧
      t.mem = s.mem
    (ready 0xE8 → whole ao (x.cols * x.aw) → whole co x.cw →
      does (.sosortCommand c) 1 (packed (ordered x.ty dn nl es))) ∧
    (ready 0xE9 → whole ao (x.cols * 8) → whole bo (x.k * 8) → whole co x.cw →
      does (.somergeCommand c) 1 (packed (mergeRows x.ty dn nl (x.cols + x.k + 1) es bs))) ∧
    (ready 0xEA → whole ao (x.cols * x.aw) → whole co x.cw →
      does (.sotopkCommand c) 1 (packed ((ordered x.ty (!dn) nl es).take x.k))) ∧
    (ready 0xEB → whole ao (x.cols * x.aw) → whole bo 4 → whole co x.cw →
      let keep := es.filter fun e =>
        if dn then !keyLt x.ty nl (x.param % 2 ^ x.ty.width) e.1 else !keyLt x.ty nl e.1 (x.param % 2 ^ x.ty.width)
      does (.sothreshCommand c) (keep.take x.k).length (packed (keep.take x.k))) ∧
    (ready 0xEC → whole ao (x.cols * x.aw) → whole bo (x.k * 8) → whole co 8 →
      (∀ e, e ∈ bs → e.2 = 0xFFFF_FFFF ∨ e.2 < x.cols) →
      let vals := (List.range x.cols).map fun j => Num.decode x.ty (l.lsNat (ao + x.wb * j) x.wb)
      ∃ t, exec (.sosumsCommand c) s = .next t ∧
        s.ended t c 5 cmd rest (if cmd.respond then [cmd.response 0 1] else []) ∧
        (t.lcore c).lsBytes co 8 = (x.sums vals ((bs.map Prod.snd).filter (· != 0xFFFF_FFFF))).1) ∧
    (ready 0xED → x.k = 1 → whole bo 8 → (bs.headD (0, 0)).2 < x.cols →
      let from_ := ao + (bs.headD (0, 0)).2 * x.param
      whole from_ x.param → whole co x.param → does (.sogatherCommand c) 1 (l.lsBytes from_ x.param))

/-- R292 to R297: a loader moves its next tile, one row in a slot, and fills the header word of an empty slot with the tile's
number; a storer moves a full slot to its tile and empties the header. -/
def Obligations.SubscriptionsMoveTheirTiles : Prop :=
  ∀ (c n i : Nat) (u : Sub) (s : State), s.subAt c n = some (i, u) → u.stopped = false → u.next < u.ntiles → s.coreRuns c = true →
    u.lcore = c → u.rowCount = 1 → u.rowBytes = 8 → u.slotOff u.next % 64 = 0 → u.slotOff u.next + 72 ≤ lsSize →
    let slot := u.slotOff u.next
    let off := u.cap.base + u.rowOff u.next 0
    off % 8 = 0 → s.bareEngines → s.poisonIn u.cap.id off 8 = none → (s.lcore c).lsPoisonIn (slot + 64) 8 = none → s.tileMiss u u.next = none →
    let moved := fun (t : State) => ∃ v, t.subs[i]? = some v ∧ v = { u with next := u.next + 1 }
    (u.loader = true → (s.lcore c).lsFull slot = false → ∃ t, exec (.loaderTile c n) s = .next t ∧ moved t ∧
      (t.lcore c).lsBytes (slot + 64) 8 = s.homeBytes u.cap.id off 8 ∧ (t.lcore c).lsNat slot 8 = u.next ∧
      (t.lcore c).lsFull slot = true ∧ t.mem = s.mem) ∧
    (u.loader = false → (s.lcore c).lsFull slot = true → ∃ t, exec (.storerTile c n) s = .next t ∧ moved t ∧
      t.homeBytes u.cap.id off 8 = (s.lcore c).lsBytes (slot + 64) 8 ∧ (t.lcore c).lsFull slot = false ∧
      (t.lcore c).ls = (s.lcore c).ls)

-- The Keystone scheduler.

/-- R422, R424, R426: the node of a level that may be emitted, and the deadline node while the share is open, leave with the next
emission number, one entry for each participant. -/
def Obligations.NodesAreEmittedToTheirParticipants : Prop :=
  ∀ (level n : Nat) (s : State), s.alive = true → n ∈ s.emittable →
    let k := s.task n
    let sent := ∃ t, exec (.entryEmission level) s = .next t ∧ (t.task n).emitted = true ∧ (t.task n).emissionNo = s.emission ∧
      t.emission = s.emission + 1 ∧ ∀ p, p ∈ k.parts → ∃ e, e ∈ t.entries ∧ e.task = n ∧ e.lcore = mkLc k.ctx p.core ∧
        e.starts = p.starts ∧ e.emission = s.emission ∧ e.resume = none
    (level ≤ 11 → k.dl = false → k.level = level →
      (∀ u, u ∈ s.emittable → (s.task u).dl = false → (s.task u).level = level → u = n) → sent) ∧
    (level = 15 → k.dl = true → s.dlOpen = true → (∀ u, u ∈ s.emittable → (s.task u).dl = true → u = n) → sent)

/-- R52, R107, R112, R119, R185, R428, R435: an idle task strand takes the entry at its core. A start has the node's arguments,
capabilities and entry offset, as the graph buffer holds them once what its edges order has been written back, and every other register
as R107 has it; a spawned child's core has then no clean byte in its L1. A strand of a checkpoint has the registers it was saved with. -/
def Obligations.StrandsStartFromTheirEntries : Prop :=
  ∀ (c k : Nat) (e : Entry) (s : State), k ≤ 3 → s.coreRuns c = true →
    let j := mkStrand c k
    (s.strand j).node = none → (s.strand j).stopped = false → (s.lcore c).handTo = none →
    s.entries = [e] → e.place = .core → e.lcore = c → 0 < e.starts →
    let x := s.task e.task
    let v := s.startOrder e.task c
    let w := v.nodeWord x.ctx x.graph x.node
    let left := if e.starts = 1 then [] else [{ e with starts := e.starts - 1 }]
    (w 0).bits 55 53 = 0 →
    (e.resume = none → ∃ t, exec (.strandStart c k) s = .next t ∧ t.entries = left ∧ (t.task e.task).st = .running ∧
      let r := t.strand j
      (∀ i, i < 8 → r.s.get 0 (i + 1) = w (6 + i)) ∧
      (∀ i, i < 16 → r.b.get 0 i = v.bufEntry x.ctx x.graph x.node i) ∧
      (x.spawned = true → (t.lcore c).l1 = (s.lcore c).invalidate.l1) ∧
      r.status.bits 15 13 = k ∧ r.status.getLsbD 11 = (w 0).getLsbD 60 ∧ r.status.getLsbD 10 = false ∧
      r.status.getLsbD 12 = (s.ctx x.ctx).secure ∧ r.status.getLsbD 9 = x.versioned ∧
      r = { s := r.s, b := r.b, status := r.status, prio := s.prioOf e.task, node := some e.task, startedAt := s.now,
            pc := BitVec.ofNat 64 (v.entryPoint x.ctx x.graph x.node ((s.ctx x.ctx).resolved x.graph x.node) * 8) }) ∧
    (∀ id, e.resume = some id → ∃ t, exec (.strandStart c k) s = .next t ∧ t.entries = left ∧
      let r := s.saved.get {} id
      t.strand j = { r with status := r.status.put 15 13 k, prio := s.prioOf e.task })

/-- R25, R35, R347, R416, R425, R426, R434, R443: what the passing of device time brings: the promotion of a node that waits to be
dispatched, READY or RUNNING with entries in the queues; a period, with the tokens of the RCB that sets them; a window of the deadline
share; a power class; the switches of a spent budget; and the checkpoint of a strand that was not taken within DRAINTHR, which ends its
core's leases. The model's choices: the entries of a node rise together, also those of a RUNNING node (log 90); every strand that holds
a node counts for the power class (log 88); a period gives an RCB the tokens of the one that sets them (log 89); and the entry of a
checkpoint keeps the emission number of its node (log 49). -/
def Obligations.TimeDrivesTheScheduler : Prop :=
  ∀ (n x r c k : Nat) (s : State),
    let task := s.task n
    let j := mkStrand c k
    let ctx := s.ctx x
    let count := fun (p : Nat) => (s.strands.filter fun e => match e.2.node with
      | some t => (s.task t).power == p
      | none => false).length
    (task.st = .ready ∨ (task.st = .running ∧ ∃ e, e ∈ s.entries ∧ e.task = n) → task.dl = false → task.level < 11 →
      100_000 * (12 - task.level) < s.now - task.promoAt →
      exec (.entryPromotion n) s = .next (s.setTask n { task with level := task.level + 1, promoAt := s.now })) ∧
    (ctx.st = .running ∨ ctx.st = .freezing → ctx.periodNo ≠ (s.now - ctx.restoredAt) / ((ctx.rcb 0 2).bits 63 32 * 1000) →
      ∃ t, exec (.periodStart x) s = .next t ∧
        (t.ctx x).periodNo = (s.now - ctx.restoredAt) / ((ctx.rcb 0 2).bits 63 32 * 1000) ∧
        ∀ i, i < ctx.nrcb → ((t.ctx x).rcb i 5).bits 63 32 = 0 ∧ ((t.ctx x).rcb i 5).bits 31 0 = (ctx.rcb i 5).bits 31 0 ∧
          ((t.ctx x).rcb i 6).bits 63 56 = ctx.tokMax i) ∧
    (s.ks.dlWindow ≠ s.now / 100_000 →
      exec .dlshareWindow s = .next { s with ks := { s.ks with dlWindow := s.now / 100_000, dlUsed := 0 } }) ∧
    (s.pkg.powerTick ≠ s.now / 1_000_000 →
      exec .powerClassSelect s = .next { s with pkg := { s.pkg with
        powerTick := s.now / 1_000_000
        powerNext := if decide (count 1 < count 2) = s.pkg.powerNext.getD s.pkg.powerMem then s.pkg.powerNext
          else some (decide (count 1 < count 2)) } }) ∧
    (∀ m, s.pkg.powerNext = some m →
      exec .powerClassTakesEffect s = .next { s with pkg := { s.pkg with powerMem := m, powerNext := none } }) ∧
    (s.alive = true → ctx.st = .running → (ctx.rcb r 1).bits 63 32 ≤ (ctx.rcb r 5).bits 63 32 →
      ∃ t, exec (.budgetExhaustion x r) s = .next t ∧ ∀ i m, (s.strand i).node = some m → (s.task m).ctx = x →
        r ∈ ctx.charged (s.task m).chain → (t.strand i).switchPending = true ∧
          ((s.strand i).switchPending = false → (t.strand i).drainAt = some (s.now + (s.task m).drainThr * 1000))) ∧
    (∀ d, k ≤ 3 → s.alive = true → (s.strand j).switchPending = true → (s.strand j).drainAt = some d → d ≤ s.now → (s.strand j).node = some n →
      ∃ t, exec (.drainTimeout c k) s = .next t ∧ (t.strand j).node = none ∧
        t.saved.get {} s.emission = { s.strand j with wait := .none, switchPending := false, drainAt := none, drainFor := none } ∧
        (⟨n, c, 1, task.emissionNo, .keystone, some s.emission⟩ : Entry) ∈ t.entries ∧
        ∀ l, l ∈ t.ks.leases → l.2.holder ≠ some c)

/-- R289, R306, R347, R431, R432, R435, R470, R471: a take-back spends a token and checkpoints the victim of its own logical core; at
the end of a turn the core changes hands: the L1 of the outgoing logical core is empty, its backing area has the pages its runs need,
its array leases are ended, its strands keep their registers, and the next is resident. The model's choices: the entry of a checkpoint
keeps the emission number of its node and stands at the Keystone (log 49), and a strand that drains is a victim for a deadline-class
newcomer alone (log 91). -/
def Obligations.CoresChangeHands : Prop :=
  ∀ (die pos c o v n : Nat) (e : Entry) (s : State), die ≤ 31 → pos ≤ 15 → s.alive = true →
    (s.coreHead die pos = some e → s.residentOf die pos = some c → e.lcore = c → (s.lcore c).handTo = none →
      (∀ i, i < 4 → ∃ m, (s.strand (mkStrand c i)).node = some m ∧ (s.task m).st = .running ∧
        (s.strand (mkStrand c i)).stopped = false) →
      pick s.victimFirst (s.victims true c) = some v → (s.strand v).node = some n → lexLt (s.nodeRank e.task) (s.nodeRank n) = true →
      0 < s.tokens e.task → (s.task e.task).dl = true → (s.task n).versioned = false →
      ∃ t, exec (.takeBack die pos) s = .next t ∧ t.tokens e.task + 1 = s.tokens e.task ∧ (t.strand v).node = none ∧
        (⟨n, c, 1, (s.task n).emissionNo, .keystone, some s.emission⟩ : Entry) ∈ t.entries ∧
        t.saved.get {} s.emission = { s.strand v with wait := .none, switchPending := false, drainAt := none, drainFor := none }) ∧
    (s.residentOf die pos = some o → s.turnOver o = true →
      (∃ d, d ∈ s.hosted die pos ∧ d ≠ o ∧ s.readyRanks d ≠ []) → s.nextResident die pos (some o) = some c → s.versionedOn o = [] →
      ∃ t, exec (.logicalCoreSwitch die pos) s = .next t ∧ (t.lcore o).resident = false ∧ (t.lcore o).l1 = [] ∧
        (t.lcore o).backing = s.backingOf o ∧ (t.lcore c).resident = true ∧ (t.lcore c).turnStart = s.now ∧
        (∀ l, l ∈ t.ks.leases → l.2.holder ≠ some o) ∧
        ∀ k, k < 5 → t.strand (mkStrand o k) = { s.strand (mkStrand o k) with wait := .none })

/-- R66, R184, R297, R420, R438, R442: a node every start of which has ended, with its storers finished, is DONE, once the write-backs
that its regions still owe are made, and the node its one plain edge names becomes READY when no other edge is left. R281: when that
edge transfers a buffer that no other node still to be dispatched names, GEN of the buffer increases, and the dependant's null entry has
its ID, the new GEN, and the rights, the length and the base of the source's capability. R288: the commit of a versioned child leaves
the bytes of its version at their homes and in the local stores, and its version empty. A launch none of whose tasks is left ends its
context, and its packet completes. -/
def Obligations.NodesCompleteAndLaunchesEnd : Prop :=
  ∀ (n u x : Nat) (p : List Word) (s r : State), s.alive = true →
    let k := s.task n
    let v := if k.spawned then s else s.closeRegions k.ctx k.graph k.node
    (s.complete n = true → k.versioned = false → (k.dl = true → s.now ≤ k.absDl) →
      (k.spawned = true → ∃ t, exec (.nodeCompletion n) s = .next t ∧ (t.task n).st = .done ∧ t.mem = v.mem) ∧
      (k.spawned = false → v.nout k.ctx k.graph k.node = 1 →
        let w := v.edgeWord k.ctx k.graph k.node 0
        w.bits 36 32 = 0 → w.getLsbD 39 = false →
        let waits := fun (i : Nat) => i ∈ s.tasksOf k.ctx ∧ (s.task i).graph = k.graph ∧ (s.task i).node = w.bits 63 48 ∧
          (s.task i).spawned = false ∧ (s.task i).st = .waiting
        waits u → (∀ i, waits i → i = u) →
        ∃ t, exec (.nodeCompletion n) s = .next t ∧ (t.task n).st = .done ∧ t.mem = v.mem ∧
          (t.task u).pending = (s.task u).pending - 1 ∧
          ((s.task u).pending = 1 → (t.task u).st = .ready ∧ (t.task u).readyAt = s.now)) ∧
      (k.spawned = false → v.nout k.ctx k.graph k.node = 1 →
        let w := v.edgeWord k.ctx k.graph k.node 0
        let dst := w.bits 63 48
        let cap := v.bufEntry k.ctx k.graph k.node (w.bits 47 44)
        let gb := v.graphBuf k.ctx k.graph
        let o := v.bufOff k.ctx k.graph dst (w.bits 43 40)
        w.bits 36 32 = 0 → w.getLsbD 39 = true → v.bufEntry k.ctx k.graph dst (w.bits 43 40) = 0 → o % 16 = 0 → v.atHand gb o →
        (∀ h m j, h < (v.ctx k.ctx).graphs.length → m < v.nnodes k.ctx h → v.bufEntry k.ctx h m j ≠ 0 →
          (v.bufEntry k.ctx h m j).id = cap.id → v.dispatched k.ctx h m = true) →
        ∃ t, exec (.nodeCompletion n) s = .next t ∧ (t.task n).st = .done ∧ (t.buf cap.id).gen = (v.buf cap.id).gen + 1 ∧
          t.fwNat gb o 16 =
            BitVec.toNat (Cap.make cap.id ((v.buf cap.id).gen + 1) (Cap.rights cap) (Cap.length cap) (Cap.base cap)))) ∧
    (s.complete n = true → k.versioned = true → k.spawned = true → (k.dl = true → s.now ≤ k.absDl) →
      let home := fun (e : Nat × Byte) => (e.1 / 2 ^ 40, e.1 % 2 ^ 40)
      (∀ e, e ∈ written k.ver.dev → (s.buf (home e).1).host = false ∧ pageRes (s.page (home e).1 (home e).2) = true) →
      (written k.ver.dev).Pairwise (fun d e => s.pa (home d).1 (home d).2 ≠ s.pa (home e).1 (home e).2) →
      (written k.ver.ls).Pairwise (fun d e => d.1 ≠ e.1) →
      ∃ t, exec (.nodeCompletion n) s = .next t ∧ (t.task n).st = .done ∧ (t.task n).ver = {} ∧
        (∀ e, e ∈ written k.ver.dev → t.homeByte (home e).1 (home e).2 = e.2) ∧
        ∀ e, e ∈ written k.ver.ls → (t.lcore (e.1 / lsSize)).ls.get 0 (e.1 % lsSize) = e.2) ∧
    (let q := (s.ctx x).launchQ
     let i := (s.ctx x).launchIdx
     s.launchOver x = true → s.packetReturns r q i p → pktOp p = 0x01 → (r.qrec q).dueStep i = 5 → r.launched q i = some x →
      let t := r.endLaunch x
      exec (.launchEnd x) s = .next (t.completePacket q i p (if r.launchFailed x then 1 else 0) 0 0).passTurns ∧ (t.ctx x).st = .absent ∧
      (∀ v, v ∈ r.tasksOf x → (t.task v).st = .free) ∧ (∀ c, ctxOfLc c = x → t.lcore c = {}) ∧
      ∀ j, ctxOf j = x → t.strand j = {})

-- Paging and packets.

/-- R51, R284, R286: a page that goes out is recorded whole and is no longer resident; a page that comes in has the bytes of its record;
a late write-back takes the dirty bytes of a line, and nothing else, to their homes. A page comes in where PAGESUSED is below PAGES
in every RCB that it counts against. The model's choices: a page counts against the context RCB and the RCBs of the chain of the task
whose access met it (log 58), and the L1, with its dirty bytes, is the one cache that is state (log 7). -/
def Obligations.PagesMoveToAndFromTheBackingStore : Prop :=
  ∀ (id page c line : Nat) (task : Option Nat) (s : State), s.alive = true →
    let e := s.page id (page * 65536)
    let b := s.buf id
    let rec_ := s.backing.get {} (pageKey id page)
    let f := s.newFrame.1
    (pageValid e = true → pageRes e = true → pagePinned e = false → (∀ k, s.cleanL1 k) → Memory.wf s.mem = true →
      ∃ t, exec (.pageOut id page) s = .next t ∧ pageValid (t.page id (page * 65536)) = true ∧
        pageRes (t.page id (page * 65536)) = false ∧ pageDirty (t.page id (page * 65536)) = pageDirty e ∧
        (t.buf id).resident = b.resident - 1 ∧
        ∀ i, i < 65536 → (t.backing.get {} (pageKey id page)).data.get 0 i = s.homeByte id (page * 65536 + i)) ∧
    (pageValid e = true → pageRes e = false → 0 < s.framesLeft →
      (b.driver = true ∨ ∀ r, r ∈ 0 :: s.asker id task →
        ((s.ctx b.context).rcb r 5).bits 31 0 < ((s.ctx b.context).rcb r 1).bits 31 0) →
      f < 2 ^ 23 → (∀ a, f * 65536 ≤ a → a < (f + 1) * 65536 → Tab.get 0 s.mem a = 0) → Memory.wf rec_.data = true →
      (∀ x, x ∈ rec_.data → x.1 < 65536) →
      ∃ t, exec (.pageIn id ⟨page, task⟩) s = .next t ∧ pageRes (t.page id (page * 65536)) = true ∧
        pageDirty (t.page id (page * 65536)) = pageDirty e ∧ (t.buf id).resident = b.resident + 1 ∧
        ∀ i, i < 65536 → t.homeByte id (page * 65536 + i) = rec_.data.get 0 i) ∧
    (∃ t, exec (.dirtyByteWriteBack c line) s = .next t ∧
      (∀ i x, i < 64 → (s.lcore c).l1.get none (line * 64 + i) = some ⟨x, true⟩ →
        t.homeByte ((line * 64 + i) / 2 ^ 40) ((line * 64 + i) % 2 ^ 40) = x ∧
        (t.lcore c).l1.get none (line * 64 + i) = some ⟨x, false⟩) ∧
      ∀ a, (∀ i, i < 64 → a ≠ s.pa ((line * 64 + i) / 2 ^ 40) ((line * 64 + i) % 2 ^ 40)) →
        Tab.get 0 t.mem a = Tab.get 0 s.mem a)

/-- R278 to R280, R426, R448, R450, R451, R456: what the packets of the queues do before they complete; a WAIT holds by
its COND: its word's bit full (of host memory, always), equal to v, at least v unsigned, or not v. The model's choices: BUF_ALLOC
takes physical pages for all pages at once, and SECURE is bit S of MAXRIGHTS (log 57); the address of a page map is a free value (log
93); what counts in REFCNT (log 52); and that the packets of a queue in ERROR have completed once CPTR is RPTR, which QUEUE_DESTROY waits
for (log 18). -/
def Obligations.PacketsActAndComplete : Prop :=
  ∀ (qid id fresh : Nat) (p : List Word) (s u st v : State), s.packetBegins u st qid p →
    let q := u.qrec qid
    let done := fun (i : Instr) (x : State) => exec i s = u.packetDone x qid p 0
    let n := QRec.ofWords (pkt p 4) (pkt p 5) (pkt p 6) (pkt p 7).toNat
    let size := (pkt p 4).toNat
    let host := (pkt p 5).getLsbD 0
    (pktOp p = 0x00 → zeroFrom p 4 = true → done (.packetNop qid) st) ∧
    (pktOp p = 0x03 → (pkt p 4).bits 23 0 = 0 → (pkt p 5).bits 2 0 = 0 → (pkt p 7).bits 60 0 = 0 →
      ((pkt p 7).bits 63 61 = 0 → st.refBad q 4 (pkt p 4) 5 (pkt p 5).toNat 8 rightW = none →
        done (.writeSignal qid) (st.fwSetWord (refId (pkt p 4)) (pkt p 5).toNat (pkt p 6).toNat)) ∧
      ((pkt p 7).bits 63 61 = 1 → st.refBad q 4 (pkt p 4) 5 (pkt p 5).toNat 8 (rightW ||| rightF) = none →
        done (.writeSignal qid) (st.fwFill (refId (pkt p 4)) (pkt p 5).toNat (pkt p 6).toNat))) ∧
    (pktOp p = 0x04 → (pkt p 4).bits 23 0 = 0 → (pkt p 5).bits 2 0 = 0 → (pkt p 7).bits 63 61 ≤ 3 → (pkt p 7).bits 60 32 = 0 →
      st.refBad (st.qrec qid) 4 (pkt p 4) 5 (pkt p 5).toNat 8 (if (pkt p 7).bits 63 61 = 0 then rightR ||| rightF else rightR) = none →
      let word := st.fwWord (refId (pkt p 4)) (pkt p 5).toNat
      (st.waitHolds p = true ↔
        ((pkt p 7).bits 63 61 = 0 ∧ ((st.buf (refId (pkt p 4))).host = true ∨ st.feAt (refId (pkt p 4)) (pkt p 5).toNat = true)) ∨
        ((pkt p 7).bits 63 61 = 1 ∧ word = pkt p 6) ∨ ((pkt p 7).bits 63 61 = 2 ∧ (pkt p 6).toNat ≤ word.toNat) ∨
        ((pkt p 7).bits 63 61 = 3 ∧ word ≠ pkt p 6)) ∧
      (st.waitHolds p = true → done (.wait qid) st) ∧
      (st.waitHolds p = false → st.waitOver (st.qrec qid) q.rptr p = false →
        exec (.wait qid) s = .next (st.modQrec qid fun x => x.setStep q.rptr 1).passTurns)) ∧
    (pktOp p = 0x20 → (pkt p 4).bits 11 0 = id → (pkt p 4).getLsbD 63 = true → (pkt p 4).bits 62 60 = 0 → n.admin = false →
      (pkt p 4).bits 43 12 = 0 → 17 ≤ id → (if n.dl then n.level = 0 else n.level ≤ 11) → 4 ≤ n.rsize → (pkt p 5).bits 23 0 = 0 →
      (pkt p 6).toNat % 4096 = 0 → (pkt p 7).bits 63 32 = 0 → ((u.started qid p).qrec id).valid = false → n.func = q.func →
      (n.secure = true → q.secure = true) → st.refBad q 5 (pkt p 5) 6 n.ringOff (80 * 2 ^ n.rsize) (rightR ||| rightW) = none →
      done (.queueCreate qid) (st.setQrec id n)) ∧
    (pktOp p = 0x21 → (pkt p 4).toNat = id → id < 4096 → 17 ≤ id → zeroFrom p 5 = true → st.ownQueue q id = true →
      (st.qrec id).drained = true → done (.queueDestroy qid) (st.dropQueue id)) ∧
    (pktOp p = 0x22 → (pkt p 4).toNat = id → id < 4096 → (pkt p 5).toNat < 2 ^ 32 → zeroFrom p 6 = true → st.ownQueue q id = true →
      done (.queueReset qid) (st.modQrec id fun x => { x with
        rptr := (pkt p 5).toNat, cptr := (pkt p 5).toNat, wptr := (pkt p 5).toNat, st := 0, errStat := 0, errIdx := 0,
        doneMask := 0, steps := 0, waits := [], owed := [] })) ∧
    (pktOp p = 0x23 → (pkt p 4).toNat = id → id < 4096 → (pkt p 5).bits 23 0 = 0 → zeroFrom p 7 = true → st.ownQueue q id = true →
      st.refBad q 5 (pkt p 5) 6 (pkt p 6).toNat 64 rightW = none →
      done (.queueQuery qid) (st.fwSet (refId (pkt p 5)) (pkt p 6).toNat ((st.recordWords id).flatMap (leBytes 8)))) ∧
    (pktOp p = 0x24 → (pkt p 5).bits 55 1 = 0 → size ≤ 2 ^ 39 → zeroFrom p 7 = true → (host = false → pkt p 6 = 0) →
      (if host then 8 ≤ size ∧ size % 8 = 0 else 65536 ≤ size ∧ size % 65536 = 0) → ((pkt p 5).getLsbD 58 = true → q.secure = true) →
      (host = false → size / 65536 ≤ st.framesLeft) → st.freshId = (some fresh, v) →
      let d := if host then (pkt p 6, v) else v.drawPmap
      let w := d.2.modBuf fresh fun b =>
        { gen := b.gen, maxRights := (pkt p 5).bits 63 56, size := size, refCnt := 1, context := q.func * 2048, driver := true,
          host := host, secure := (pkt p 5).getLsbD 58, valid := true, pmap := d.1 }
      exec (.bufAlloc qid) s = u.packetDone (if host then w else w.allocPages fresh false 0 (size / 65536)) qid p fresh) ∧
    (pktOp p = 0x25 → refId (pkt p 4) = id → (pkt p 4).bits 23 0 = 0 → zeroFrom p 5 = true → st.ownBuf q (pkt p 4) = true →
      (st.buf id).driver = true → done (.bufFree qid) ((st.modBuf id fun b => { b with driver := false }).dropRef id)) ∧
    (pktOp p = 0x26 → refId (pkt p 4) = id → (pkt p 4).bits 23 0 = 0 → zeroFrom p 5 = true → st.ownBuf q (pkt p 4) = true →
      done (.bufRevoke qid) (st.bumpGen id)) ∧
    (pktOp p = 0x27 → (pkt p 4).toNat ≤ 48 → zeroFrom p 5 = true →
      done (.setDlshare qid) { st with ks := { st.ks with dlShare := (pkt p 4).toNat } })

/-- R448, R451, R452, R454, R455, R460: the completion entry of a packet without a signal, and CPTR, which passes completed packets in
order; the value and the full/empty bit that a signal leaves, and its message. That a message goes out through both Abutments, and is
kept back by a mask bit of the PCI Express layout, is the model's choice (log 17, PRESUMED). -/
def Obligations.CompletionsWriteTheirEntries : Prop :=
  ∀ (qid i status detail value : Nat) (p : List Word) (s : State), i < 2 ^ 32 → status < 256 → sigBad p = false →
    let q := s.qrec qid
    let o := q.entryOff q.cqptr
    let id := refId (pkt p 1)
    let off := (pkt p 2).toNat
    let d := idxDist i q.cptr
    let t := s.completePacket qid i p status detail value
    let g := s.signal q p
    (sigMode p = 0 → s.fwOk q.func q.secure q.ringId q.ringGen o 16 rightW = true → q.ringOff % 16 = 0 → s.atHand q.ringId o →
      t.fwNat q.ringId o 8 = i * 2 ^ 32 + (pkt p 0).bits 31 0 ∧
      (∃ n, n < 2 ^ 24 ∧ t.fwNat q.ringId (o + 8) 8 = status * 2 ^ 56 + n * 2 ^ 32 + value % 2 ^ 32 ∧
        (status = 0x11 → n % 256 = detail % 256) ∧ (status = 0 → pktOp p = 0x02 → n = detail % 2 ^ 24)) ∧
      (t.qrec qid).cqptr = (q.cqptr + 1) % 2 ^ 32 ∧
      (d = 0 → q.doneMask = 0 → (t.qrec qid).cptr = (q.cptr + 1) % 2 ^ 32 ∧ (t.qrec qid).doneMask = 0) ∧
      (0 < d → d < 8 → q.doneMask.getLsbD 0 = false → (t.qrec qid).cptr = q.cptr ∧
        (t.qrec qid).doneMask = q.doneMask ||| BitVec.ofNat 8 (2 ^ d))) ∧
    (s.atHand id off →
      (sigMode p = 0 → g = s) ∧
      (sigMode p = 1 → g.fwNat id off 8 = (pkt p 3).toNat) ∧
      (sigMode p = 2 → g.fwNat id off 8 = (pkt p 3).toNat ∧ ((s.buf id).host = false → g.feAt id off = true)) ∧
      (sigMode p = 3 → g.fwNat id off 8 = (s.fwNat id off 8 + 2 ^ 64 - 1) % 2 ^ 64) ∧
      (sigMode p = 4 → g.fwNat id off 8 = (pkt p 3).toNat ∧ ((s.buf id).host = false → g.feAt id off = true) ∧
        let vec := (pkt p 0).bits 39 32
        ((∀ a, a = 1 ∨ a = 2 → (s.io.msixData.get msixMasked (fnKey a q.func * 256 + vec)).getLsbD 32 = false) →
          g.ks.msix = s.ks.msix ++ [(fnKey 1 q.func, vec), (fnKey 2 q.func, vec)])))

/-- R450, R451, R453, R456, R457, R459 to R461: a LAUNCH_IMAGE whose checks pass leaves its context RESTORING, stands at step 3, and
goes on to start dispatch and to wait for the end of the launch at step 5; a FREEZE leaves its context FREEZING and stands at step 3,
stops it, stands at step 4, writes the image and advances SEQ, or ends the context; one whose image does not fit lets its context
resume; waiting packets go on or time out, by the COND that O44 pins; doorbells and slices. The model's choices: a launch stands at its
step 3 and a freeze at its steps 3 and 4 between turns (log 60), checkpointed strands take idle strands of their core again as far as
there are any, and the others go behind the sections of the image (log 20), and JBSET is 1 in a captured image (log 121). -/
def Obligations.LaunchesFreezesAndWaits : Prop :=
  ∀ (qid i d v h abut fn : Nat) (value : Word) (p : List Word) (s u st r : State),
    let q := st.qrec qid
    let x := q.func * 2048 + (pkt p 4).bits 10 0
    let n := (u.qrec qid).rptr
    let stands := fun (y : State) (i k : Nat) => (y.modQrec qid fun z => z.setStep i k).passTurns
    let ends := fun (y : State) (stat detail val : Nat) => (y.completePacket qid i p stat detail val).passTurns
    let resumes := fun (y : State) => exec (.waitingStepResume qid i) s = .next y
    (s.packetBegins u st qid p → pktOp p = 0x01 → launchBad st p = false → q.stepOf n = 1 → st.restore q qid n p = .ok r →
      exec (.launchImage qid) s = .next (stands r n 3) ∧ (r.ctx x).st = .restoring ∧
      (st.isFresh ⟨refId (pkt p 4), (pkt p 5).toNat⟩ = true → ∀ n k, n < (r.ctx x).lcount → k < 5 →
        r.strand (mkStrand (mkLc x n) k) = { status := idleStatus (r.ctx x).secure k })) ∧
    (s.packetReturns st qid i p → pktOp p = 0x01 → q.dueStep i = 3 → ∀ y, st.launched qid i = some y →
      resumes (stands (st.modCtx y fun c => { c with st := .running }) i 5)) ∧
    (s.packetBegins u st qid p → pktOp p = 0x02 → freezeBad st p = false → q.stepOf n = 1 → (st.ctx x).st = .running →
      st.imageMiss q p 4096 = none →
      exec (.freeze qid) s = .next (stands (st.modCtx x fun c => { c with st := .freezing, freezer := some (qid, n) }) n 3)) ∧
    (s.packetReturns st qid i p → pktOp p = 0x02 → q.dueStep i = 3 → (st.ctx x).st = .freezing →
      let stopped := (st.unsave x).stopContext x
      (stopped.imageMiss q p (stopped.imageOf x).2 = none →
        resumes (stands (stopped.modCtx x fun c => { c with imageLen := (stopped.imageOf x).2 }) i 4)) ∧
      ∀ e, stopped.imageMiss q p (stopped.imageOf x).2 = some (e, d) →
        resumes (ends (st.modCtx x fun c => { c with st := .running, freezer := none, imageLen := 0 }) e d 0)) ∧
    (s.packetReturns st qid i p → pktOp p = 0x02 → q.dueStep i = 4 → (st.ctx x).st = .freezing →
      st.imageMiss q p (st.imageOf x).2 = none → st.captureImage x p = .done r 0 d v →
      resumes (ends r 0 d v) ∧ d = ((st.ctx x).seq + 1) % 2 ^ 24 ∧
      ((pkt p 4).getLsbD 63 = true → (r.ctx x).st = .absent) ∧
      ((pkt p 4).getLsbD 63 = false → (r.ctx x).st = .running ∧ (r.ctx x).seq = ((st.ctx x).seq + 1) % 2 ^ 32 ∧
        ((st.buf (refId (pkt p 5))).host = true → r.fwNat (refId (pkt p 5)) (pkt p 6).toNat 8 =
          0x4B494D47 * 2 ^ 32 + 2 ^ 24 + 2 ^ 19 + (if (st.ctx x).secure then 2 ^ 17 else 0) + 2 ^ 16))) ∧
    (s.packetReturns st qid i p → pktOp p = 0x04 → q.owed.get 0 i = 0 →
      st.refBad q 4 (pkt p 4) 5 (pkt p 5).toNat 8 (if (pkt p 7).bits 63 61 = 0 then rightR ||| rightF else rightR) = none →
      (st.waitHolds p = true → resumes (ends st 0 0 0)) ∧
      (st.waitHolds p = false → st.waitOver q i p = true → s.waitOver (s.qrec qid) i p = true →
        (s.ringIn (s.qrec qid) i).bind (fun t => t.packetAt (t.qrec qid) i) = some p →
        exec (.waitTimeout qid i) s = .next (ends st 0x04 0 0))) ∧
    (∀ k, s.packetReturns st qid i p → q.owed.get 0 i = k + 1 → resumes (ends st (k % 256) (k / 256) 0)) ∧
    (h ≤ 63 → s.ks.served.get none (h / 8) = some h →
      exec (.sliceExpiry h) s = .next { s with ks := { s.ks with sliceOver := s.ks.sliceOver.set false (h / 8) true } }) ∧
    (1 ≤ abut → abut ≤ 2 → fn ≤ 16 → s.alive = true → s.pkg.ready = true → (s.qrec qid).valid = true → (s.qrec qid).func = fn →
      ∃ t, exec (.doorbell abut fn qid value) s = .next t ∧ t.io.posted.get 0 abut = s.io.posted.get 0 abut + 1 ∧
        (idxDist (value.bits 31 0) (s.qrec qid).cptr ≤ 2 ^ (s.qrec qid).rsize → (t.qrec qid).wptr = value.bits 31 0) ∧
        (2 ^ (s.qrec qid).rsize < idxDist (value.bits 31 0) (s.qrec qid).cptr → (t.qrec qid).st = 3 ∧
          (t.qrec qid).errStat = 0x1B ∧ (t.qrec qid).wptr = (s.qrec qid).wptr))

-- The fabric, the Abutments, and the module.

/-- R478, R480: frames, credit returns that are lost, the audit that restores them, and the RET counts it carries: an AUDIT leaves at
every 64th frame boundary, once, and arrives behind those that are under way. -/
def Obligations.CreditsAreAudited : Prop :=
  ∀ (l vc n : Nat) (rs : Fin 4 → BitVec 32) (s : State), s.alive = true → l ≤ 95 → vc ≤ 3 →
    let x := s.link l
    let lost := fun (v : Fin 4) => (rs v - x.got.get 0 v).toNat
    (3 ≤ s.pkg.stage → exec .frameBoundary s = .next { s with fab := { s.fab with frame := s.fab.frame + 1 } }) ∧
    (n ≤ x.credit vc → ∃ t, exec (.trailerDiscard l vc n) s = .next t ∧ (t.link l).credit vc = x.credit vc - n ∧
      (t.link l).ret.get 0 vc = x.ret.get 0 vc + BitVec.ofNat 32 n ∧ (t.link l).got = x.got) ∧
    (s.fab.frame % 64 = 0 → x.auditAt < s.fab.frame → ∃ t, exec (.auditSend l) s = .next t ∧
      t.link l = { x with audits := x.audits ++ [(List.range 4).map fun v => x.ret.get 0 v], auditAt := s.fab.frame }) ∧
    (s.fab.frame % 64 ≠ 0 ∨ s.fab.frame ≤ x.auditAt → exec (.auditSend l) s = .next s) ∧
    (∀ rest, x.audits = List.ofFn rs :: rest → (∀ v, x.credit v.val + lost v ≤ 64) →
      ∃ t, exec (.creditAudit l) s = .next t ∧ (t.link l).audits = rest ∧ t.pkg.fatal = none ∧
        ∀ v : Fin 4, (t.link l).credit v = x.credit v + lost v ∧ (t.link l).got.get 0 v = rs v)

/-- R481 to R483: a set-up is taken, refused or in conflict; tuning, tear-down and draining end as the rules say, and TIME is the device
time of every change of STATE. A write of VALID 1 to an entry that drains sets VALID, and the entry, with the fields it has, is taken,
refused or in conflict as a new one; to one that tunes or is active it changes nothing. A write of VALID 0 to an entry in CONFLICT or
REFUSED sets its fields too. That a tear-down takes entries in CONFLICT and REFUSED too, that the write of one sets its fields, and that an
entry that drains is judged anew, is the model's choice (log 66); and so is that in the fatal state the fields take the write and STATE
stays (log 136). -/
def Obligations.CircuitsAreSetUpAndTakenDown : Prop :=
  ∀ (e : Nat) (w0 : Word) (s : State), e ≤ 511 → Tab.wf 0 s.fab.conns = true →
    let st := s.connState e
    let w := if st = 3 then s.fab.conns.get 0 e ||| 0x8000_0000_0000_0000 else w0 &&& 0x8FFF_FF80_0000_0000
    let busy := fun (k : Nat) => s.connState k = 1 ∨ s.connState k = 2 ∨ s.connState k = 3
    let sound := connSrc w ≠ connDst w ∧ (s.die (portDie (connSrc w))).inService = true ∧
      (s.die (portDie (connDst w))).inService = true ∧ 1 ≤ connCount w ∧ connFirst w + connCount w ≤ 32
    let becomes := fun (i : Instr) (v : Word) (n : Nat) => ∃ t, exec i s = .next t ∧ t.connState e = n ∧
      t.fab.conns.get 0 e = v ∧ t.fab.connTime.get 0 e = if st = n then s.fab.connTime.get 0 e else s.devTime
    (s.alive = false → s.pkg.dead = false →
      (w0.getLsbD 63 = true → st ≠ 1 → st ≠ 2 → becomes (.connectionSetup e w0) w st) ∧
      becomes (.connectionTeardown e) (s.fab.conns.get 0 e &&& 0x7FFF_FFFF_FFFF_FFFF) st) ∧
    (s.pkg.dead = false → w0.getLsbD 63 = true → st = 1 ∨ st = 2 → exec (.connectionSetup e w0) s = .next s.postedAny) ∧
    (s.alive = true →
    (w0.getLsbD 63 = true → st ≠ 1 → st ≠ 2 →
      (sound → (∀ k, k ≠ e → busy k → conflict w (s.fab.conns.get 0 k) = false) → becomes (.connectionSetup e w0) w 1) ∧
      (sound → (∃ k, k ≠ e ∧ busy k ∧ s.fab.conns.get 0 k ≠ 0 ∧ conflict w (s.fab.conns.get 0 k) = true) →
        becomes (.connectionSetup e w0) w 4) ∧
      (¬ sound → becomes (.connectionSetup e w0) w 5)) ∧
    (st = 1 → becomes (.circuitActive e) (s.fab.conns.get 0 e) 2) ∧
    (st ≠ 0 → st ≠ 3 → becomes (.connectionTeardown e) (s.fab.conns.get 0 e &&& 0x7FFF_FFFF_FFFF_FFFF) 3) ∧
    (∀ abut, 1 ≤ abut → abut ≤ 2 → st = 4 ∨ st = 5 → w0.getLsbD 63 = false → s.pkg.dead = false →
      becomes (.registerWrite abut 0 (0x4000 + 16 * e) w0) w 3) ∧
    (st = 3 → becomes (.circuitDown e) (s.fab.conns.get 0 e) 0))

/-- R486 to R489: the aperture reads and writes the bytes its entry covers, and answers Unsupported Request, or drops the write, when
the entry is not valid; a read beyond the aperture has the register of the configuration window, and 0 past the doorbells; admin queues
come and go, and EN that is written 1 before READY, or while an earlier record drains, is 1 with no new record yet; registers take their
RW fields. The model's choices: where the configuration window and the doorbells lie (log 23); a
register write is 8 bytes, and a read has no effect (log 81); one set of admin registers for both Abutments, and LEVEL and DL of an
admin queue 0 (log 65); when its packets have completed (log 18); that in the fatal state EN takes the write and no record is made or goes
(log 136); and reserved bits of an aperture entry read 0 and ignore writes (log
105). -/
def Obligations.HostReachesBuffersAndRegisters : Prop :=
  ∀ (abut fn off n id : Nat) (data : List Byte) (value : Word) (s : State), 1 ≤ abut → abut ≤ 2 → fn ≤ 16 →
    let o := off % 2 ^ 32
    let w0 := s.apertureWord abut fn (2 * (off / 2 ^ 32))
    let w1 := s.apertureWord abut fn (2 * (off / 2 ^ 32) + 1)
    let b := s.buf (refId w1)
    let at_ := w0.bits 39 0 + o
    let opens := fun (m : Nat) => w0.getLsbD 63 = true ∧ w0.bits 39 0 % 4096 = 0 ∧ o + m ≤ min (2 ^ 32) (b.size - w0.bits 39 0) ∧
      b.valid = true ∧ b.gen = refGen w1 ∧ b.context / 2048 = fn ∧ (b.secure = true → s.pkg.fnSecure.getD fn false = true) ∧
      b.host = false ∧ pageFaultIn s (refId w1) at_ m = none
    let seen := fun (x : List Byte × Nat) => ∃ t, exec (.apertureRead abut fn off n) s = .next t ∧
      t.io.completions = s.io.completions ++ [x] ∧ t.mem = s.mem
    (s.alive = false → s.pkg.dead = false →
      (value.getLsbD 8 = true → s.admEn fn = false →
        ∃ t, exec (.adminQueueEnable fn value) s = .next t ∧ t.admEn fn = true ∧ t.qrec fn = s.qrec fn) ∧
      (s.admEn fn = true → ∃ t, exec (.adminQueueDisable fn) s = .next t ∧ t.admEn fn = false ∧ t.qrec fn = s.qrec fn)) ∧
    (s.alive = true →
    (off < 2 ^ 36 →
      (opens n → seen (s.homeBytes (refId w1) at_ n, if (s.poisonIn (refId w1) at_ n).isSome then 2 else 0)) ∧
      (w0.getLsbD 63 = false → seen ([], 1)) ∧
      (opens data.length → w0.getLsbD 62 = true → exec (.apertureWrite abut fn off data) s =
        .next ((s.posted abut).setHome (refId w1) at_ data)) ∧
      (w0.getLsbD 62 = false → exec (.apertureWrite abut fn off data) s = .next (s.posted abut))) ∧
    (2 ^ 36 ≤ off → exec (.apertureWrite abut fn off data) s = .next (s.posted abut)) ∧
    (s.pkg.dead = false → off < 65536 → off % 8 = 0 → exec (.apertureRead abut fn (2 ^ 36 + off) 8) s =
      .next { s with io := { s.io with completions := s.io.completions ++ [(leBytes 8 (s.windowWord abut fn off), 0)] } }) ∧
    (s.pkg.dead = false → 0x8000 ≤ off → exec (.apertureRead abut fn (2 ^ 36 + 65536 + off) n) s =
      .next { s with io := { s.io with completions := s.io.completions ++ [(List.replicate n 0, 0)] } }) ∧
    (s.pkg.ready = true → value.getLsbD 8 = true → s.admEn fn = false → (s.qrec fn).valid = false →
      4 ≤ value.bits 3 0 → value.bits 3 0 ≤ 12 → s.postedAny.freshId.1 = some id →
      ∃ t, exec (.adminQueueEnable fn value) s = .next t ∧ t.admEn fn = true ∧ t.io.adminReady.get false fn = true ∧
        t.qrec fn =
        { valid := true, secure := s.pkg.fnSecure.getD fn false, admin := true, func := fn, rsize := value.bits 3 0,
          ringId := id, ringGen := (s.buf id).gen, wptr := (s.io.adminIndex.get 0 fn).bits 31 0,
          rptr := (s.io.adminIndex.get 0 fn).bits 31 0, cptr := (s.io.adminIndex.get 0 fn).bits 31 0 } ∧
        (t.buf id).host = true ∧ (t.buf id).pmap = s.io.adminBase.get 0 fn ∧ (t.buf id).size = 80 * 2 ^ value.bits 3 0) ∧
    (value.getLsbD 8 = true → s.admEn fn = false →
      ((s.qrec fn).valid = true ∧ (s.qrec fn).drained = false) ∨ ((s.qrec fn).valid = false ∧ s.pkg.ready = false) →
      ∃ t, exec (.adminQueueEnable fn value) s = .next t ∧ t.admEn fn = true ∧ t.qrec fn = s.qrec fn) ∧
    (s.admEn fn = true → ∃ t, exec (.adminQueueDisable fn) s = .next t ∧ t.admEn fn = false ∧
      ((s.qrec fn).drained = true → (t.qrec fn).valid = false ∧ t.io.adminReady.get false fn = false) ∧
      ((s.qrec fn).valid = true → (s.qrec fn).drained = false → t.qrec fn = s.qrec fn)) ∧
    (s.pkg.dead = false →
      (off < 0x1000 → exec (.registerWrite abut fn off value) s = .next (s.posted abut)) ∧
      (s.admEn fn = false → ∃ t, exec (.registerWrite abut fn 0x1000 value) s = .next t ∧
        t.io.adminBase.get 0 fn = value &&& 0xFFFF_FFFF_FFFF_F000) ∧
      (n < 16 → ∃ t, exec (.registerWrite abut fn (0x1100 + 16 * n) value) s = .next t ∧
        t.apertureWord abut fn (2 * n) = value &&& 0xC000_00FF_FFFF_FFFF) ∧
      (n < 16 → ∃ t, exec (.registerWrite abut fn (0x1108 + 16 * n) value) s = .next t ∧
        t.apertureWord abut fn (2 * n + 1) = value &&& 0xFFFF_FFFF_FF00_0000)))

/-- R490 to R494: a steering entry is taken and its descriptors emptied; a frame that it takes is stored whole, and its descriptor
filled, with the device time of its timestamp point, no later than the frame took to arrive and not before the last byte of the frame
before it on its port; a full egress slot is sent and its word 1 filled with the device time of its sending; dropped frames are counted; the PTP port's frames lock the clock, and the Keystone's own leave
through that port. The model's choices: the FCS is the CRC-32 of IEEE 802.3 (log 99, PRESUMED); which port is the PTP port is a field of
the state, and the words of a PTP message are the event's (log 63); how long ago a timestamp point lies is the event's too, and an
egress slot is sent at the device time at which it is consumed (log 133); and a steering entry is written in the fatal state as else
(log 136). -/
def Obligations.FramesEnterAndLeave : Prop :=
  ∀ (abut e port : Nat) (w0 w1 w2 w3 : Word) (age : Nat) (frame : List Byte) (out : List (List Byte)) (locked badFcs : Bool)
    (offset : BitVec 32) (adjust : Int) (s : State), 1 ≤ abut → abut ≤ 2 → e ≤ 63 → port ≤ 3 → s.pkg.dead = false →
    let x := s.steerOf abut e
    let d := x.descOff x.next
    let a := x.dataOff x.next
    let new : Steer := { x with w0 := w0 &&& 0xFFFF_FFFF_F81F_0000, w1 := w1 &&& 0x0000_FFFF_FFFF_FFFF,
                                w2 := w2 &&& 0xFFFF_FFFF_FFFF_0000, w3 := w3, next := 0, seq := 0 }
    let apart := ∀ i j, i < x.ringLen → j < x.ringLen → s.pa x.id (x.w3.toNat + i) = s.pa x.id (x.w3.toNat + j) → i = j
    let step_ := fun (y : Steer) => y.next = (x.next + 1) % x.nslots
    let drop := s.io.portDrops.get 0 (abut * 4 + port)
    (w0.getLsbD 63 = true → x.valid = false → s.steerBad new = false →
      ∃ t, exec (.steeringEnable abut e w0 w1 w2 w3) s = .next t ∧ t.steerOf abut e = new ∧
        ∀ i, i < new.nslots → t.feAt new.id (new.descOff i) = false ∧ (new.egress = true → t.feAt new.id (new.descOff i + 8) = false)) ∧
    (w0.getLsbD 63 = true → x.valid = false → s.steerBad new = true →
      ∃ t, exec (.steeringEnable abut e w0 w1 w2 w3) s = .next t ∧ (t.steerOf abut e).valid = false ∧ t.fe = s.fe) ∧
    (x.valid = true → exec (.steeringDisable abut e) s =
      .next ((s.posted abut).setSteer abut e { x with w0 := x.w0 &&& 0x7FFF_FFFF_FFFF_FFFF })) ∧
    (s.alive = true → s.pkg.ready = true → frameNat frame 12 2 ≠ 0x88F7 → s.steerFor abut port frame = some e → s.ringLive x = true → s.feAt x.id d = false →
      frame.length ≤ x.slotBytes → x.w3.toNat % 4096 = 0 → x.next < x.nslots → apart → s.bareEngines →
      let wire := ((frame.length + 4) * 8 + 799) / 800
      let ended := s.io.portEnd.get 0 (abut * 4 + port)
      let stamp := max (min ended s.now) (s.now - max age wire)
      ∃ t, exec (.ingressFrame abut port frame age) s = .next t ∧ t.homeBytes x.id a frame.length = frame ∧
        t.homeNat x.id d 8 = x.seq.toNat * 2 ^ 32 + port * 2 ^ 30 + frame.length ∧ t.homeNat x.id (d + 8) 8 = stamp ∧ t.io.portEnd.get 0 (abut * 4 + port) = stamp + wire ∧
        t.feAt x.id d = true ∧ step_ (t.steerOf abut e) ∧ (t.steerOf abut e).seq = x.seq + 1) ∧
    (s.alive = true → s.pkg.ready = true → badFcs = true ∨ (frameNat frame 12 2 ≠ 0x88F7 ∧ s.steerFor abut port frame = none) → exec (.receivedFrameDrop abut port frame badFcs) s =
      .next { s with io := { s.io with portDrops := s.io.portDrops.set 0 (abut * 4 + port) (drop + 1) } }) ∧
    (∀ i, i = .egressSlot abut e age ∨ i = .egressRetry abut e age → s.alive = true → s.pkg.ready = true → x.valid = true → x.egress = true → s.ringLive x = true →
      s.feAt x.id d = true → x.w3.toNat % 4096 = 0 → x.next < x.nslots →
      let len := s.homeNat x.id d 8 % 65536
      60 ≤ len → len ≤ x.slotBytes → s.poisonIn x.id a len = none →
      ∃ t, exec i s = .next t ∧ t.io.sent = s.io.sent ++ [⟨abut, x.port, s.homeBytes x.id a len, frameFcs (s.homeBytes x.id a len)⟩] ∧
        t.homeNat x.id (d + 8) 8 = s.now ∧
        t.feAt x.id d = false ∧ t.feAt x.id (d + 8) = true ∧ step_ (t.steerOf abut e)) ∧
    (s.alive = true → s.io.ptpPort = (abut - 1) * 4 + port → ∃ t, exec (.ptpFrame abut port locked offset ⟨adjust, out⟩) s = .next t ∧
      t.io.locked = locked ∧ t.io.ptpOffset = offset ∧
      t.io.sent = s.io.sent ++ (out.filter fun f => frameNat f 12 2 == 0x88F7).map (fun f => ⟨abut, port, f, frameFcs f⟩) ∧
      t.devTime = if s.anyContext then s.devTime else s.devTime + BitVec.ofInt 64 adjust)

/-- R18, R277, R496 to R501: what each error of the hardware leaves; the record of the log; the retirement of cores and dies: the remap
tables, then CHANGES odd, then the entries, then CHANGES even with the record, one write at each turn, and no other retirement
meanwhile. The model's choices: a context ends when any of its logical cores is bound to the unit (log 67), a clean L1 line that fails
is dropped (log 73), and an HBM page that no buffer holds is not poisoned (log 74). -/
def Obligations.HardwareErrorsAreRecorded : Prop :=
  ∀ (pa die pos c g slot line core link lane : Nat) (s : State), s.alive = true → s.pkg.ready = true → pa < 2 ^ 39 →
    isCompute die = true → pos ≤ 15 → core ≤ 7 → link ≤ 47 →
    let does := fun (e : HwError) (f : State → Prop) => ∃ t, exec (.hardwareError e) s = .next t ∧ f t
    let key := (32 + (23 + pa / 2 ^ 36 % 8)) * 512 + (pa % 65536 / 512 + pa / 65536 % 2 ^ 20) % 64
    let rec_ := 0x40 + 32 * (s.ks.logHead % 1024)
    let begun := fun (t : State) (unit : Nat) =>
      t.pkg.changing = some ⟨die, unit, s.die die, 1⟩ ∧ t.pkg.changes = s.pkg.changes ∧ ∀ j, t.discWord j = s.discWord j
    (s.ks.lastErr.get none key = none → does (.hbmCorrected pa) fun t => t.ks.logHead = s.ks.logHead + 1 ∧
      t.homeNat logBuf rec_ 8 = s.now ∧ t.homeNat logBuf (rec_ + 16) 8 = pa / 32 * 32 ∧
      t.homeNat logBuf (rec_ + 8) 8 = 2 ^ 56 + (23 + pa / 2 ^ 36 % 8) * 2 ^ 47 +
        (pa % 65536 / 512 + pa / 65536 % 2 ^ 20) % 64 * 2 ^ 38 + 1 ∧
      t.homeNat logBuf 0 8 = (s.ks.logHead + 1) % 2 ^ 64) ∧
    (∀ id page, s.pageHolding pa = some (id, page) → does (.hbmUncorrectable pa) fun t =>
      t.poisonAt id (page * 65536 + pa % 65536) = true ∧ pageDirty (t.page id (page * 65536)) = true) ∧
    (s.ks.lastErr.get none (3 * 32 * 512) = none → does (.sramCorrected 0 pos) fun t => t.ks.logHead = s.ks.logHead + 1) ∧
    does (.sramCorrected die pos) (fun t => s.now ∈ (t.die die).corrected.get [] pos) ∧
    (s.ks.lastErr.get none ((4 * 32 + die) * 512 + pos) = none → does (.sramUncorrectable die pos) fun t =>
      t.ks.logHead = s.ks.logHead + 1 ∧ t.pkg.dies = s.pkg.dies) ∧
    (s.hasMemory c = true →
      let at_ := s.pa (32 * g / 2 ^ 40) (32 * g % 2 ^ 40)
      let (d, p) := ((s.lcore c).die, (s.lcore c).pos)
      does (.l1Corrected c g) fun t => s.now ∈ (t.die d).corrected.get [] p ∧
        (s.ks.lastErr.get none ((3 * 32 + d) * 512 + p) = none →
          t.homeNat logBuf (rec_ + 16) 8 = at_ / 32 * 32 ∧ t.homeNat logBuf (rec_ + 24) 8 = s.ownerOf at_ % 2 ^ 64)) ∧
    (s.hasMemory c = true → s.dirtyGranules c line = [] → does (.l1Uncorrectable c line) fun t =>
      ∀ i, i < 64 → (t.lcore c).l1.get none (line * 64 + i) = none) ∧
    (s.hasMemory c = true → g < lsSize / 32 + 128 → does (.localStoreUncorrectable c g) fun t => (t.lcore c).lsPoison.get false g = true) ∧
    (s.hasMemory c = true → g ≤ 511 → ((s.lcore c).mx.slots.get {} slot).st ≠ .free → does (.operandUncorrectable c slot g) fun t =>
      ((t.lcore c).mx.slots.get {} slot).poison.get false g = true) ∧
    (s.hasMemory c = true → g ≤ 8191 → does (.accumulatorUncorrectable c g) fun t => (t.lcore c).mx.regionPoison.get false g = true) ∧
    does (.registerUncorrectable die pos) (fun t => (t.die die).failing.get false pos = true ∧
      ((s.lcore c).die = die → (s.lcore c).pos = pos → (t.ctx (ctxOfLc c)).st = .absent)) ∧
    does .keystoneMemory (fun t => t.pkg.fatal = some 2) ∧
    does (.firmwareState core) (fun t => t.pkg.fatal = some 3) ∧
    does (.laneRepaired link lane) (fun t => t.pkg.fatal = none ∧ t.pkg.dies = s.pkg.dies) ∧
    (die ≤ 30 → does (.routerUncorrectable die) fun t => (t.die die).routerBad = true) ∧
    does .trestle (fun t => t.pkg.fatal = some 6) ∧
    (s.pkg.changing = none → (s.die die).cores.getLsbD pos = true → s.coreFails die pos = true →
      ∃ t, exec (.coreRetirement die pos) s = .next t ∧ begun t pos ∧
        ((s.lcore c).die = die → (s.lcore c).pos = pos → (t.ctx (ctxOfLc c)).st = .absent) ∧
        (t.die die).cores = (s.die die).cores &&& ~~~(BitVec.ofNat 16 (2 ^ pos))) ∧
    (s.pkg.changing = none → (s.die die).inService = true → ((s.die die).routerBad = true ∨ (s.die die).nCores = 0) →
      ∃ t, exec (.dieRetirement die) s = .next t ∧ begun t 16 ∧ ((s.lcore c).die = die → (t.ctx (ctxOfLc c)).st = .absent) ∧
        (t.die die).inService = false ∧ (t.die die).retired = true ∧ (t.die die).cores = 0 ∧ ∀ k, t.remapByte die k = 0) ∧
    (∀ i unit x, (i = .coreRetirement die pos ∧ unit = pos) ∨ (i = .dieRetirement die ∧ unit = 16) → s.pkg.changing = some x →
      let goes := fun (n : BitVec 8) (y : Option Change) => exec i s = .next { s with pkg := { s.pkg with changes := n, changing := y } }
      let mine := x.die = die ∧ x.pos = unit
      (mine → x.made = 1 → goes (s.pkg.changes + 1) (some { x with made := 2 })) ∧
      (mine → x.made = 2 → goes s.pkg.changes (some { x with made := 3 })) ∧
      (mine → x.made = 3 → ∃ t, exec i s = .next t ∧ t.pkg.changes = s.pkg.changes + 1 ∧ t.pkg.changing = none ∧
        t.pkg.dies = s.pkg.dies) ∧
      (¬mine → exec i s = .next s)) ∧
    exec .patrolScrub s = .next s

/-- R500, R505, R506: heartbeats, none before its 50 µs have passed; temperature; attestation. That a beat and a check are one event,
and when the first may come, is the model's choice (log 75). -/
def Obligations.HeartbeatsTemperatureAttestation : Prop :=
  ∀ (core die temp : Nat) (s : State), core ≤ 7 → die ≤ 31 → s.alive = true →
    let j := (core + 1) % 8
    let missed := if s.ks.beats.get 0 j = s.ks.beatSeen.get 0 j then s.ks.missed.get 0 j + 1 else 0
    let req := s.homeNat attestBuf 0 8
    let due := ¬ (s.now < s.ks.beatDue.get 0 core ∧ s.ks.beatDue.get 0 core ≤ s.now + 50_000)
    (1 ≤ s.pkg.stage → ¬ due → exec (.heartbeat core) s = .next s) ∧
    (1 ≤ s.pkg.stage → due → ∃ t, exec (.heartbeat core) s = .next t ∧ t.ks.beatDue.get 0 core = s.now + 50_000 ∧ t.ks.beats.get 0 core = s.ks.beats.get 0 core + 1 ∧
      t.ks.missed.get 0 j = missed ∧ (t.pkg.fatal = if 4 ≤ missed then some 1 else none)) ∧
    (95 ≤ temp → (s.die die).throttled = false → ∃ t, exec (.thermalThrottle die temp) s = .next t ∧ (t.die die).throttled = true) ∧
    (temp < 90 → ∃ t, exec (.thermalThrottleEnd die temp) s = .next t ∧ t.die die = { s.die die with throttled := false }) ∧
    (110 ≤ temp → ∃ t, exec (.thermalTrip die temp) s = .next t ∧ t.pkg.fatal = some 5) ∧
    (s.pkg.ready = true → s.feAt attestBuf 0 = true → s.pkg.measure.length = 5 →
      ∃ t, exec .attestationRequest s = .next t ∧ t.feAt attestBuf 0 = false ∧ t.feAt attestBuf 0x40 = true ∧
        t.homeNat attestBuf 0x40 8 = req ∧ t.homeNat attestBuf 0x100 8 = 0x41545354 ∧ t.homeNat attestBuf 0x108 8 = req ∧
        t.homeNat attestBuf 0x118 8 = s.now ∧ t.homeBytes attestBuf 0x230 48 = s.homeBytes attestBuf 8 48)

/-- R504, R507, R508: the steps of bring-up, of which the last makes the module ready; what each reset leaves. The model's choices: what
a reset of the module keeps, and what each of the others clears beyond the rule's words (log 26); that device time is 0 after a reset of
the module, of which the rules say nothing (log 2), and that its memory then lists no byte (log 4); and the stage of the world policy (log
72). -/
def Obligations.BringUpAndResets : Prop :=
  ∀ (fn q x : Nat) (s : State),
    (s.alive = true → s.pkg.ready = false → s.pkg.stage < 5 → (s.pkg.stage = 0 → bootImage 1 ≠ none) →
      (s.pkg.stage = 4 → bootImage 2 ≠ none) → ∃ t, exec .bringUp s = .next t ∧ t.pkg.stage = s.pkg.stage + 1 ∧
        t.alive = true ∧ t.pkg.ready = false) ∧
    (s.alive = true → s.pkg.ready = false → s.pkg.stage = 5 → bootImage 4 ≠ none → ∃ t, exec .bringUp s = .next t ∧
      t.pkg.ready = true ∧ t.alive = true ∧ (t.buf logBuf).valid = true ∧ (t.buf dumpBuf).valid = true ∧
      (t.buf attestBuf).valid = true) ∧
    (s.alive = true → s.pkg.ready = false → s.pkg.stage = 0 → bootImage 1 = none → ∃ t, exec .bringUp s = .next t ∧
      t.pkg.dead = true) ∧
    (∀ i, i = .coldReset ∨ i = .perstAbutment1 → ∃ t, exec i s = .next t ∧ t.ctxs = [] ∧ t.strands = [] ∧ t.lcores = [] ∧
      t.bufs = [] ∧ t.mem = [] ∧ t.devTime = 0 ∧ t.pkg.ready = false ∧ t.pkg.dead = false ∧ t.pkg.fatal = none ∧
      t.pkg.stage = 0 ∧ t.ks = {} ∧ t.hostMem = s.hostMem) ∧
    (fn < 32 → Tab.wf 0 s.io.aperture = true → ∃ t, exec .perstAbutment2 s = .next t ∧
      (∀ j, j < 32 → t.apertureWord 2 fn j = 0 ∧ t.apertureWord 1 fn j = s.apertureWord 1 fn j) ∧ t = { s with io := t.io }) ∧
    (1 ≤ fn → fn ≤ 16 → s.alive = true → ∃ t, exec (.functionLevelReset fn) s = .next t ∧
      (x / 2048 = fn → (t.ctx x).st = .absent) ∧ ((t.qrec q).valid = true → (t.qrec q).func ≠ fn) ∧ t.admEn fn = false ∧
      t.io.adminBase.get 0 fn = 0)

-- The whole machine.

/-- R124 to R155: every well-formed instruction that is no event has a word, and the decoder reads it back with every operand. -/
def Obligations.EncodedInstructionsDecode : Prop :=
  ∀ i : Instr, i.wf = true → (i.isEvent = false → (encode i).isSome = true) ∧ ∀ w, encode i = some w → decode w = .ok i

/-- R103, R106, R126, R189: a turn of a logical core focuses its strand, and runs the instruction that the word at its offset decodes to;
a due time-compare, a word that does not decode, a fetch beyond the buffer and one that fails its checks trap in its place. When no
access is part done, that is the whole of the turn; else what was still to arrive of the strand's own access arrives first, and a load that
has read words earlier has those values of them, whatever stands there now. The other turns of the agenda. R427 and R470: a step ends with
the entries moved, and with the records of the logical cores that are not resident in their backing areas, of which a byte of a local store
that the turn has written there is in the local store. The model's choices: the agenda, which says what acts next (log 1); that an access of
several words may be parted, and what the agenda says of it (log 113); and the place of each record in the backing buffer (log 111). -/
def Obligations.StepRunsTheDecodedInstruction : Prop :=
  ∀ (s : State) (c k n ns line q : Nat) (rest : List Turn) (ps : List Spot) (i : Instr) (w : Word),
    let u := { s with agenda := rest }
    let l := (u.landFor (.strand k)).focus k
    let early := l.readBy (.strand k)
    let f := l.forget (.strand k)
    let here := (s.agenda = .late c ps :: rest ∨ (ps = [] ∧ s.agenda = .issue c :: rest)) ∧ u.chooseStrand c = some k
    let at_ := f.fetch (ctxOf k) (f.strand k).pc
    (∀ t, turn s = .next t → step s = .next (t.moveEntries.takeAreas s).layAreas) ∧
    (s.apart = {} → l = u.focus k ∧ early = [] ∧ f = u.focus k) ∧
    (here → f.timeDue k = true → turn s = exec (.timeCompare (lcOf k) (numOf k)) f) ∧
    (here → f.timeDue k = false → at_ = .word w → decode w = .ok i →
      turn s = (if early = [] ∧ ps = [] then exec i f else execApart early ps i f)) ∧
    (∀ v, execApart [] [] i v = exec i v) ∧
    (here → f.timeDue k = false → at_ = .word w → decode w = .error n → turn s = exec (.illegalInstruction n w) f) ∧
    (∀ x, here → f.timeDue k = false → at_ = .bad x → turn s = f.raiseT x) ∧
    (here → f.timeDue k = false → at_ = .beyond → turn s = exec (.instructionFetchFault (f.strand k).pc) f) ∧
    (s.agenda = .issue c :: rest ∨ s.agenda = .late c ps :: rest → u.chooseStrand c = none → turn s = .next u) ∧
    (s.agenda = [] → turn s = issue (lcOf s.cur) [] s) ∧
    (s.agenda = .event i :: rest → i.isEvent = true → turn s = exec i (if fallsBetween i then u else u.whole)) ∧
    (s.agenda = .elapse ns :: rest → turn s = .next (u.whole.elapse ns)) ∧
    (s.agenda = .evict c line :: rest → turn s = .next (u.evictLine c line)) ∧
    (s.agenda = .word c line :: rest → turn s = .next (u.evictWord c line)) ∧
    (s.agenda = .units c q n ps :: rest → turn s = u.runUnits c q n ps) ∧
    (s.agenda = .ahead c q ps :: rest → turn s = .next (u.readAhead c q ps)) ∧
    (s.agenda = .arrive ps :: rest → turn s = .next (u.landWhere fun x => x.spot.named ps)) ∧
    (s.agenda = .early c ps :: rest → s.apart = {} → u.chooseStrand c = some k → (u.nextInstr k).bind loadsParts = some false →
      (s.strand k).version = none →
      ∃ t, turn s = .next t ∧ t = { u with apart := t.apart } ∧ t.apart.late = [] ∧
        (∀ e, e ∈ t.apart.early → e.who = .strand k ∧ e.got = s.spotKept c false e.spot) ∧
        ∀ p, p ∈ ps → s.spotThere p.word = true → ∀ j, j < 8 → ∃ e, e ∈ t.apart.early ∧ e.spot = p.word.plus j) ∧
    (s.apart = {} → s.whole = s) ∧
    (s.entries = [] → s.moveEntries = s) ∧
    (∀ t : State, t.mem = s.mem → t.poison = s.poison → t.takeAreas s = t) ∧
    ((∀ e, e ∈ s.ctxs → e.2.st = .absent ∨ e.2.backBuf = 0 ∨ ∀ m, m < e.2.lcount → (s.lcore (mkLc e.1 m)).resident = true) →
      s.layAreas = s) ∧
    (∀ x e, s.ctxs = [(x, e)] → e.st ≠ .absent → e.backBuf ≠ 0 → e.lcount = 1 → (s.lcore (mkLc x 0)).resident = false →
      s.layAreas = s.writeImage e.backBuf 0 (s.lcore (mkLc x 0)).recordSize (s.corePieces (mkLc x 0) id) ∧
      (∀ a b, a < lsSize → Memory.wf s.mem = true → (s.buf e.backBuf).host = false →
        (∀ i j, i < 0x10_0000 → j < 0x10_0000 → s.pa e.backBuf i = s.pa e.backBuf j → i = j) →
        (((s.setHomeByte e.backBuf (0x8_0000 + a) b).takeAreas s).lcore (mkLc x 0)).ls.get 0 a =
          if s.homeByte e.backBuf (0x8_0000 + a) = b then (s.lcore (mkLc x 0)).ls.get 0 a else b))

/-- R39, R69: every step keeps device memory and host memory in their canonical form. That memory is a list of cells in that form, and
what a byte that nothing has written reads as, is the model's choice (log 4). -/
def Obligations.StepsKeepMemoryCanonical : Prop :=
  ∀ s t : State, Memory.wf s.mem = true → Memory.wf s.hostMem = true → step s = .next t →
    Memory.wf t.mem = true ∧ Memory.wf t.hostMem = true

/-- R7, R18, R107, R426, R448, R457, R480, R487, R507: what a cold reset leaves, of the values the rules state. -/
def Obligations.ResetHoldsTheStatedValues : Prop :=
  let s := State.reset
  Memory.wf s.mem = true ∧ Memory.wf s.hostMem = true ∧ s.pkg.ready = false ∧ s.pkg.fatal = none ∧ s.ks.dlShare = 16 ∧
  (∀ x, (s.ctx x).st = .absent) ∧ (∀ q, (s.qrec q).valid = false) ∧ (∀ j, s.discWord j = 0) ∧ (∀ d slot, s.remapByte d slot = 0) ∧
  (∀ l v, (s.link l).credit v = 64) ∧ (∀ f, s.admEn f = false) ∧ (∀ a e, (s.steerOf a e).valid = false) ∧
  ∀ k, let t := s.strand k
    (∀ r, t.rs r = 0) ∧ (∀ r e, t.rv r e = 0) ∧ (∀ r e, t.acc r e = 0) ∧ (∀ b, t.cap b = 0) ∧ (∀ n, t.lcGet n = 0) ∧
    t.fectl = 0x0040_0000 ∧ t.feBudget = 0x0001_0000_0001_0000 ∧ t.timeCmp = BitVec.allOnes 64 ∧ t.fpctl = 0

/-- R124 to R155: the words that the chapters of the spec write out bit by bit, and three that the checks of R126 refuse. -/
def Obligations.WrittenWordsDecode : Prop :=
  decode 0x800B_0E18_98C3_0040 = .ok (.ld ⟨5, true⟩ .i32 .plain .acq .pkg 7 ⟨.dev, 3, 4, 3, 0x40⟩) ∧
  decode 0x5500_142C_60D0_0550 = .ok (.fma ⟨0, false⟩ .f32 .rtz 0 10 11 12 13) ∧
  decode 0x7000_0303_0000_0000 = .ok (.loop ⟨0, false⟩ 0 3 3 0) ∧
  decode 0x7000_4000_0000_0004 = .ok (.loop ⟨0, false⟩ 1 0 0 4) ∧
  decode 0x0600_0800_0040_0000 = .ok (.crd ⟨0, false⟩ 4 .trapCause) ∧
  decode 0x9800_1410_0105_0018 = .ok (.famoadd ⟨0, false⟩ .i64 .rel .pkg 10 ⟨.dev, 2, 0, 0, 0x18⟩) ∧
  decode 0x8000_0E80_0110_0100 = .ok (.ld ⟨0, false⟩ .i64 .cn .none .core 7 ⟨.ls, 0, 0, 0, 0x100⟩) ∧
  decode 0xC700_2000_0000_0000 = .ok (.qclr ⟨0, false⟩ 2) ∧
  decode 0x7800_0200_0000_0040 = .ok (.qld ⟨0, false⟩ .none .core 1 ⟨.dev, 0, 0, 0, 0x40⟩) ∧
  decode 0x8400_0400_0040_0000 = .ok (.vld ⟨0, false⟩ .none .core 1 2 ⟨.dev, 0, 0, 0, 0⟩) ∧
  decode 0xB902_0608_0000_1400 = .ok (.vredr ⟨1, false⟩ .sum .f32 .none 3 2) ∧
  decode 0x55C0_142C_60D0_0550 = .error 2 ∧
  decode 0 = .error 1 ∧
  decode 0x0600_0800_0040_0001 = .error 3

/-- R108, R125, R126: s0 and p0 discard writes and read as constants, every other register reads as written. Every instruction that is no
event has a guard; a word whose guard is false, or selects no element where it selects elements, has no effect but the passage to the next
offset; and a word on a strand that may not run it raises illegal instruction with DETAIL 4, whatever its guard. -/
def Obligations.HardWiredRegistersAndFalseGuards : Prop :=
  (∀ (t : Strand) (d r : SR) (p q : PR) (v : Word) (x : Pred),
    (t.ws d v).rs r = (if r = 0 then 0 else if r = d then v else t.rs r) ∧ t.ws 0 v = t ∧ t.wp 0 x = t ∧
    t.rp 0 = BitVec.allOnes 1024 ∧ (t.wp p x).rp q = (if q = 0 then BitVec.allOnes 1024 else if q = p then x else t.rp q)) ∧
  (∀ i : Instr, (wordGuard i).isSome = !i.isEvent) ∧
  (∀ (i : Instr) (g : Guard) (who : Who) (elements : Bool) (s : State), wordGuard i = some (g, who, elements) →
    (who.ok s.cur = true → (if elements then s.me.mask g = 0 else s.me.guard g = false) → exec i s = .next (s.retired s.me)) ∧
    (who.ok s.cur = false → exec i s = .next (s.takeTrap s.cur 0x01 4 s.me.pc (wordOf i))))

/-- R163 to R166, R175, R179: what the scalar words leave: all of memory, every other strand, and of their own strand every register but
the destination, the loop counters of the end check and the offset. -/
def Obligations.ScalarWordsKeepTheRest : Prop :=
  ∀ (g : Guard) (kk : BitVec 2) (k : BitVec 6) (tt : BitVec 4) (ty : Ty) (cc : Cond) (ci : CondI) (d ra rb rc : SR) (p pa pb : PR)
      (imm : BitVec 32) (s t : State) (i : Instr), exec i s = .next t →
    let rest := t = { s with strands := t.strands } ∧ (∀ j, j ≠ s.cur → t.strand j = s.strand j) ∧
      t.me = { s.me with s := t.me.s, p := t.me.p, lc := t.me.lc, pc := t.me.pc, wait := .none }
    (i ∈ [.add g d ra rb, .sub g d ra rb, .mul g d ra rb, .mulh g d ra rb, .mulhu g d ra rb, .div g d ra rb, .divu g d ra rb,
        .rem g d ra rb, .remu g d ra rb, .and g d ra rb, .or g d ra rb, .xor g d ra rb, .andn g d ra rb, .shl g d ra rb,
        .shr g d ra rb, .sra g d ra rb, .rotl g d ra rb, .min g d ra rb, .max g d ra rb, .minu g d ra rb, .maxu g d ra rb,
        .clz g d ra, .ctz g d ra, .popc g d ra, .mad g d ra rb rc, .lea g kk d ra rb, .ext g ty d ra, .sadd g ty d ra rb,
        .ssub g ty d ra rb, .sel g d pa ra rb, .addi g d ra imm, .andi g d ra imm, .ori g d ra imm, .xori g d ra imm,
        .muli g d ra imm, .shli g d ra k, .shri g d ra k, .srai g d ra k, .movi g d imm, .movhi g d ra imm, .adpc g d imm,
        .pcnt g d pa, .pfirst g d pa] →
      rest ∧ t.me.p = s.me.p ∧ ∀ r, r ≠ d → t.me.rs r = s.me.rs r) ∧
    (i ∈ [.cmp g cc p ra rb, .cmpi g ci p ra imm, .cmpiu g ci p ra imm, .plog g tt p pa pb, .prange g p ra rb, .psplat g p ra] →
      rest ∧ t.me.s = s.me.s ∧ ∀ r, r ≠ p → t.me.rp r = s.me.rp r)
end

