-- ==== Sys2Proof/Laws/Tab.lean ====
section
/-! SUPPORT. The laws of the sparse table: read after write, other keys, and the canonical form. -/

namespace Sys2Proof.Tab
variable {α : Type}

@[simp] theorem get_nil (d : α) (k : Nat) : get d [] k = d := rfl

theorem get_dropLe_le (d : α) (t : Tab α) (k j : Nat) (h : j ≤ k) : get d (dropLe t k) j = d := by
  induction t with
  | nil => rfl
  | cons e t ih =>
    obtain ⟨k0, v0⟩ := e
    by_cases h0 : k0 ≤ k
    · simp only [dropLe, h0, if_true, ih]
    · have h1 : ¬ j = k0 := by omega
      have h2 : j < k0 := by omega
      simp only [dropLe, h0, if_false, get, h1, h2, if_true]

theorem get_dropLe_gt (d : α) (t : Tab α) (k j : Nat) (h : k < j) : get d (dropLe t k) j = get d t j := by
  induction t with
  | nil => rfl
  | cons e t ih =>
    obtain ⟨k0, v0⟩ := e
    by_cases h0 : k0 ≤ k
    · have h1 : ¬ j = k0 := by omega
      have h2 : ¬ j < k0 := by omega
      simp only [dropLe, h0, if_true, ih, get, h1, h2, if_false]
    · simp only [dropLe, h0, if_false]

@[simp] theorem get_set_same [DecidableEq α] (d : α) (t : Tab α) (k : Nat) (v : α) :
    get d (set d t k v) k = v := by
  induction t with
  | nil => by_cases hv : v = d <;> simp [set, hv, get]
  | cons e t ih =>
    obtain ⟨k0, v0⟩ := e
    rcases lt_trichotomy k k0 with h | h | h
    · by_cases hv : v = d
      · simp [set, hv, get, h, Nat.ne_of_lt h]
      · simp [set, hv, get, h]
    · subst h
      by_cases hv : v = d
      · simp [set, hv, get_dropLe_le]
      · simp [set, hv, get]
    · have h1 : ¬ k < k0 := by omega
      have h2 : ¬ k = k0 := by omega
      simp only [set, h1, h2, if_false, get, ih]

@[simp] theorem get_set_other [DecidableEq α] (d : α) (t : Tab α) (k j : Nat) (v : α) (hne : j ≠ k) :
    get d (set d t k v) j = get d t j := by
  induction t with
  | nil =>
    by_cases hv : v = d
    · simp [set, hv]
    · by_cases hl : j < k <;> simp [set, hv, get, hne, hl]
  | cons e t ih =>
    obtain ⟨k0, v0⟩ := e
    rcases lt_trichotomy k k0 with h | h | h
    · by_cases hv : v = d
      · simp [set, hv, h]
      · by_cases hj : j < k
        · have h1 : ¬ j = k0 := by omega
          have h2 : j < k0 := by omega
          simp [set, hv, h, get, hne, hj, h1, h2]
        · simp [set, hv, h, get, hne, hj]
    · subst h
      by_cases hv : v = d
      · by_cases hj : j < k
        · simp [set, hv, get, hne, hj, get_dropLe_le d t k j (by omega)]
        · simp [set, hv, get, hne, hj, get_dropLe_gt d t k j (by omega)]
      · by_cases hj : j < k <;> simp [set, hv, get, hne, hj]
    · have h1 : ¬ k < k0 := by omega
      have h2 : ¬ k = k0 := by omega
      simp only [set, h1, h2, if_false, get, ih]

theorem get_set [DecidableEq α] (d : α) (t : Tab α) (k j : Nat) (v : α) :
    get d (set d t k v) j = if j = k then v else get d t j := by
  by_cases h : j = k
  · subst h; simp
  · simp [h]

theorem wfFrom_mono [DecidableEq α] (d : α) (t : Tab α) (a b : Nat) (h : a ≤ b)
    (hw : wfFrom d b t = true) : wfFrom d a t = true := by
  cases t with
  | nil => rfl
  | cons e t =>
    simp only [wfFrom, Bool.and_eq_true, decide_eq_true_eq] at *
    exact ⟨⟨by omega, hw.1.2⟩, hw.2⟩

theorem wfFrom_dropLe [DecidableEq α] (d : α) (t : Tab α) (k lo : Nat)
    (hw : wfFrom d lo t = true) : wfFrom d lo (dropLe t k) = true := by
  induction t generalizing lo with
  | nil => rfl
  | cons e t ih =>
    obtain ⟨k0, v0⟩ := e
    by_cases h0 : k0 ≤ k
    · simp only [dropLe, h0, if_true]
      simp only [wfFrom, Bool.and_eq_true, decide_eq_true_eq] at hw
      exact ih _ (wfFrom_mono d t lo (k0 + 1) (by omega) hw.2)
    · simpa only [dropLe, h0, if_false] using hw

theorem wfFrom_set [DecidableEq α] (d : α) (t : Tab α) (k lo : Nat) (v : α) (hk : lo ≤ k)
    (hw : wfFrom d lo t = true) : wfFrom d lo (set d t k v) = true := by
  induction t generalizing lo with
  | nil => by_cases hv : v = d <;> simp [set, hv, wfFrom, hk]
  | cons e t ih =>
    obtain ⟨k0, v0⟩ := e
    have hw' := hw
    simp only [wfFrom, Bool.and_eq_true, decide_eq_true_eq] at hw'
    obtain ⟨⟨hlo, hd⟩, ht⟩ := hw'
    rcases lt_trichotomy k k0 with h | h | h
    · by_cases hv : v = d
      · simpa [set, hv, h] using hw
      · simp only [set, h, if_true, hv, if_false, wfFrom, Bool.and_eq_true, decide_eq_true_eq]
        exact ⟨⟨hk, hv⟩, ⟨by omega, hd⟩, ht⟩
    · subst h
      by_cases hv : v = d
      · simp only [set, lt_irrefl, if_false, hv, if_true]
        exact wfFrom_dropLe d t k lo (wfFrom_mono d t lo (k + 1) (by omega) ht)
      · simp only [set, lt_irrefl, if_false, if_true, hv, wfFrom, Bool.and_eq_true, decide_eq_true_eq]
        exact ⟨⟨hk, hv⟩, ht⟩
    · have h1 : ¬ k < k0 := by omega
      have h2 : ¬ k = k0 := by omega
      simp only [set, h1, h2, if_false, wfFrom, Bool.and_eq_true, decide_eq_true_eq]
      exact ⟨⟨hlo, hd⟩, ih (k0 + 1) (by omega) ht⟩

/-- Every write keeps the canonical form. -/
theorem wf_set [DecidableEq α] (d : α) (t : Tab α) (k : Nat) (v : α) (hw : wf d t = true) :
    wf d (set d t k v) = true := wfFrom_set d t k 0 v (Nat.zero_le k) hw

theorem wfFrom_filter [DecidableEq α] (d : α) (t : Tab α) (f : Nat × α → Bool) (lo : Nat)
    (hw : wfFrom d lo t = true) : wfFrom d lo (t.filter f) = true := by
  induction t generalizing lo with
  | nil => rfl
  | cons e t ih =>
    simp only [wfFrom, Bool.and_eq_true, decide_eq_true_eq] at hw
    obtain ⟨⟨hlo, hd⟩, ht⟩ := hw
    by_cases hf : f e = true
    · simp only [List.filter_cons, hf, if_true, wfFrom, Bool.and_eq_true, decide_eq_true_eq]
      exact ⟨⟨hlo, hd⟩, ih _ ht⟩
    · simp only [List.filter_cons, hf, if_false, Bool.false_eq_true]
      exact ih _ (wfFrom_mono d t lo (e.1 + 1) (by omega) ht)

/-- Clearing a range keeps the canonical form. -/
theorem wf_clear [DecidableEq α] (d : α) (t : Tab α) (lo hi : Nat) (hw : wf d t = true) :
    wf d (clear t lo hi) = true := wfFrom_filter d t _ 0 hw

theorem wf_setList [DecidableEq α] (d : α) (t : Tab α) (k : Nat) (vs : List α) (hw : wf d t = true) :
    wf d (setList d t k vs) = true := by
  induction vs generalizing t k with
  | nil => exact hw
  | cons v vs ih => exact ih _ _ (wf_set d t k v hw)

theorem get_setList_other [DecidableEq α] (d : α) (t : Tab α) (k j : Nat) (vs : List α)
    (h : j < k ∨ k + vs.length ≤ j) : get d (setList d t k vs) j = get d t j := by
  induction vs generalizing t k with
  | nil => rfl
  | cons v vs ih =>
    have h' : j < k ∨ k + (vs.length + 1) ≤ j := by simpa [Nat.add_assoc] using h
    rw [setList, ih _ _ (by omega), get_set_other]
    omega

end Sys2Proof.Tab
end

