-- ==== Sys2Proof/Laws/Pages.lean ====
section
/-! SUPPORT. What the Keystone reads and writes of a resident page is what stands at its home, and the page stays where it is (R455). -/

namespace Sys2Proof.Machine

variable (s : State)

theorem pageRes_dirty (e : Word) : pageRes (e ||| BitVec.ofNat 64 (2 ^ 61)) = pageRes e := by
  have : (BitVec.ofNat 64 (2 ^ 61)).getLsbD 62 = false := by decide
  rw [pageRes, pageRes, BitVec.getLsbD_or, this, Bool.or_false]
@[simp] theorem State.touch_res (id off id' off' : Nat) :
    pageRes ((s.touch id off).page id' off') = pageRes (s.page id' off') := by
  unfold State.touch
  simp only
  split
  · rfl
  · simp only [State.page, Tab.get_set]
    split
    · rename_i h
      rw [h, pageRes_dirty]
    · rfl
@[simp] theorem State.setHomeByte_res (id off id' off' : Nat) (b : Byte) :
    pageRes ((s.setHomeByte id off b).page id' off') = pageRes (s.page id' off') := s.touch_res id off id' off'

variable {s}

theorem State.fwByte_resident {id off : Nat} (h : pageRes (s.page id off) = true) : s.fwByte id off = s.homeByte id off := by
  simp [State.fwByte, h, State.homeByte, State.pa]
theorem State.fwSetByte_resident {id off : Nat} (b : Byte) (h : pageRes (s.page id off) = true) :
    s.fwSetByte id off b = s.setHomeByte id off b := by
  simp [State.fwSetByte, h]
/-- A write within resident pages. -/
theorem State.fwSetDev_resident {id off : Nat} (bs : List Byte)
    (h : ∀ i, i < bs.length → pageRes (s.page id (off + i)) = true) : s.fwSetDev id off bs = s.setHome id off bs := by
  induction bs generalizing s off with
  | nil => rfl
  | cons b bs ih =>
    have h0 : pageRes (s.page id off) = true := h 0 (Nat.succ_pos _)
    rw [State.fwSetDev, State.setHome, State.fwSetByte_resident b h0]
    refine ih fun i hi => ?_
    rw [State.setHomeByte_res, Nat.add_assoc, Nat.add_comm 1 i]
    exact h (i + 1) (Nat.succ_lt_succ hi)

end Sys2Proof.Machine
end

