-- ==== Sys2Proof/Laws/State.lean ====
section
/-! SUPPORT. One lemma per field per update of the state: what an update leaves. -/

namespace Sys2Proof.Machine

variable (s : State)

@[simp] theorem State.setStrand_agenda (k : Nat) (x : Strand) : (s.setStrand k x).agenda = s.agenda := rfl
@[simp] theorem State.setStrand_cur (k : Nat) (x : Strand) : (s.setStrand k x).cur = s.cur := rfl
@[simp] theorem State.setStrand_apart (k : Nat) (x : Strand) : (s.setStrand k x).apart = s.apart := rfl
@[simp] theorem State.setStrand_freeCtr (k : Nat) (x : Strand) : (s.setStrand k x).freeCtr = s.freeCtr := rfl
@[simp] theorem State.setStrand_hints (k : Nat) (x : Strand) : (s.setStrand k x).hints = s.hints := rfl
@[simp] theorem State.setStrand_lcores (k : Nat) (x : Strand) : (s.setStrand k x).lcores = s.lcores := rfl
@[simp] theorem State.setStrand_ctxs (k : Nat) (x : Strand) : (s.setStrand k x).ctxs = s.ctxs := rfl
@[simp] theorem State.setStrand_tasks (k : Nat) (x : Strand) : (s.setStrand k x).tasks = s.tasks := rfl
@[simp] theorem State.setStrand_entries (k : Nat) (x : Strand) : (s.setStrand k x).entries = s.entries := rfl
@[simp] theorem State.setStrand_emission (k : Nat) (x : Strand) : (s.setStrand k x).emission = s.emission := rfl
@[simp] theorem State.setStrand_saved (k : Nat) (x : Strand) : (s.setStrand k x).saved = s.saved := rfl
@[simp] theorem State.setStrand_subs (k : Nat) (x : Strand) : (s.setStrand k x).subs = s.subs := rfl
@[simp] theorem State.setStrand_mem (k : Nat) (x : Strand) : (s.setStrand k x).mem = s.mem := rfl
@[simp] theorem State.setStrand_fe (k : Nat) (x : Strand) : (s.setStrand k x).fe = s.fe := rfl
@[simp] theorem State.setStrand_poison (k : Nat) (x : Strand) : (s.setStrand k x).poison = s.poison := rfl
@[simp] theorem State.setStrand_park (k : Nat) (x : Strand) : (s.setStrand k x).park = s.park := rfl
@[simp] theorem State.setStrand_bufs (k : Nat) (x : Strand) : (s.setStrand k x).bufs = s.bufs := rfl
@[simp] theorem State.setStrand_pages (k : Nat) (x : Strand) : (s.setStrand k x).pages = s.pages := rfl
@[simp] theorem State.setStrand_frames (k : Nat) (x : Strand) : (s.setStrand k x).frames = s.frames := rfl
@[simp] theorem State.setStrand_backing (k : Nat) (x : Strand) : (s.setStrand k x).backing = s.backing := rfl
@[simp] theorem State.setStrand_pageFor (k : Nat) (x : Strand) : (s.setStrand k x).pageFor = s.pageFor := rfl
@[simp] theorem State.setStrand_hostMem (k : Nat) (x : Strand) : (s.setStrand k x).hostMem = s.hostMem := rfl
@[simp] theorem State.setStrand_hostPoison (k : Nat) (x : Strand) : (s.setStrand k x).hostPoison = s.hostPoison := rfl
@[simp] theorem State.setStrand_fills (k : Nat) (x : Strand) : (s.setStrand k x).fills = s.fills := rfl
@[simp] theorem State.setStrand_regions (k : Nat) (x : Strand) : (s.setStrand k x).regions = s.regions := rfl
@[simp] theorem State.setStrand_notices (k : Nat) (x : Strand) : (s.setStrand k x).notices = s.notices := rfl
@[simp] theorem State.setStrand_devTime (k : Nat) (x : Strand) : (s.setStrand k x).devTime = s.devTime := rfl
@[simp] theorem State.setStrand_pkg (k : Nat) (x : Strand) : (s.setStrand k x).pkg = s.pkg := rfl
@[simp] theorem State.setStrand_ks (k : Nat) (x : Strand) : (s.setStrand k x).ks = s.ks := rfl
@[simp] theorem State.setStrand_fab (k : Nat) (x : Strand) : (s.setStrand k x).fab = s.fab := rfl
@[simp] theorem State.setStrand_io (k : Nat) (x : Strand) : (s.setStrand k x).io = s.io := rfl

@[simp] theorem State.modStrand_agenda (k : Nat) (f : Strand → Strand) : (s.modStrand k f).agenda = s.agenda := rfl
@[simp] theorem State.modStrand_cur (k : Nat) (f : Strand → Strand) : (s.modStrand k f).cur = s.cur := rfl
@[simp] theorem State.modStrand_apart (k : Nat) (f : Strand → Strand) : (s.modStrand k f).apart = s.apart := rfl
@[simp] theorem State.modStrand_freeCtr (k : Nat) (f : Strand → Strand) : (s.modStrand k f).freeCtr = s.freeCtr := rfl
@[simp] theorem State.modStrand_hints (k : Nat) (f : Strand → Strand) : (s.modStrand k f).hints = s.hints := rfl
@[simp] theorem State.modStrand_lcores (k : Nat) (f : Strand → Strand) : (s.modStrand k f).lcores = s.lcores := rfl
@[simp] theorem State.modStrand_ctxs (k : Nat) (f : Strand → Strand) : (s.modStrand k f).ctxs = s.ctxs := rfl
@[simp] theorem State.modStrand_tasks (k : Nat) (f : Strand → Strand) : (s.modStrand k f).tasks = s.tasks := rfl
@[simp] theorem State.modStrand_entries (k : Nat) (f : Strand → Strand) : (s.modStrand k f).entries = s.entries := rfl
@[simp] theorem State.modStrand_emission (k : Nat) (f : Strand → Strand) : (s.modStrand k f).emission = s.emission := rfl
@[simp] theorem State.modStrand_saved (k : Nat) (f : Strand → Strand) : (s.modStrand k f).saved = s.saved := rfl
@[simp] theorem State.modStrand_subs (k : Nat) (f : Strand → Strand) : (s.modStrand k f).subs = s.subs := rfl
@[simp] theorem State.modStrand_mem (k : Nat) (f : Strand → Strand) : (s.modStrand k f).mem = s.mem := rfl
@[simp] theorem State.modStrand_fe (k : Nat) (f : Strand → Strand) : (s.modStrand k f).fe = s.fe := rfl
@[simp] theorem State.modStrand_poison (k : Nat) (f : Strand → Strand) : (s.modStrand k f).poison = s.poison := rfl
@[simp] theorem State.modStrand_park (k : Nat) (f : Strand → Strand) : (s.modStrand k f).park = s.park := rfl
@[simp] theorem State.modStrand_bufs (k : Nat) (f : Strand → Strand) : (s.modStrand k f).bufs = s.bufs := rfl
@[simp] theorem State.modStrand_pages (k : Nat) (f : Strand → Strand) : (s.modStrand k f).pages = s.pages := rfl
@[simp] theorem State.modStrand_frames (k : Nat) (f : Strand → Strand) : (s.modStrand k f).frames = s.frames := rfl
@[simp] theorem State.modStrand_backing (k : Nat) (f : Strand → Strand) : (s.modStrand k f).backing = s.backing := rfl
@[simp] theorem State.modStrand_pageFor (k : Nat) (f : Strand → Strand) : (s.modStrand k f).pageFor = s.pageFor := rfl
@[simp] theorem State.modStrand_hostMem (k : Nat) (f : Strand → Strand) : (s.modStrand k f).hostMem = s.hostMem := rfl
@[simp] theorem State.modStrand_hostPoison (k : Nat) (f : Strand → Strand) : (s.modStrand k f).hostPoison = s.hostPoison := rfl
@[simp] theorem State.modStrand_fills (k : Nat) (f : Strand → Strand) : (s.modStrand k f).fills = s.fills := rfl
@[simp] theorem State.modStrand_regions (k : Nat) (f : Strand → Strand) : (s.modStrand k f).regions = s.regions := rfl
@[simp] theorem State.modStrand_notices (k : Nat) (f : Strand → Strand) : (s.modStrand k f).notices = s.notices := rfl
@[simp] theorem State.modStrand_devTime (k : Nat) (f : Strand → Strand) : (s.modStrand k f).devTime = s.devTime := rfl
@[simp] theorem State.modStrand_pkg (k : Nat) (f : Strand → Strand) : (s.modStrand k f).pkg = s.pkg := rfl
@[simp] theorem State.modStrand_ks (k : Nat) (f : Strand → Strand) : (s.modStrand k f).ks = s.ks := rfl
@[simp] theorem State.modStrand_fab (k : Nat) (f : Strand → Strand) : (s.modStrand k f).fab = s.fab := rfl
@[simp] theorem State.modStrand_io (k : Nat) (f : Strand → Strand) : (s.modStrand k f).io = s.io := rfl

@[simp] theorem State.setLcore_agenda (c : Nat) (x : LCore) : (s.setLcore c x).agenda = s.agenda := rfl
@[simp] theorem State.setLcore_cur (c : Nat) (x : LCore) : (s.setLcore c x).cur = s.cur := rfl
@[simp] theorem State.setLcore_apart (c : Nat) (x : LCore) : (s.setLcore c x).apart = s.apart := rfl
@[simp] theorem State.setLcore_freeCtr (c : Nat) (x : LCore) : (s.setLcore c x).freeCtr = s.freeCtr := rfl
@[simp] theorem State.setLcore_hints (c : Nat) (x : LCore) : (s.setLcore c x).hints = s.hints := rfl
@[simp] theorem State.setLcore_strands (c : Nat) (x : LCore) : (s.setLcore c x).strands = s.strands := rfl
@[simp] theorem State.setLcore_ctxs (c : Nat) (x : LCore) : (s.setLcore c x).ctxs = s.ctxs := rfl
@[simp] theorem State.setLcore_tasks (c : Nat) (x : LCore) : (s.setLcore c x).tasks = s.tasks := rfl
@[simp] theorem State.setLcore_entries (c : Nat) (x : LCore) : (s.setLcore c x).entries = s.entries := rfl
@[simp] theorem State.setLcore_emission (c : Nat) (x : LCore) : (s.setLcore c x).emission = s.emission := rfl
@[simp] theorem State.setLcore_saved (c : Nat) (x : LCore) : (s.setLcore c x).saved = s.saved := rfl
@[simp] theorem State.setLcore_subs (c : Nat) (x : LCore) : (s.setLcore c x).subs = s.subs := rfl
@[simp] theorem State.setLcore_mem (c : Nat) (x : LCore) : (s.setLcore c x).mem = s.mem := rfl
@[simp] theorem State.setLcore_fe (c : Nat) (x : LCore) : (s.setLcore c x).fe = s.fe := rfl
@[simp] theorem State.setLcore_poison (c : Nat) (x : LCore) : (s.setLcore c x).poison = s.poison := rfl
@[simp] theorem State.setLcore_park (c : Nat) (x : LCore) : (s.setLcore c x).park = s.park := rfl
@[simp] theorem State.setLcore_bufs (c : Nat) (x : LCore) : (s.setLcore c x).bufs = s.bufs := rfl
@[simp] theorem State.setLcore_pages (c : Nat) (x : LCore) : (s.setLcore c x).pages = s.pages := rfl
@[simp] theorem State.setLcore_frames (c : Nat) (x : LCore) : (s.setLcore c x).frames = s.frames := rfl
@[simp] theorem State.setLcore_backing (c : Nat) (x : LCore) : (s.setLcore c x).backing = s.backing := rfl
@[simp] theorem State.setLcore_pageFor (c : Nat) (x : LCore) : (s.setLcore c x).pageFor = s.pageFor := rfl
@[simp] theorem State.setLcore_hostMem (c : Nat) (x : LCore) : (s.setLcore c x).hostMem = s.hostMem := rfl
@[simp] theorem State.setLcore_hostPoison (c : Nat) (x : LCore) : (s.setLcore c x).hostPoison = s.hostPoison := rfl
@[simp] theorem State.setLcore_fills (c : Nat) (x : LCore) : (s.setLcore c x).fills = s.fills := rfl
@[simp] theorem State.setLcore_regions (c : Nat) (x : LCore) : (s.setLcore c x).regions = s.regions := rfl
@[simp] theorem State.setLcore_notices (c : Nat) (x : LCore) : (s.setLcore c x).notices = s.notices := rfl
@[simp] theorem State.setLcore_devTime (c : Nat) (x : LCore) : (s.setLcore c x).devTime = s.devTime := rfl
@[simp] theorem State.setLcore_pkg (c : Nat) (x : LCore) : (s.setLcore c x).pkg = s.pkg := rfl
@[simp] theorem State.setLcore_ks (c : Nat) (x : LCore) : (s.setLcore c x).ks = s.ks := rfl
@[simp] theorem State.setLcore_fab (c : Nat) (x : LCore) : (s.setLcore c x).fab = s.fab := rfl
@[simp] theorem State.setLcore_io (c : Nat) (x : LCore) : (s.setLcore c x).io = s.io := rfl

@[simp] theorem State.modLcore_agenda (c : Nat) (f : LCore → LCore) : (s.modLcore c f).agenda = s.agenda := rfl
@[simp] theorem State.modLcore_cur (c : Nat) (f : LCore → LCore) : (s.modLcore c f).cur = s.cur := rfl
@[simp] theorem State.modLcore_apart (c : Nat) (f : LCore → LCore) : (s.modLcore c f).apart = s.apart := rfl
@[simp] theorem State.modLcore_freeCtr (c : Nat) (f : LCore → LCore) : (s.modLcore c f).freeCtr = s.freeCtr := rfl
@[simp] theorem State.modLcore_hints (c : Nat) (f : LCore → LCore) : (s.modLcore c f).hints = s.hints := rfl
@[simp] theorem State.modLcore_strands (c : Nat) (f : LCore → LCore) : (s.modLcore c f).strands = s.strands := rfl
@[simp] theorem State.modLcore_ctxs (c : Nat) (f : LCore → LCore) : (s.modLcore c f).ctxs = s.ctxs := rfl
@[simp] theorem State.modLcore_tasks (c : Nat) (f : LCore → LCore) : (s.modLcore c f).tasks = s.tasks := rfl
@[simp] theorem State.modLcore_entries (c : Nat) (f : LCore → LCore) : (s.modLcore c f).entries = s.entries := rfl
@[simp] theorem State.modLcore_emission (c : Nat) (f : LCore → LCore) : (s.modLcore c f).emission = s.emission := rfl
@[simp] theorem State.modLcore_saved (c : Nat) (f : LCore → LCore) : (s.modLcore c f).saved = s.saved := rfl
@[simp] theorem State.modLcore_subs (c : Nat) (f : LCore → LCore) : (s.modLcore c f).subs = s.subs := rfl
@[simp] theorem State.modLcore_mem (c : Nat) (f : LCore → LCore) : (s.modLcore c f).mem = s.mem := rfl
@[simp] theorem State.modLcore_fe (c : Nat) (f : LCore → LCore) : (s.modLcore c f).fe = s.fe := rfl
@[simp] theorem State.modLcore_poison (c : Nat) (f : LCore → LCore) : (s.modLcore c f).poison = s.poison := rfl
@[simp] theorem State.modLcore_park (c : Nat) (f : LCore → LCore) : (s.modLcore c f).park = s.park := rfl
@[simp] theorem State.modLcore_bufs (c : Nat) (f : LCore → LCore) : (s.modLcore c f).bufs = s.bufs := rfl
@[simp] theorem State.modLcore_pages (c : Nat) (f : LCore → LCore) : (s.modLcore c f).pages = s.pages := rfl
@[simp] theorem State.modLcore_frames (c : Nat) (f : LCore → LCore) : (s.modLcore c f).frames = s.frames := rfl
@[simp] theorem State.modLcore_backing (c : Nat) (f : LCore → LCore) : (s.modLcore c f).backing = s.backing := rfl
@[simp] theorem State.modLcore_pageFor (c : Nat) (f : LCore → LCore) : (s.modLcore c f).pageFor = s.pageFor := rfl
@[simp] theorem State.modLcore_hostMem (c : Nat) (f : LCore → LCore) : (s.modLcore c f).hostMem = s.hostMem := rfl
@[simp] theorem State.modLcore_hostPoison (c : Nat) (f : LCore → LCore) : (s.modLcore c f).hostPoison = s.hostPoison := rfl
@[simp] theorem State.modLcore_fills (c : Nat) (f : LCore → LCore) : (s.modLcore c f).fills = s.fills := rfl
@[simp] theorem State.modLcore_regions (c : Nat) (f : LCore → LCore) : (s.modLcore c f).regions = s.regions := rfl
@[simp] theorem State.modLcore_notices (c : Nat) (f : LCore → LCore) : (s.modLcore c f).notices = s.notices := rfl
@[simp] theorem State.modLcore_devTime (c : Nat) (f : LCore → LCore) : (s.modLcore c f).devTime = s.devTime := rfl
@[simp] theorem State.modLcore_pkg (c : Nat) (f : LCore → LCore) : (s.modLcore c f).pkg = s.pkg := rfl
@[simp] theorem State.modLcore_ks (c : Nat) (f : LCore → LCore) : (s.modLcore c f).ks = s.ks := rfl
@[simp] theorem State.modLcore_fab (c : Nat) (f : LCore → LCore) : (s.modLcore c f).fab = s.fab := rfl
@[simp] theorem State.modLcore_io (c : Nat) (f : LCore → LCore) : (s.modLcore c f).io = s.io := rfl

@[simp] theorem State.setCtx_agenda (i : Nat) (x : Ctx) : (s.setCtx i x).agenda = s.agenda := rfl
@[simp] theorem State.setCtx_cur (i : Nat) (x : Ctx) : (s.setCtx i x).cur = s.cur := rfl
@[simp] theorem State.setCtx_apart (i : Nat) (x : Ctx) : (s.setCtx i x).apart = s.apart := rfl
@[simp] theorem State.setCtx_freeCtr (i : Nat) (x : Ctx) : (s.setCtx i x).freeCtr = s.freeCtr := rfl
@[simp] theorem State.setCtx_hints (i : Nat) (x : Ctx) : (s.setCtx i x).hints = s.hints := rfl
@[simp] theorem State.setCtx_strands (i : Nat) (x : Ctx) : (s.setCtx i x).strands = s.strands := rfl
@[simp] theorem State.setCtx_lcores (i : Nat) (x : Ctx) : (s.setCtx i x).lcores = s.lcores := rfl
@[simp] theorem State.setCtx_tasks (i : Nat) (x : Ctx) : (s.setCtx i x).tasks = s.tasks := rfl
@[simp] theorem State.setCtx_entries (i : Nat) (x : Ctx) : (s.setCtx i x).entries = s.entries := rfl
@[simp] theorem State.setCtx_emission (i : Nat) (x : Ctx) : (s.setCtx i x).emission = s.emission := rfl
@[simp] theorem State.setCtx_saved (i : Nat) (x : Ctx) : (s.setCtx i x).saved = s.saved := rfl
@[simp] theorem State.setCtx_subs (i : Nat) (x : Ctx) : (s.setCtx i x).subs = s.subs := rfl
@[simp] theorem State.setCtx_mem (i : Nat) (x : Ctx) : (s.setCtx i x).mem = s.mem := rfl
@[simp] theorem State.setCtx_fe (i : Nat) (x : Ctx) : (s.setCtx i x).fe = s.fe := rfl
@[simp] theorem State.setCtx_poison (i : Nat) (x : Ctx) : (s.setCtx i x).poison = s.poison := rfl
@[simp] theorem State.setCtx_park (i : Nat) (x : Ctx) : (s.setCtx i x).park = s.park := rfl
@[simp] theorem State.setCtx_bufs (i : Nat) (x : Ctx) : (s.setCtx i x).bufs = s.bufs := rfl
@[simp] theorem State.setCtx_pages (i : Nat) (x : Ctx) : (s.setCtx i x).pages = s.pages := rfl
@[simp] theorem State.setCtx_frames (i : Nat) (x : Ctx) : (s.setCtx i x).frames = s.frames := rfl
@[simp] theorem State.setCtx_backing (i : Nat) (x : Ctx) : (s.setCtx i x).backing = s.backing := rfl
@[simp] theorem State.setCtx_pageFor (i : Nat) (x : Ctx) : (s.setCtx i x).pageFor = s.pageFor := rfl
@[simp] theorem State.setCtx_hostMem (i : Nat) (x : Ctx) : (s.setCtx i x).hostMem = s.hostMem := rfl
@[simp] theorem State.setCtx_hostPoison (i : Nat) (x : Ctx) : (s.setCtx i x).hostPoison = s.hostPoison := rfl
@[simp] theorem State.setCtx_fills (i : Nat) (x : Ctx) : (s.setCtx i x).fills = s.fills := rfl
@[simp] theorem State.setCtx_regions (i : Nat) (x : Ctx) : (s.setCtx i x).regions = s.regions := rfl
@[simp] theorem State.setCtx_notices (i : Nat) (x : Ctx) : (s.setCtx i x).notices = s.notices := rfl
@[simp] theorem State.setCtx_devTime (i : Nat) (x : Ctx) : (s.setCtx i x).devTime = s.devTime := rfl
@[simp] theorem State.setCtx_pkg (i : Nat) (x : Ctx) : (s.setCtx i x).pkg = s.pkg := rfl
@[simp] theorem State.setCtx_ks (i : Nat) (x : Ctx) : (s.setCtx i x).ks = s.ks := rfl
@[simp] theorem State.setCtx_fab (i : Nat) (x : Ctx) : (s.setCtx i x).fab = s.fab := rfl
@[simp] theorem State.setCtx_io (i : Nat) (x : Ctx) : (s.setCtx i x).io = s.io := rfl

@[simp] theorem State.modCtx_agenda (i : Nat) (f : Ctx → Ctx) : (s.modCtx i f).agenda = s.agenda := rfl
@[simp] theorem State.modCtx_cur (i : Nat) (f : Ctx → Ctx) : (s.modCtx i f).cur = s.cur := rfl
@[simp] theorem State.modCtx_apart (i : Nat) (f : Ctx → Ctx) : (s.modCtx i f).apart = s.apart := rfl
@[simp] theorem State.modCtx_freeCtr (i : Nat) (f : Ctx → Ctx) : (s.modCtx i f).freeCtr = s.freeCtr := rfl
@[simp] theorem State.modCtx_hints (i : Nat) (f : Ctx → Ctx) : (s.modCtx i f).hints = s.hints := rfl
@[simp] theorem State.modCtx_strands (i : Nat) (f : Ctx → Ctx) : (s.modCtx i f).strands = s.strands := rfl
@[simp] theorem State.modCtx_lcores (i : Nat) (f : Ctx → Ctx) : (s.modCtx i f).lcores = s.lcores := rfl
@[simp] theorem State.modCtx_tasks (i : Nat) (f : Ctx → Ctx) : (s.modCtx i f).tasks = s.tasks := rfl
@[simp] theorem State.modCtx_entries (i : Nat) (f : Ctx → Ctx) : (s.modCtx i f).entries = s.entries := rfl
@[simp] theorem State.modCtx_emission (i : Nat) (f : Ctx → Ctx) : (s.modCtx i f).emission = s.emission := rfl
@[simp] theorem State.modCtx_saved (i : Nat) (f : Ctx → Ctx) : (s.modCtx i f).saved = s.saved := rfl
@[simp] theorem State.modCtx_subs (i : Nat) (f : Ctx → Ctx) : (s.modCtx i f).subs = s.subs := rfl
@[simp] theorem State.modCtx_mem (i : Nat) (f : Ctx → Ctx) : (s.modCtx i f).mem = s.mem := rfl
@[simp] theorem State.modCtx_fe (i : Nat) (f : Ctx → Ctx) : (s.modCtx i f).fe = s.fe := rfl
@[simp] theorem State.modCtx_poison (i : Nat) (f : Ctx → Ctx) : (s.modCtx i f).poison = s.poison := rfl
@[simp] theorem State.modCtx_park (i : Nat) (f : Ctx → Ctx) : (s.modCtx i f).park = s.park := rfl
@[simp] theorem State.modCtx_bufs (i : Nat) (f : Ctx → Ctx) : (s.modCtx i f).bufs = s.bufs := rfl
@[simp] theorem State.modCtx_pages (i : Nat) (f : Ctx → Ctx) : (s.modCtx i f).pages = s.pages := rfl
@[simp] theorem State.modCtx_frames (i : Nat) (f : Ctx → Ctx) : (s.modCtx i f).frames = s.frames := rfl
@[simp] theorem State.modCtx_backing (i : Nat) (f : Ctx → Ctx) : (s.modCtx i f).backing = s.backing := rfl
@[simp] theorem State.modCtx_pageFor (i : Nat) (f : Ctx → Ctx) : (s.modCtx i f).pageFor = s.pageFor := rfl
@[simp] theorem State.modCtx_hostMem (i : Nat) (f : Ctx → Ctx) : (s.modCtx i f).hostMem = s.hostMem := rfl
@[simp] theorem State.modCtx_hostPoison (i : Nat) (f : Ctx → Ctx) : (s.modCtx i f).hostPoison = s.hostPoison := rfl
@[simp] theorem State.modCtx_fills (i : Nat) (f : Ctx → Ctx) : (s.modCtx i f).fills = s.fills := rfl
@[simp] theorem State.modCtx_regions (i : Nat) (f : Ctx → Ctx) : (s.modCtx i f).regions = s.regions := rfl
@[simp] theorem State.modCtx_notices (i : Nat) (f : Ctx → Ctx) : (s.modCtx i f).notices = s.notices := rfl
@[simp] theorem State.modCtx_devTime (i : Nat) (f : Ctx → Ctx) : (s.modCtx i f).devTime = s.devTime := rfl
@[simp] theorem State.modCtx_pkg (i : Nat) (f : Ctx → Ctx) : (s.modCtx i f).pkg = s.pkg := rfl
@[simp] theorem State.modCtx_ks (i : Nat) (f : Ctx → Ctx) : (s.modCtx i f).ks = s.ks := rfl
@[simp] theorem State.modCtx_fab (i : Nat) (f : Ctx → Ctx) : (s.modCtx i f).fab = s.fab := rfl
@[simp] theorem State.modCtx_io (i : Nat) (f : Ctx → Ctx) : (s.modCtx i f).io = s.io := rfl

@[simp] theorem State.setTask_agenda (i : Nat) (x : Task) : (s.setTask i x).agenda = s.agenda := rfl
@[simp] theorem State.setTask_cur (i : Nat) (x : Task) : (s.setTask i x).cur = s.cur := rfl
@[simp] theorem State.setTask_apart (i : Nat) (x : Task) : (s.setTask i x).apart = s.apart := rfl
@[simp] theorem State.setTask_freeCtr (i : Nat) (x : Task) : (s.setTask i x).freeCtr = s.freeCtr := rfl
@[simp] theorem State.setTask_hints (i : Nat) (x : Task) : (s.setTask i x).hints = s.hints := rfl
@[simp] theorem State.setTask_strands (i : Nat) (x : Task) : (s.setTask i x).strands = s.strands := rfl
@[simp] theorem State.setTask_lcores (i : Nat) (x : Task) : (s.setTask i x).lcores = s.lcores := rfl
@[simp] theorem State.setTask_ctxs (i : Nat) (x : Task) : (s.setTask i x).ctxs = s.ctxs := rfl
@[simp] theorem State.setTask_entries (i : Nat) (x : Task) : (s.setTask i x).entries = s.entries := rfl
@[simp] theorem State.setTask_emission (i : Nat) (x : Task) : (s.setTask i x).emission = s.emission := rfl
@[simp] theorem State.setTask_saved (i : Nat) (x : Task) : (s.setTask i x).saved = s.saved := rfl
@[simp] theorem State.setTask_subs (i : Nat) (x : Task) : (s.setTask i x).subs = s.subs := rfl
@[simp] theorem State.setTask_mem (i : Nat) (x : Task) : (s.setTask i x).mem = s.mem := rfl
@[simp] theorem State.setTask_fe (i : Nat) (x : Task) : (s.setTask i x).fe = s.fe := rfl
@[simp] theorem State.setTask_poison (i : Nat) (x : Task) : (s.setTask i x).poison = s.poison := rfl
@[simp] theorem State.setTask_park (i : Nat) (x : Task) : (s.setTask i x).park = s.park := rfl
@[simp] theorem State.setTask_bufs (i : Nat) (x : Task) : (s.setTask i x).bufs = s.bufs := rfl
@[simp] theorem State.setTask_pages (i : Nat) (x : Task) : (s.setTask i x).pages = s.pages := rfl
@[simp] theorem State.setTask_frames (i : Nat) (x : Task) : (s.setTask i x).frames = s.frames := rfl
@[simp] theorem State.setTask_backing (i : Nat) (x : Task) : (s.setTask i x).backing = s.backing := rfl
@[simp] theorem State.setTask_pageFor (i : Nat) (x : Task) : (s.setTask i x).pageFor = s.pageFor := rfl
@[simp] theorem State.setTask_hostMem (i : Nat) (x : Task) : (s.setTask i x).hostMem = s.hostMem := rfl
@[simp] theorem State.setTask_hostPoison (i : Nat) (x : Task) : (s.setTask i x).hostPoison = s.hostPoison := rfl
@[simp] theorem State.setTask_fills (i : Nat) (x : Task) : (s.setTask i x).fills = s.fills := rfl
@[simp] theorem State.setTask_regions (i : Nat) (x : Task) : (s.setTask i x).regions = s.regions := rfl
@[simp] theorem State.setTask_notices (i : Nat) (x : Task) : (s.setTask i x).notices = s.notices := rfl
@[simp] theorem State.setTask_devTime (i : Nat) (x : Task) : (s.setTask i x).devTime = s.devTime := rfl
@[simp] theorem State.setTask_pkg (i : Nat) (x : Task) : (s.setTask i x).pkg = s.pkg := rfl
@[simp] theorem State.setTask_ks (i : Nat) (x : Task) : (s.setTask i x).ks = s.ks := rfl
@[simp] theorem State.setTask_fab (i : Nat) (x : Task) : (s.setTask i x).fab = s.fab := rfl
@[simp] theorem State.setTask_io (i : Nat) (x : Task) : (s.setTask i x).io = s.io := rfl

@[simp] theorem State.modTask_agenda (i : Nat) (f : Task → Task) : (s.modTask i f).agenda = s.agenda := rfl
@[simp] theorem State.modTask_cur (i : Nat) (f : Task → Task) : (s.modTask i f).cur = s.cur := rfl
@[simp] theorem State.modTask_apart (i : Nat) (f : Task → Task) : (s.modTask i f).apart = s.apart := rfl
@[simp] theorem State.modTask_freeCtr (i : Nat) (f : Task → Task) : (s.modTask i f).freeCtr = s.freeCtr := rfl
@[simp] theorem State.modTask_hints (i : Nat) (f : Task → Task) : (s.modTask i f).hints = s.hints := rfl
@[simp] theorem State.modTask_strands (i : Nat) (f : Task → Task) : (s.modTask i f).strands = s.strands := rfl
@[simp] theorem State.modTask_lcores (i : Nat) (f : Task → Task) : (s.modTask i f).lcores = s.lcores := rfl
@[simp] theorem State.modTask_ctxs (i : Nat) (f : Task → Task) : (s.modTask i f).ctxs = s.ctxs := rfl
@[simp] theorem State.modTask_entries (i : Nat) (f : Task → Task) : (s.modTask i f).entries = s.entries := rfl
@[simp] theorem State.modTask_emission (i : Nat) (f : Task → Task) : (s.modTask i f).emission = s.emission := rfl
@[simp] theorem State.modTask_saved (i : Nat) (f : Task → Task) : (s.modTask i f).saved = s.saved := rfl
@[simp] theorem State.modTask_subs (i : Nat) (f : Task → Task) : (s.modTask i f).subs = s.subs := rfl
@[simp] theorem State.modTask_mem (i : Nat) (f : Task → Task) : (s.modTask i f).mem = s.mem := rfl
@[simp] theorem State.modTask_fe (i : Nat) (f : Task → Task) : (s.modTask i f).fe = s.fe := rfl
@[simp] theorem State.modTask_poison (i : Nat) (f : Task → Task) : (s.modTask i f).poison = s.poison := rfl
@[simp] theorem State.modTask_park (i : Nat) (f : Task → Task) : (s.modTask i f).park = s.park := rfl
@[simp] theorem State.modTask_bufs (i : Nat) (f : Task → Task) : (s.modTask i f).bufs = s.bufs := rfl
@[simp] theorem State.modTask_pages (i : Nat) (f : Task → Task) : (s.modTask i f).pages = s.pages := rfl
@[simp] theorem State.modTask_frames (i : Nat) (f : Task → Task) : (s.modTask i f).frames = s.frames := rfl
@[simp] theorem State.modTask_backing (i : Nat) (f : Task → Task) : (s.modTask i f).backing = s.backing := rfl
@[simp] theorem State.modTask_pageFor (i : Nat) (f : Task → Task) : (s.modTask i f).pageFor = s.pageFor := rfl
@[simp] theorem State.modTask_hostMem (i : Nat) (f : Task → Task) : (s.modTask i f).hostMem = s.hostMem := rfl
@[simp] theorem State.modTask_hostPoison (i : Nat) (f : Task → Task) : (s.modTask i f).hostPoison = s.hostPoison := rfl
@[simp] theorem State.modTask_fills (i : Nat) (f : Task → Task) : (s.modTask i f).fills = s.fills := rfl
@[simp] theorem State.modTask_regions (i : Nat) (f : Task → Task) : (s.modTask i f).regions = s.regions := rfl
@[simp] theorem State.modTask_notices (i : Nat) (f : Task → Task) : (s.modTask i f).notices = s.notices := rfl
@[simp] theorem State.modTask_devTime (i : Nat) (f : Task → Task) : (s.modTask i f).devTime = s.devTime := rfl
@[simp] theorem State.modTask_pkg (i : Nat) (f : Task → Task) : (s.modTask i f).pkg = s.pkg := rfl
@[simp] theorem State.modTask_ks (i : Nat) (f : Task → Task) : (s.modTask i f).ks = s.ks := rfl
@[simp] theorem State.modTask_fab (i : Nat) (f : Task → Task) : (s.modTask i f).fab = s.fab := rfl
@[simp] theorem State.modTask_io (i : Nat) (f : Task → Task) : (s.modTask i f).io = s.io := rfl

@[simp] theorem State.setBuf_agenda (i : Nat) (x : Buf) : (s.setBuf i x).agenda = s.agenda := rfl
@[simp] theorem State.setBuf_cur (i : Nat) (x : Buf) : (s.setBuf i x).cur = s.cur := rfl
@[simp] theorem State.setBuf_apart (i : Nat) (x : Buf) : (s.setBuf i x).apart = s.apart := rfl
@[simp] theorem State.setBuf_freeCtr (i : Nat) (x : Buf) : (s.setBuf i x).freeCtr = s.freeCtr := rfl
@[simp] theorem State.setBuf_hints (i : Nat) (x : Buf) : (s.setBuf i x).hints = s.hints := rfl
@[simp] theorem State.setBuf_strands (i : Nat) (x : Buf) : (s.setBuf i x).strands = s.strands := rfl
@[simp] theorem State.setBuf_lcores (i : Nat) (x : Buf) : (s.setBuf i x).lcores = s.lcores := rfl
@[simp] theorem State.setBuf_ctxs (i : Nat) (x : Buf) : (s.setBuf i x).ctxs = s.ctxs := rfl
@[simp] theorem State.setBuf_tasks (i : Nat) (x : Buf) : (s.setBuf i x).tasks = s.tasks := rfl
@[simp] theorem State.setBuf_entries (i : Nat) (x : Buf) : (s.setBuf i x).entries = s.entries := rfl
@[simp] theorem State.setBuf_emission (i : Nat) (x : Buf) : (s.setBuf i x).emission = s.emission := rfl
@[simp] theorem State.setBuf_saved (i : Nat) (x : Buf) : (s.setBuf i x).saved = s.saved := rfl
@[simp] theorem State.setBuf_subs (i : Nat) (x : Buf) : (s.setBuf i x).subs = s.subs := rfl
@[simp] theorem State.setBuf_mem (i : Nat) (x : Buf) : (s.setBuf i x).mem = s.mem := rfl
@[simp] theorem State.setBuf_fe (i : Nat) (x : Buf) : (s.setBuf i x).fe = s.fe := rfl
@[simp] theorem State.setBuf_poison (i : Nat) (x : Buf) : (s.setBuf i x).poison = s.poison := rfl
@[simp] theorem State.setBuf_park (i : Nat) (x : Buf) : (s.setBuf i x).park = s.park := rfl
@[simp] theorem State.setBuf_pages (i : Nat) (x : Buf) : (s.setBuf i x).pages = s.pages := rfl
@[simp] theorem State.setBuf_frames (i : Nat) (x : Buf) : (s.setBuf i x).frames = s.frames := rfl
@[simp] theorem State.setBuf_backing (i : Nat) (x : Buf) : (s.setBuf i x).backing = s.backing := rfl
@[simp] theorem State.setBuf_pageFor (i : Nat) (x : Buf) : (s.setBuf i x).pageFor = s.pageFor := rfl
@[simp] theorem State.setBuf_hostMem (i : Nat) (x : Buf) : (s.setBuf i x).hostMem = s.hostMem := rfl
@[simp] theorem State.setBuf_hostPoison (i : Nat) (x : Buf) : (s.setBuf i x).hostPoison = s.hostPoison := rfl
@[simp] theorem State.setBuf_fills (i : Nat) (x : Buf) : (s.setBuf i x).fills = s.fills := rfl
@[simp] theorem State.setBuf_regions (i : Nat) (x : Buf) : (s.setBuf i x).regions = s.regions := rfl
@[simp] theorem State.setBuf_notices (i : Nat) (x : Buf) : (s.setBuf i x).notices = s.notices := rfl
@[simp] theorem State.setBuf_devTime (i : Nat) (x : Buf) : (s.setBuf i x).devTime = s.devTime := rfl
@[simp] theorem State.setBuf_pkg (i : Nat) (x : Buf) : (s.setBuf i x).pkg = s.pkg := rfl
@[simp] theorem State.setBuf_ks (i : Nat) (x : Buf) : (s.setBuf i x).ks = s.ks := rfl
@[simp] theorem State.setBuf_fab (i : Nat) (x : Buf) : (s.setBuf i x).fab = s.fab := rfl
@[simp] theorem State.setBuf_io (i : Nat) (x : Buf) : (s.setBuf i x).io = s.io := rfl

@[simp] theorem State.modBuf_agenda (i : Nat) (f : Buf → Buf) : (s.modBuf i f).agenda = s.agenda := rfl
@[simp] theorem State.modBuf_cur (i : Nat) (f : Buf → Buf) : (s.modBuf i f).cur = s.cur := rfl
@[simp] theorem State.modBuf_apart (i : Nat) (f : Buf → Buf) : (s.modBuf i f).apart = s.apart := rfl
@[simp] theorem State.modBuf_freeCtr (i : Nat) (f : Buf → Buf) : (s.modBuf i f).freeCtr = s.freeCtr := rfl
@[simp] theorem State.modBuf_hints (i : Nat) (f : Buf → Buf) : (s.modBuf i f).hints = s.hints := rfl
@[simp] theorem State.modBuf_strands (i : Nat) (f : Buf → Buf) : (s.modBuf i f).strands = s.strands := rfl
@[simp] theorem State.modBuf_lcores (i : Nat) (f : Buf → Buf) : (s.modBuf i f).lcores = s.lcores := rfl
@[simp] theorem State.modBuf_ctxs (i : Nat) (f : Buf → Buf) : (s.modBuf i f).ctxs = s.ctxs := rfl
@[simp] theorem State.modBuf_tasks (i : Nat) (f : Buf → Buf) : (s.modBuf i f).tasks = s.tasks := rfl
@[simp] theorem State.modBuf_entries (i : Nat) (f : Buf → Buf) : (s.modBuf i f).entries = s.entries := rfl
@[simp] theorem State.modBuf_emission (i : Nat) (f : Buf → Buf) : (s.modBuf i f).emission = s.emission := rfl
@[simp] theorem State.modBuf_saved (i : Nat) (f : Buf → Buf) : (s.modBuf i f).saved = s.saved := rfl
@[simp] theorem State.modBuf_subs (i : Nat) (f : Buf → Buf) : (s.modBuf i f).subs = s.subs := rfl
@[simp] theorem State.modBuf_mem (i : Nat) (f : Buf → Buf) : (s.modBuf i f).mem = s.mem := rfl
@[simp] theorem State.modBuf_fe (i : Nat) (f : Buf → Buf) : (s.modBuf i f).fe = s.fe := rfl
@[simp] theorem State.modBuf_poison (i : Nat) (f : Buf → Buf) : (s.modBuf i f).poison = s.poison := rfl
@[simp] theorem State.modBuf_park (i : Nat) (f : Buf → Buf) : (s.modBuf i f).park = s.park := rfl
@[simp] theorem State.modBuf_pages (i : Nat) (f : Buf → Buf) : (s.modBuf i f).pages = s.pages := rfl
@[simp] theorem State.modBuf_frames (i : Nat) (f : Buf → Buf) : (s.modBuf i f).frames = s.frames := rfl
@[simp] theorem State.modBuf_backing (i : Nat) (f : Buf → Buf) : (s.modBuf i f).backing = s.backing := rfl
@[simp] theorem State.modBuf_pageFor (i : Nat) (f : Buf → Buf) : (s.modBuf i f).pageFor = s.pageFor := rfl
@[simp] theorem State.modBuf_hostMem (i : Nat) (f : Buf → Buf) : (s.modBuf i f).hostMem = s.hostMem := rfl
@[simp] theorem State.modBuf_hostPoison (i : Nat) (f : Buf → Buf) : (s.modBuf i f).hostPoison = s.hostPoison := rfl
@[simp] theorem State.modBuf_fills (i : Nat) (f : Buf → Buf) : (s.modBuf i f).fills = s.fills := rfl
@[simp] theorem State.modBuf_regions (i : Nat) (f : Buf → Buf) : (s.modBuf i f).regions = s.regions := rfl
@[simp] theorem State.modBuf_notices (i : Nat) (f : Buf → Buf) : (s.modBuf i f).notices = s.notices := rfl
@[simp] theorem State.modBuf_devTime (i : Nat) (f : Buf → Buf) : (s.modBuf i f).devTime = s.devTime := rfl
@[simp] theorem State.modBuf_pkg (i : Nat) (f : Buf → Buf) : (s.modBuf i f).pkg = s.pkg := rfl
@[simp] theorem State.modBuf_ks (i : Nat) (f : Buf → Buf) : (s.modBuf i f).ks = s.ks := rfl
@[simp] theorem State.modBuf_fab (i : Nat) (f : Buf → Buf) : (s.modBuf i f).fab = s.fab := rfl
@[simp] theorem State.modBuf_io (i : Nat) (f : Buf → Buf) : (s.modBuf i f).io = s.io := rfl

@[simp] theorem State.setHost_agenda (a : Nat) (bs : List Byte) : (s.setHost a bs).agenda = s.agenda := rfl
@[simp] theorem State.setHost_cur (a : Nat) (bs : List Byte) : (s.setHost a bs).cur = s.cur := rfl
@[simp] theorem State.setHost_apart (a : Nat) (bs : List Byte) : (s.setHost a bs).apart = s.apart := rfl
@[simp] theorem State.setHost_freeCtr (a : Nat) (bs : List Byte) : (s.setHost a bs).freeCtr = s.freeCtr := rfl
@[simp] theorem State.setHost_hints (a : Nat) (bs : List Byte) : (s.setHost a bs).hints = s.hints := rfl
@[simp] theorem State.setHost_strands (a : Nat) (bs : List Byte) : (s.setHost a bs).strands = s.strands := rfl
@[simp] theorem State.setHost_lcores (a : Nat) (bs : List Byte) : (s.setHost a bs).lcores = s.lcores := rfl
@[simp] theorem State.setHost_ctxs (a : Nat) (bs : List Byte) : (s.setHost a bs).ctxs = s.ctxs := rfl
@[simp] theorem State.setHost_tasks (a : Nat) (bs : List Byte) : (s.setHost a bs).tasks = s.tasks := rfl
@[simp] theorem State.setHost_entries (a : Nat) (bs : List Byte) : (s.setHost a bs).entries = s.entries := rfl
@[simp] theorem State.setHost_emission (a : Nat) (bs : List Byte) : (s.setHost a bs).emission = s.emission := rfl
@[simp] theorem State.setHost_saved (a : Nat) (bs : List Byte) : (s.setHost a bs).saved = s.saved := rfl
@[simp] theorem State.setHost_subs (a : Nat) (bs : List Byte) : (s.setHost a bs).subs = s.subs := rfl
@[simp] theorem State.setHost_mem (a : Nat) (bs : List Byte) : (s.setHost a bs).mem = s.mem := rfl
@[simp] theorem State.setHost_fe (a : Nat) (bs : List Byte) : (s.setHost a bs).fe = s.fe := rfl
@[simp] theorem State.setHost_poison (a : Nat) (bs : List Byte) : (s.setHost a bs).poison = s.poison := rfl
@[simp] theorem State.setHost_park (a : Nat) (bs : List Byte) : (s.setHost a bs).park = s.park := rfl
@[simp] theorem State.setHost_bufs (a : Nat) (bs : List Byte) : (s.setHost a bs).bufs = s.bufs := rfl
@[simp] theorem State.setHost_pages (a : Nat) (bs : List Byte) : (s.setHost a bs).pages = s.pages := rfl
@[simp] theorem State.setHost_frames (a : Nat) (bs : List Byte) : (s.setHost a bs).frames = s.frames := rfl
@[simp] theorem State.setHost_backing (a : Nat) (bs : List Byte) : (s.setHost a bs).backing = s.backing := rfl
@[simp] theorem State.setHost_pageFor (a : Nat) (bs : List Byte) : (s.setHost a bs).pageFor = s.pageFor := rfl
@[simp] theorem State.setHost_hostPoison (a : Nat) (bs : List Byte) : (s.setHost a bs).hostPoison = s.hostPoison := rfl
@[simp] theorem State.setHost_fills (a : Nat) (bs : List Byte) : (s.setHost a bs).fills = s.fills := rfl
@[simp] theorem State.setHost_regions (a : Nat) (bs : List Byte) : (s.setHost a bs).regions = s.regions := rfl
@[simp] theorem State.setHost_notices (a : Nat) (bs : List Byte) : (s.setHost a bs).notices = s.notices := rfl
@[simp] theorem State.setHost_devTime (a : Nat) (bs : List Byte) : (s.setHost a bs).devTime = s.devTime := rfl
@[simp] theorem State.setHost_pkg (a : Nat) (bs : List Byte) : (s.setHost a bs).pkg = s.pkg := rfl
@[simp] theorem State.setHost_ks (a : Nat) (bs : List Byte) : (s.setHost a bs).ks = s.ks := rfl
@[simp] theorem State.setHost_fab (a : Nat) (bs : List Byte) : (s.setHost a bs).fab = s.fab := rfl
@[simp] theorem State.setHost_io (a : Nat) (bs : List Byte) : (s.setHost a bs).io = s.io := rfl

@[simp] theorem State.setQrec_agenda (q : Nat) (x : QRec) : (s.setQrec q x).agenda = s.agenda := rfl
@[simp] theorem State.setQrec_cur (q : Nat) (x : QRec) : (s.setQrec q x).cur = s.cur := rfl
@[simp] theorem State.setQrec_apart (q : Nat) (x : QRec) : (s.setQrec q x).apart = s.apart := rfl
@[simp] theorem State.setQrec_freeCtr (q : Nat) (x : QRec) : (s.setQrec q x).freeCtr = s.freeCtr := rfl
@[simp] theorem State.setQrec_hints (q : Nat) (x : QRec) : (s.setQrec q x).hints = s.hints := rfl
@[simp] theorem State.setQrec_strands (q : Nat) (x : QRec) : (s.setQrec q x).strands = s.strands := rfl
@[simp] theorem State.setQrec_lcores (q : Nat) (x : QRec) : (s.setQrec q x).lcores = s.lcores := rfl
@[simp] theorem State.setQrec_ctxs (q : Nat) (x : QRec) : (s.setQrec q x).ctxs = s.ctxs := rfl
@[simp] theorem State.setQrec_tasks (q : Nat) (x : QRec) : (s.setQrec q x).tasks = s.tasks := rfl
@[simp] theorem State.setQrec_entries (q : Nat) (x : QRec) : (s.setQrec q x).entries = s.entries := rfl
@[simp] theorem State.setQrec_emission (q : Nat) (x : QRec) : (s.setQrec q x).emission = s.emission := rfl
@[simp] theorem State.setQrec_saved (q : Nat) (x : QRec) : (s.setQrec q x).saved = s.saved := rfl
@[simp] theorem State.setQrec_subs (q : Nat) (x : QRec) : (s.setQrec q x).subs = s.subs := rfl
@[simp] theorem State.setQrec_mem (q : Nat) (x : QRec) : (s.setQrec q x).mem = s.mem := rfl
@[simp] theorem State.setQrec_fe (q : Nat) (x : QRec) : (s.setQrec q x).fe = s.fe := rfl
@[simp] theorem State.setQrec_poison (q : Nat) (x : QRec) : (s.setQrec q x).poison = s.poison := rfl
@[simp] theorem State.setQrec_park (q : Nat) (x : QRec) : (s.setQrec q x).park = s.park := rfl
@[simp] theorem State.setQrec_bufs (q : Nat) (x : QRec) : (s.setQrec q x).bufs = s.bufs := rfl
@[simp] theorem State.setQrec_pages (q : Nat) (x : QRec) : (s.setQrec q x).pages = s.pages := rfl
@[simp] theorem State.setQrec_frames (q : Nat) (x : QRec) : (s.setQrec q x).frames = s.frames := rfl
@[simp] theorem State.setQrec_backing (q : Nat) (x : QRec) : (s.setQrec q x).backing = s.backing := rfl
@[simp] theorem State.setQrec_pageFor (q : Nat) (x : QRec) : (s.setQrec q x).pageFor = s.pageFor := rfl
@[simp] theorem State.setQrec_hostMem (q : Nat) (x : QRec) : (s.setQrec q x).hostMem = s.hostMem := rfl
@[simp] theorem State.setQrec_hostPoison (q : Nat) (x : QRec) : (s.setQrec q x).hostPoison = s.hostPoison := rfl
@[simp] theorem State.setQrec_fills (q : Nat) (x : QRec) : (s.setQrec q x).fills = s.fills := rfl
@[simp] theorem State.setQrec_regions (q : Nat) (x : QRec) : (s.setQrec q x).regions = s.regions := rfl
@[simp] theorem State.setQrec_notices (q : Nat) (x : QRec) : (s.setQrec q x).notices = s.notices := rfl
@[simp] theorem State.setQrec_devTime (q : Nat) (x : QRec) : (s.setQrec q x).devTime = s.devTime := rfl
@[simp] theorem State.setQrec_pkg (q : Nat) (x : QRec) : (s.setQrec q x).pkg = s.pkg := rfl
@[simp] theorem State.setQrec_fab (q : Nat) (x : QRec) : (s.setQrec q x).fab = s.fab := rfl
@[simp] theorem State.setQrec_io (q : Nat) (x : QRec) : (s.setQrec q x).io = s.io := rfl

@[simp] theorem State.modQrec_agenda (q : Nat) (f : QRec → QRec) : (s.modQrec q f).agenda = s.agenda := rfl
@[simp] theorem State.modQrec_cur (q : Nat) (f : QRec → QRec) : (s.modQrec q f).cur = s.cur := rfl
@[simp] theorem State.modQrec_apart (q : Nat) (f : QRec → QRec) : (s.modQrec q f).apart = s.apart := rfl
@[simp] theorem State.modQrec_freeCtr (q : Nat) (f : QRec → QRec) : (s.modQrec q f).freeCtr = s.freeCtr := rfl
@[simp] theorem State.modQrec_hints (q : Nat) (f : QRec → QRec) : (s.modQrec q f).hints = s.hints := rfl
@[simp] theorem State.modQrec_strands (q : Nat) (f : QRec → QRec) : (s.modQrec q f).strands = s.strands := rfl
@[simp] theorem State.modQrec_lcores (q : Nat) (f : QRec → QRec) : (s.modQrec q f).lcores = s.lcores := rfl
@[simp] theorem State.modQrec_ctxs (q : Nat) (f : QRec → QRec) : (s.modQrec q f).ctxs = s.ctxs := rfl
@[simp] theorem State.modQrec_tasks (q : Nat) (f : QRec → QRec) : (s.modQrec q f).tasks = s.tasks := rfl
@[simp] theorem State.modQrec_entries (q : Nat) (f : QRec → QRec) : (s.modQrec q f).entries = s.entries := rfl
@[simp] theorem State.modQrec_emission (q : Nat) (f : QRec → QRec) : (s.modQrec q f).emission = s.emission := rfl
@[simp] theorem State.modQrec_saved (q : Nat) (f : QRec → QRec) : (s.modQrec q f).saved = s.saved := rfl
@[simp] theorem State.modQrec_subs (q : Nat) (f : QRec → QRec) : (s.modQrec q f).subs = s.subs := rfl
@[simp] theorem State.modQrec_mem (q : Nat) (f : QRec → QRec) : (s.modQrec q f).mem = s.mem := rfl
@[simp] theorem State.modQrec_fe (q : Nat) (f : QRec → QRec) : (s.modQrec q f).fe = s.fe := rfl
@[simp] theorem State.modQrec_poison (q : Nat) (f : QRec → QRec) : (s.modQrec q f).poison = s.poison := rfl
@[simp] theorem State.modQrec_park (q : Nat) (f : QRec → QRec) : (s.modQrec q f).park = s.park := rfl
@[simp] theorem State.modQrec_bufs (q : Nat) (f : QRec → QRec) : (s.modQrec q f).bufs = s.bufs := rfl
@[simp] theorem State.modQrec_pages (q : Nat) (f : QRec → QRec) : (s.modQrec q f).pages = s.pages := rfl
@[simp] theorem State.modQrec_frames (q : Nat) (f : QRec → QRec) : (s.modQrec q f).frames = s.frames := rfl
@[simp] theorem State.modQrec_backing (q : Nat) (f : QRec → QRec) : (s.modQrec q f).backing = s.backing := rfl
@[simp] theorem State.modQrec_pageFor (q : Nat) (f : QRec → QRec) : (s.modQrec q f).pageFor = s.pageFor := rfl
@[simp] theorem State.modQrec_hostMem (q : Nat) (f : QRec → QRec) : (s.modQrec q f).hostMem = s.hostMem := rfl
@[simp] theorem State.modQrec_hostPoison (q : Nat) (f : QRec → QRec) : (s.modQrec q f).hostPoison = s.hostPoison := rfl
@[simp] theorem State.modQrec_fills (q : Nat) (f : QRec → QRec) : (s.modQrec q f).fills = s.fills := rfl
@[simp] theorem State.modQrec_regions (q : Nat) (f : QRec → QRec) : (s.modQrec q f).regions = s.regions := rfl
@[simp] theorem State.modQrec_notices (q : Nat) (f : QRec → QRec) : (s.modQrec q f).notices = s.notices := rfl
@[simp] theorem State.modQrec_devTime (q : Nat) (f : QRec → QRec) : (s.modQrec q f).devTime = s.devTime := rfl
@[simp] theorem State.modQrec_pkg (q : Nat) (f : QRec → QRec) : (s.modQrec q f).pkg = s.pkg := rfl
@[simp] theorem State.modQrec_fab (q : Nat) (f : QRec → QRec) : (s.modQrec q f).fab = s.fab := rfl
@[simp] theorem State.modQrec_io (q : Nat) (f : QRec → QRec) : (s.modQrec q f).io = s.io := rfl

@[simp] theorem State.setHw_agenda (h : Nat) (q : Option Nat) : (s.setHw h q).agenda = s.agenda := rfl
@[simp] theorem State.setHw_cur (h : Nat) (q : Option Nat) : (s.setHw h q).cur = s.cur := rfl
@[simp] theorem State.setHw_apart (h : Nat) (q : Option Nat) : (s.setHw h q).apart = s.apart := rfl
@[simp] theorem State.setHw_freeCtr (h : Nat) (q : Option Nat) : (s.setHw h q).freeCtr = s.freeCtr := rfl
@[simp] theorem State.setHw_hints (h : Nat) (q : Option Nat) : (s.setHw h q).hints = s.hints := rfl
@[simp] theorem State.setHw_strands (h : Nat) (q : Option Nat) : (s.setHw h q).strands = s.strands := rfl
@[simp] theorem State.setHw_lcores (h : Nat) (q : Option Nat) : (s.setHw h q).lcores = s.lcores := rfl
@[simp] theorem State.setHw_ctxs (h : Nat) (q : Option Nat) : (s.setHw h q).ctxs = s.ctxs := rfl
@[simp] theorem State.setHw_tasks (h : Nat) (q : Option Nat) : (s.setHw h q).tasks = s.tasks := rfl
@[simp] theorem State.setHw_entries (h : Nat) (q : Option Nat) : (s.setHw h q).entries = s.entries := rfl
@[simp] theorem State.setHw_emission (h : Nat) (q : Option Nat) : (s.setHw h q).emission = s.emission := rfl
@[simp] theorem State.setHw_saved (h : Nat) (q : Option Nat) : (s.setHw h q).saved = s.saved := rfl
@[simp] theorem State.setHw_subs (h : Nat) (q : Option Nat) : (s.setHw h q).subs = s.subs := rfl
@[simp] theorem State.setHw_mem (h : Nat) (q : Option Nat) : (s.setHw h q).mem = s.mem := rfl
@[simp] theorem State.setHw_fe (h : Nat) (q : Option Nat) : (s.setHw h q).fe = s.fe := rfl
@[simp] theorem State.setHw_poison (h : Nat) (q : Option Nat) : (s.setHw h q).poison = s.poison := rfl
@[simp] theorem State.setHw_park (h : Nat) (q : Option Nat) : (s.setHw h q).park = s.park := rfl
@[simp] theorem State.setHw_bufs (h : Nat) (q : Option Nat) : (s.setHw h q).bufs = s.bufs := rfl
@[simp] theorem State.setHw_pages (h : Nat) (q : Option Nat) : (s.setHw h q).pages = s.pages := rfl
@[simp] theorem State.setHw_frames (h : Nat) (q : Option Nat) : (s.setHw h q).frames = s.frames := rfl
@[simp] theorem State.setHw_backing (h : Nat) (q : Option Nat) : (s.setHw h q).backing = s.backing := rfl
@[simp] theorem State.setHw_pageFor (h : Nat) (q : Option Nat) : (s.setHw h q).pageFor = s.pageFor := rfl
@[simp] theorem State.setHw_hostMem (h : Nat) (q : Option Nat) : (s.setHw h q).hostMem = s.hostMem := rfl
@[simp] theorem State.setHw_hostPoison (h : Nat) (q : Option Nat) : (s.setHw h q).hostPoison = s.hostPoison := rfl
@[simp] theorem State.setHw_fills (h : Nat) (q : Option Nat) : (s.setHw h q).fills = s.fills := rfl
@[simp] theorem State.setHw_regions (h : Nat) (q : Option Nat) : (s.setHw h q).regions = s.regions := rfl
@[simp] theorem State.setHw_notices (h : Nat) (q : Option Nat) : (s.setHw h q).notices = s.notices := rfl
@[simp] theorem State.setHw_devTime (h : Nat) (q : Option Nat) : (s.setHw h q).devTime = s.devTime := rfl
@[simp] theorem State.setHw_pkg (h : Nat) (q : Option Nat) : (s.setHw h q).pkg = s.pkg := rfl
@[simp] theorem State.setHw_fab (h : Nat) (q : Option Nat) : (s.setHw h q).fab = s.fab := rfl
@[simp] theorem State.setHw_io (h : Nat) (q : Option Nat) : (s.setHw h q).io = s.io := rfl

@[simp] theorem State.setLink_agenda (l : Nat) (x : Link) : (s.setLink l x).agenda = s.agenda := rfl
@[simp] theorem State.setLink_cur (l : Nat) (x : Link) : (s.setLink l x).cur = s.cur := rfl
@[simp] theorem State.setLink_apart (l : Nat) (x : Link) : (s.setLink l x).apart = s.apart := rfl
@[simp] theorem State.setLink_freeCtr (l : Nat) (x : Link) : (s.setLink l x).freeCtr = s.freeCtr := rfl
@[simp] theorem State.setLink_hints (l : Nat) (x : Link) : (s.setLink l x).hints = s.hints := rfl
@[simp] theorem State.setLink_strands (l : Nat) (x : Link) : (s.setLink l x).strands = s.strands := rfl
@[simp] theorem State.setLink_lcores (l : Nat) (x : Link) : (s.setLink l x).lcores = s.lcores := rfl
@[simp] theorem State.setLink_ctxs (l : Nat) (x : Link) : (s.setLink l x).ctxs = s.ctxs := rfl
@[simp] theorem State.setLink_tasks (l : Nat) (x : Link) : (s.setLink l x).tasks = s.tasks := rfl
@[simp] theorem State.setLink_entries (l : Nat) (x : Link) : (s.setLink l x).entries = s.entries := rfl
@[simp] theorem State.setLink_emission (l : Nat) (x : Link) : (s.setLink l x).emission = s.emission := rfl
@[simp] theorem State.setLink_saved (l : Nat) (x : Link) : (s.setLink l x).saved = s.saved := rfl
@[simp] theorem State.setLink_subs (l : Nat) (x : Link) : (s.setLink l x).subs = s.subs := rfl
@[simp] theorem State.setLink_mem (l : Nat) (x : Link) : (s.setLink l x).mem = s.mem := rfl
@[simp] theorem State.setLink_fe (l : Nat) (x : Link) : (s.setLink l x).fe = s.fe := rfl
@[simp] theorem State.setLink_poison (l : Nat) (x : Link) : (s.setLink l x).poison = s.poison := rfl
@[simp] theorem State.setLink_park (l : Nat) (x : Link) : (s.setLink l x).park = s.park := rfl
@[simp] theorem State.setLink_bufs (l : Nat) (x : Link) : (s.setLink l x).bufs = s.bufs := rfl
@[simp] theorem State.setLink_pages (l : Nat) (x : Link) : (s.setLink l x).pages = s.pages := rfl
@[simp] theorem State.setLink_frames (l : Nat) (x : Link) : (s.setLink l x).frames = s.frames := rfl
@[simp] theorem State.setLink_backing (l : Nat) (x : Link) : (s.setLink l x).backing = s.backing := rfl
@[simp] theorem State.setLink_pageFor (l : Nat) (x : Link) : (s.setLink l x).pageFor = s.pageFor := rfl
@[simp] theorem State.setLink_hostMem (l : Nat) (x : Link) : (s.setLink l x).hostMem = s.hostMem := rfl
@[simp] theorem State.setLink_hostPoison (l : Nat) (x : Link) : (s.setLink l x).hostPoison = s.hostPoison := rfl
@[simp] theorem State.setLink_fills (l : Nat) (x : Link) : (s.setLink l x).fills = s.fills := rfl
@[simp] theorem State.setLink_regions (l : Nat) (x : Link) : (s.setLink l x).regions = s.regions := rfl
@[simp] theorem State.setLink_notices (l : Nat) (x : Link) : (s.setLink l x).notices = s.notices := rfl
@[simp] theorem State.setLink_devTime (l : Nat) (x : Link) : (s.setLink l x).devTime = s.devTime := rfl
@[simp] theorem State.setLink_pkg (l : Nat) (x : Link) : (s.setLink l x).pkg = s.pkg := rfl
@[simp] theorem State.setLink_ks (l : Nat) (x : Link) : (s.setLink l x).ks = s.ks := rfl
@[simp] theorem State.setLink_io (l : Nat) (x : Link) : (s.setLink l x).io = s.io := rfl

@[simp] theorem State.setConn_agenda (e st : Nat) : (s.setConn e st).agenda = s.agenda := rfl
@[simp] theorem State.setConn_cur (e st : Nat) : (s.setConn e st).cur = s.cur := rfl
@[simp] theorem State.setConn_apart (e st : Nat) : (s.setConn e st).apart = s.apart := rfl
@[simp] theorem State.setConn_freeCtr (e st : Nat) : (s.setConn e st).freeCtr = s.freeCtr := rfl
@[simp] theorem State.setConn_hints (e st : Nat) : (s.setConn e st).hints = s.hints := rfl
@[simp] theorem State.setConn_strands (e st : Nat) : (s.setConn e st).strands = s.strands := rfl
@[simp] theorem State.setConn_lcores (e st : Nat) : (s.setConn e st).lcores = s.lcores := rfl
@[simp] theorem State.setConn_ctxs (e st : Nat) : (s.setConn e st).ctxs = s.ctxs := rfl
@[simp] theorem State.setConn_tasks (e st : Nat) : (s.setConn e st).tasks = s.tasks := rfl
@[simp] theorem State.setConn_entries (e st : Nat) : (s.setConn e st).entries = s.entries := rfl
@[simp] theorem State.setConn_emission (e st : Nat) : (s.setConn e st).emission = s.emission := rfl
@[simp] theorem State.setConn_saved (e st : Nat) : (s.setConn e st).saved = s.saved := rfl
@[simp] theorem State.setConn_subs (e st : Nat) : (s.setConn e st).subs = s.subs := rfl
@[simp] theorem State.setConn_mem (e st : Nat) : (s.setConn e st).mem = s.mem := rfl
@[simp] theorem State.setConn_fe (e st : Nat) : (s.setConn e st).fe = s.fe := rfl
@[simp] theorem State.setConn_poison (e st : Nat) : (s.setConn e st).poison = s.poison := rfl
@[simp] theorem State.setConn_park (e st : Nat) : (s.setConn e st).park = s.park := rfl
@[simp] theorem State.setConn_bufs (e st : Nat) : (s.setConn e st).bufs = s.bufs := rfl
@[simp] theorem State.setConn_pages (e st : Nat) : (s.setConn e st).pages = s.pages := rfl
@[simp] theorem State.setConn_frames (e st : Nat) : (s.setConn e st).frames = s.frames := rfl
@[simp] theorem State.setConn_backing (e st : Nat) : (s.setConn e st).backing = s.backing := rfl
@[simp] theorem State.setConn_pageFor (e st : Nat) : (s.setConn e st).pageFor = s.pageFor := rfl
@[simp] theorem State.setConn_hostMem (e st : Nat) : (s.setConn e st).hostMem = s.hostMem := rfl
@[simp] theorem State.setConn_hostPoison (e st : Nat) : (s.setConn e st).hostPoison = s.hostPoison := rfl
@[simp] theorem State.setConn_fills (e st : Nat) : (s.setConn e st).fills = s.fills := rfl
@[simp] theorem State.setConn_regions (e st : Nat) : (s.setConn e st).regions = s.regions := rfl
@[simp] theorem State.setConn_notices (e st : Nat) : (s.setConn e st).notices = s.notices := rfl
@[simp] theorem State.setConn_devTime (e st : Nat) : (s.setConn e st).devTime = s.devTime := rfl
@[simp] theorem State.setConn_pkg (e st : Nat) : (s.setConn e st).pkg = s.pkg := rfl
@[simp] theorem State.setConn_ks (e st : Nat) : (s.setConn e st).ks = s.ks := rfl
@[simp] theorem State.setConn_io (e st : Nat) : (s.setConn e st).io = s.io := rfl

@[simp] theorem State.setSteer_agenda (a e : Nat) (x : Steer) : (s.setSteer a e x).agenda = s.agenda := rfl
@[simp] theorem State.setSteer_cur (a e : Nat) (x : Steer) : (s.setSteer a e x).cur = s.cur := rfl
@[simp] theorem State.setSteer_apart (a e : Nat) (x : Steer) : (s.setSteer a e x).apart = s.apart := rfl
@[simp] theorem State.setSteer_freeCtr (a e : Nat) (x : Steer) : (s.setSteer a e x).freeCtr = s.freeCtr := rfl
@[simp] theorem State.setSteer_hints (a e : Nat) (x : Steer) : (s.setSteer a e x).hints = s.hints := rfl
@[simp] theorem State.setSteer_strands (a e : Nat) (x : Steer) : (s.setSteer a e x).strands = s.strands := rfl
@[simp] theorem State.setSteer_lcores (a e : Nat) (x : Steer) : (s.setSteer a e x).lcores = s.lcores := rfl
@[simp] theorem State.setSteer_ctxs (a e : Nat) (x : Steer) : (s.setSteer a e x).ctxs = s.ctxs := rfl
@[simp] theorem State.setSteer_tasks (a e : Nat) (x : Steer) : (s.setSteer a e x).tasks = s.tasks := rfl
@[simp] theorem State.setSteer_entries (a e : Nat) (x : Steer) : (s.setSteer a e x).entries = s.entries := rfl
@[simp] theorem State.setSteer_emission (a e : Nat) (x : Steer) : (s.setSteer a e x).emission = s.emission := rfl
@[simp] theorem State.setSteer_saved (a e : Nat) (x : Steer) : (s.setSteer a e x).saved = s.saved := rfl
@[simp] theorem State.setSteer_subs (a e : Nat) (x : Steer) : (s.setSteer a e x).subs = s.subs := rfl
@[simp] theorem State.setSteer_mem (a e : Nat) (x : Steer) : (s.setSteer a e x).mem = s.mem := rfl
@[simp] theorem State.setSteer_fe (a e : Nat) (x : Steer) : (s.setSteer a e x).fe = s.fe := rfl
@[simp] theorem State.setSteer_poison (a e : Nat) (x : Steer) : (s.setSteer a e x).poison = s.poison := rfl
@[simp] theorem State.setSteer_park (a e : Nat) (x : Steer) : (s.setSteer a e x).park = s.park := rfl
@[simp] theorem State.setSteer_bufs (a e : Nat) (x : Steer) : (s.setSteer a e x).bufs = s.bufs := rfl
@[simp] theorem State.setSteer_pages (a e : Nat) (x : Steer) : (s.setSteer a e x).pages = s.pages := rfl
@[simp] theorem State.setSteer_frames (a e : Nat) (x : Steer) : (s.setSteer a e x).frames = s.frames := rfl
@[simp] theorem State.setSteer_backing (a e : Nat) (x : Steer) : (s.setSteer a e x).backing = s.backing := rfl
@[simp] theorem State.setSteer_pageFor (a e : Nat) (x : Steer) : (s.setSteer a e x).pageFor = s.pageFor := rfl
@[simp] theorem State.setSteer_hostMem (a e : Nat) (x : Steer) : (s.setSteer a e x).hostMem = s.hostMem := rfl
@[simp] theorem State.setSteer_hostPoison (a e : Nat) (x : Steer) : (s.setSteer a e x).hostPoison = s.hostPoison := rfl
@[simp] theorem State.setSteer_fills (a e : Nat) (x : Steer) : (s.setSteer a e x).fills = s.fills := rfl
@[simp] theorem State.setSteer_regions (a e : Nat) (x : Steer) : (s.setSteer a e x).regions = s.regions := rfl
@[simp] theorem State.setSteer_notices (a e : Nat) (x : Steer) : (s.setSteer a e x).notices = s.notices := rfl
@[simp] theorem State.setSteer_devTime (a e : Nat) (x : Steer) : (s.setSteer a e x).devTime = s.devTime := rfl
@[simp] theorem State.setSteer_pkg (a e : Nat) (x : Steer) : (s.setSteer a e x).pkg = s.pkg := rfl
@[simp] theorem State.setSteer_ks (a e : Nat) (x : Steer) : (s.setSteer a e x).ks = s.ks := rfl
@[simp] theorem State.setSteer_fab (a e : Nat) (x : Steer) : (s.setSteer a e x).fab = s.fab := rfl

@[simp] theorem State.modDie_agenda (d : Nat) (f : Die → Die) : (s.modDie d f).agenda = s.agenda := rfl
@[simp] theorem State.modDie_cur (d : Nat) (f : Die → Die) : (s.modDie d f).cur = s.cur := rfl
@[simp] theorem State.modDie_apart (d : Nat) (f : Die → Die) : (s.modDie d f).apart = s.apart := rfl
@[simp] theorem State.modDie_freeCtr (d : Nat) (f : Die → Die) : (s.modDie d f).freeCtr = s.freeCtr := rfl
@[simp] theorem State.modDie_hints (d : Nat) (f : Die → Die) : (s.modDie d f).hints = s.hints := rfl
@[simp] theorem State.modDie_strands (d : Nat) (f : Die → Die) : (s.modDie d f).strands = s.strands := rfl
@[simp] theorem State.modDie_lcores (d : Nat) (f : Die → Die) : (s.modDie d f).lcores = s.lcores := rfl
@[simp] theorem State.modDie_ctxs (d : Nat) (f : Die → Die) : (s.modDie d f).ctxs = s.ctxs := rfl
@[simp] theorem State.modDie_tasks (d : Nat) (f : Die → Die) : (s.modDie d f).tasks = s.tasks := rfl
@[simp] theorem State.modDie_entries (d : Nat) (f : Die → Die) : (s.modDie d f).entries = s.entries := rfl
@[simp] theorem State.modDie_emission (d : Nat) (f : Die → Die) : (s.modDie d f).emission = s.emission := rfl
@[simp] theorem State.modDie_saved (d : Nat) (f : Die → Die) : (s.modDie d f).saved = s.saved := rfl
@[simp] theorem State.modDie_subs (d : Nat) (f : Die → Die) : (s.modDie d f).subs = s.subs := rfl
@[simp] theorem State.modDie_mem (d : Nat) (f : Die → Die) : (s.modDie d f).mem = s.mem := rfl
@[simp] theorem State.modDie_fe (d : Nat) (f : Die → Die) : (s.modDie d f).fe = s.fe := rfl
@[simp] theorem State.modDie_poison (d : Nat) (f : Die → Die) : (s.modDie d f).poison = s.poison := rfl
@[simp] theorem State.modDie_park (d : Nat) (f : Die → Die) : (s.modDie d f).park = s.park := rfl
@[simp] theorem State.modDie_bufs (d : Nat) (f : Die → Die) : (s.modDie d f).bufs = s.bufs := rfl
@[simp] theorem State.modDie_pages (d : Nat) (f : Die → Die) : (s.modDie d f).pages = s.pages := rfl
@[simp] theorem State.modDie_frames (d : Nat) (f : Die → Die) : (s.modDie d f).frames = s.frames := rfl
@[simp] theorem State.modDie_backing (d : Nat) (f : Die → Die) : (s.modDie d f).backing = s.backing := rfl
@[simp] theorem State.modDie_pageFor (d : Nat) (f : Die → Die) : (s.modDie d f).pageFor = s.pageFor := rfl
@[simp] theorem State.modDie_hostMem (d : Nat) (f : Die → Die) : (s.modDie d f).hostMem = s.hostMem := rfl
@[simp] theorem State.modDie_hostPoison (d : Nat) (f : Die → Die) : (s.modDie d f).hostPoison = s.hostPoison := rfl
@[simp] theorem State.modDie_fills (d : Nat) (f : Die → Die) : (s.modDie d f).fills = s.fills := rfl
@[simp] theorem State.modDie_regions (d : Nat) (f : Die → Die) : (s.modDie d f).regions = s.regions := rfl
@[simp] theorem State.modDie_notices (d : Nat) (f : Die → Die) : (s.modDie d f).notices = s.notices := rfl
@[simp] theorem State.modDie_devTime (d : Nat) (f : Die → Die) : (s.modDie d f).devTime = s.devTime := rfl
@[simp] theorem State.modDie_ks (d : Nat) (f : Die → Die) : (s.modDie d f).ks = s.ks := rfl
@[simp] theorem State.modDie_fab (d : Nat) (f : Die → Die) : (s.modDie d f).fab = s.fab := rfl
@[simp] theorem State.modDie_io (d : Nat) (f : Die → Die) : (s.modDie d f).io = s.io := rfl

@[simp] theorem State.setPage_agenda (i p : Nat) (e : Word) : (s.setPage i p e).agenda = s.agenda := rfl
@[simp] theorem State.setPage_cur (i p : Nat) (e : Word) : (s.setPage i p e).cur = s.cur := rfl
@[simp] theorem State.setPage_apart (i p : Nat) (e : Word) : (s.setPage i p e).apart = s.apart := rfl
@[simp] theorem State.setPage_freeCtr (i p : Nat) (e : Word) : (s.setPage i p e).freeCtr = s.freeCtr := rfl
@[simp] theorem State.setPage_hints (i p : Nat) (e : Word) : (s.setPage i p e).hints = s.hints := rfl
@[simp] theorem State.setPage_strands (i p : Nat) (e : Word) : (s.setPage i p e).strands = s.strands := rfl
@[simp] theorem State.setPage_lcores (i p : Nat) (e : Word) : (s.setPage i p e).lcores = s.lcores := rfl
@[simp] theorem State.setPage_ctxs (i p : Nat) (e : Word) : (s.setPage i p e).ctxs = s.ctxs := rfl
@[simp] theorem State.setPage_tasks (i p : Nat) (e : Word) : (s.setPage i p e).tasks = s.tasks := rfl
@[simp] theorem State.setPage_entries (i p : Nat) (e : Word) : (s.setPage i p e).entries = s.entries := rfl
@[simp] theorem State.setPage_emission (i p : Nat) (e : Word) : (s.setPage i p e).emission = s.emission := rfl
@[simp] theorem State.setPage_saved (i p : Nat) (e : Word) : (s.setPage i p e).saved = s.saved := rfl
@[simp] theorem State.setPage_subs (i p : Nat) (e : Word) : (s.setPage i p e).subs = s.subs := rfl
@[simp] theorem State.setPage_mem (i p : Nat) (e : Word) : (s.setPage i p e).mem = s.mem := rfl
@[simp] theorem State.setPage_fe (i p : Nat) (e : Word) : (s.setPage i p e).fe = s.fe := rfl
@[simp] theorem State.setPage_poison (i p : Nat) (e : Word) : (s.setPage i p e).poison = s.poison := rfl
@[simp] theorem State.setPage_park (i p : Nat) (e : Word) : (s.setPage i p e).park = s.park := rfl
@[simp] theorem State.setPage_bufs (i p : Nat) (e : Word) : (s.setPage i p e).bufs = s.bufs := rfl
@[simp] theorem State.setPage_frames (i p : Nat) (e : Word) : (s.setPage i p e).frames = s.frames := rfl
@[simp] theorem State.setPage_backing (i p : Nat) (e : Word) : (s.setPage i p e).backing = s.backing := rfl
@[simp] theorem State.setPage_pageFor (i p : Nat) (e : Word) : (s.setPage i p e).pageFor = s.pageFor := rfl
@[simp] theorem State.setPage_hostMem (i p : Nat) (e : Word) : (s.setPage i p e).hostMem = s.hostMem := rfl
@[simp] theorem State.setPage_hostPoison (i p : Nat) (e : Word) : (s.setPage i p e).hostPoison = s.hostPoison := rfl
@[simp] theorem State.setPage_fills (i p : Nat) (e : Word) : (s.setPage i p e).fills = s.fills := rfl
@[simp] theorem State.setPage_regions (i p : Nat) (e : Word) : (s.setPage i p e).regions = s.regions := rfl
@[simp] theorem State.setPage_notices (i p : Nat) (e : Word) : (s.setPage i p e).notices = s.notices := rfl
@[simp] theorem State.setPage_devTime (i p : Nat) (e : Word) : (s.setPage i p e).devTime = s.devTime := rfl
@[simp] theorem State.setPage_pkg (i p : Nat) (e : Word) : (s.setPage i p e).pkg = s.pkg := rfl
@[simp] theorem State.setPage_ks (i p : Nat) (e : Word) : (s.setPage i p e).ks = s.ks := rfl
@[simp] theorem State.setPage_fab (i p : Nat) (e : Word) : (s.setPage i p e).fab = s.fab := rfl
@[simp] theorem State.setPage_io (i p : Nat) (e : Word) : (s.setPage i p e).io = s.io := rfl

@[simp] theorem State.takeFrame_agenda (f : Nat) : (s.takeFrame f).agenda = s.agenda := rfl
@[simp] theorem State.takeFrame_cur (f : Nat) : (s.takeFrame f).cur = s.cur := rfl
@[simp] theorem State.takeFrame_apart (f : Nat) : (s.takeFrame f).apart = s.apart := rfl
@[simp] theorem State.takeFrame_freeCtr (f : Nat) : (s.takeFrame f).freeCtr = s.freeCtr := rfl
@[simp] theorem State.takeFrame_hints (f : Nat) : (s.takeFrame f).hints = s.hints := rfl
@[simp] theorem State.takeFrame_strands (f : Nat) : (s.takeFrame f).strands = s.strands := rfl
@[simp] theorem State.takeFrame_lcores (f : Nat) : (s.takeFrame f).lcores = s.lcores := rfl
@[simp] theorem State.takeFrame_ctxs (f : Nat) : (s.takeFrame f).ctxs = s.ctxs := rfl
@[simp] theorem State.takeFrame_tasks (f : Nat) : (s.takeFrame f).tasks = s.tasks := rfl
@[simp] theorem State.takeFrame_entries (f : Nat) : (s.takeFrame f).entries = s.entries := rfl
@[simp] theorem State.takeFrame_emission (f : Nat) : (s.takeFrame f).emission = s.emission := rfl
@[simp] theorem State.takeFrame_saved (f : Nat) : (s.takeFrame f).saved = s.saved := rfl
@[simp] theorem State.takeFrame_subs (f : Nat) : (s.takeFrame f).subs = s.subs := rfl
@[simp] theorem State.takeFrame_mem (f : Nat) : (s.takeFrame f).mem = s.mem := rfl
@[simp] theorem State.takeFrame_fe (f : Nat) : (s.takeFrame f).fe = s.fe := rfl
@[simp] theorem State.takeFrame_poison (f : Nat) : (s.takeFrame f).poison = s.poison := rfl
@[simp] theorem State.takeFrame_park (f : Nat) : (s.takeFrame f).park = s.park := rfl
@[simp] theorem State.takeFrame_bufs (f : Nat) : (s.takeFrame f).bufs = s.bufs := rfl
@[simp] theorem State.takeFrame_pages (f : Nat) : (s.takeFrame f).pages = s.pages := rfl
@[simp] theorem State.takeFrame_backing (f : Nat) : (s.takeFrame f).backing = s.backing := rfl
@[simp] theorem State.takeFrame_pageFor (f : Nat) : (s.takeFrame f).pageFor = s.pageFor := rfl
@[simp] theorem State.takeFrame_hostMem (f : Nat) : (s.takeFrame f).hostMem = s.hostMem := rfl
@[simp] theorem State.takeFrame_hostPoison (f : Nat) : (s.takeFrame f).hostPoison = s.hostPoison := rfl
@[simp] theorem State.takeFrame_fills (f : Nat) : (s.takeFrame f).fills = s.fills := rfl
@[simp] theorem State.takeFrame_regions (f : Nat) : (s.takeFrame f).regions = s.regions := rfl
@[simp] theorem State.takeFrame_notices (f : Nat) : (s.takeFrame f).notices = s.notices := rfl
@[simp] theorem State.takeFrame_devTime (f : Nat) : (s.takeFrame f).devTime = s.devTime := rfl
@[simp] theorem State.takeFrame_pkg (f : Nat) : (s.takeFrame f).pkg = s.pkg := rfl
@[simp] theorem State.takeFrame_ks (f : Nat) : (s.takeFrame f).ks = s.ks := rfl
@[simp] theorem State.takeFrame_fab (f : Nat) : (s.takeFrame f).fab = s.fab := rfl
@[simp] theorem State.takeFrame_io (f : Nat) : (s.takeFrame f).io = s.io := rfl

@[simp] theorem State.mapPage_agenda (id page : Nat) (p : Bool) (f : Nat) : (s.mapPage id page p f).agenda = s.agenda := rfl
@[simp] theorem State.mapPage_cur (id page : Nat) (p : Bool) (f : Nat) : (s.mapPage id page p f).cur = s.cur := rfl
@[simp] theorem State.mapPage_apart (id page : Nat) (p : Bool) (f : Nat) : (s.mapPage id page p f).apart = s.apart := rfl
@[simp] theorem State.mapPage_freeCtr (id page : Nat) (p : Bool) (f : Nat) : (s.mapPage id page p f).freeCtr = s.freeCtr := rfl
@[simp] theorem State.mapPage_hints (id page : Nat) (p : Bool) (f : Nat) : (s.mapPage id page p f).hints = s.hints := rfl
@[simp] theorem State.mapPage_strands (id page : Nat) (p : Bool) (f : Nat) : (s.mapPage id page p f).strands = s.strands := rfl
@[simp] theorem State.mapPage_lcores (id page : Nat) (p : Bool) (f : Nat) : (s.mapPage id page p f).lcores = s.lcores := rfl
@[simp] theorem State.mapPage_ctxs (id page : Nat) (p : Bool) (f : Nat) : (s.mapPage id page p f).ctxs = s.ctxs := rfl
@[simp] theorem State.mapPage_tasks (id page : Nat) (p : Bool) (f : Nat) : (s.mapPage id page p f).tasks = s.tasks := rfl
@[simp] theorem State.mapPage_entries (id page : Nat) (p : Bool) (f : Nat) : (s.mapPage id page p f).entries = s.entries := rfl
@[simp] theorem State.mapPage_emission (id page : Nat) (p : Bool) (f : Nat) : (s.mapPage id page p f).emission = s.emission := rfl
@[simp] theorem State.mapPage_saved (id page : Nat) (p : Bool) (f : Nat) : (s.mapPage id page p f).saved = s.saved := rfl
@[simp] theorem State.mapPage_subs (id page : Nat) (p : Bool) (f : Nat) : (s.mapPage id page p f).subs = s.subs := rfl
@[simp] theorem State.mapPage_mem (id page : Nat) (p : Bool) (f : Nat) : (s.mapPage id page p f).mem = s.mem := rfl
@[simp] theorem State.mapPage_fe (id page : Nat) (p : Bool) (f : Nat) : (s.mapPage id page p f).fe = s.fe := rfl
@[simp] theorem State.mapPage_poison (id page : Nat) (p : Bool) (f : Nat) : (s.mapPage id page p f).poison = s.poison := rfl
@[simp] theorem State.mapPage_park (id page : Nat) (p : Bool) (f : Nat) : (s.mapPage id page p f).park = s.park := rfl
@[simp] theorem State.mapPage_frames (id page : Nat) (p : Bool) (f : Nat) : (s.mapPage id page p f).frames = s.frames := rfl
@[simp] theorem State.mapPage_backing (id page : Nat) (p : Bool) (f : Nat) : (s.mapPage id page p f).backing = s.backing := rfl
@[simp] theorem State.mapPage_pageFor (id page : Nat) (p : Bool) (f : Nat) : (s.mapPage id page p f).pageFor = s.pageFor := rfl
@[simp] theorem State.mapPage_hostMem (id page : Nat) (p : Bool) (f : Nat) : (s.mapPage id page p f).hostMem = s.hostMem := rfl
@[simp] theorem State.mapPage_hostPoison (id page : Nat) (p : Bool) (f : Nat) : (s.mapPage id page p f).hostPoison = s.hostPoison := rfl
@[simp] theorem State.mapPage_fills (id page : Nat) (p : Bool) (f : Nat) : (s.mapPage id page p f).fills = s.fills := rfl
@[simp] theorem State.mapPage_regions (id page : Nat) (p : Bool) (f : Nat) : (s.mapPage id page p f).regions = s.regions := rfl
@[simp] theorem State.mapPage_notices (id page : Nat) (p : Bool) (f : Nat) : (s.mapPage id page p f).notices = s.notices := rfl
@[simp] theorem State.mapPage_devTime (id page : Nat) (p : Bool) (f : Nat) : (s.mapPage id page p f).devTime = s.devTime := rfl
@[simp] theorem State.mapPage_pkg (id page : Nat) (p : Bool) (f : Nat) : (s.mapPage id page p f).pkg = s.pkg := rfl
@[simp] theorem State.mapPage_ks (id page : Nat) (p : Bool) (f : Nat) : (s.mapPage id page p f).ks = s.ks := rfl
@[simp] theorem State.mapPage_fab (id page : Nat) (p : Bool) (f : Nat) : (s.mapPage id page p f).fab = s.fab := rfl
@[simp] theorem State.mapPage_io (id page : Nat) (p : Bool) (f : Nat) : (s.mapPage id page p f).io = s.io := rfl

@[simp] theorem State.setSub_agenda (i : Nat) (u : Sub) : (s.setSub i u).agenda = s.agenda := rfl
@[simp] theorem State.setSub_cur (i : Nat) (u : Sub) : (s.setSub i u).cur = s.cur := rfl
@[simp] theorem State.setSub_apart (i : Nat) (u : Sub) : (s.setSub i u).apart = s.apart := rfl
@[simp] theorem State.setSub_freeCtr (i : Nat) (u : Sub) : (s.setSub i u).freeCtr = s.freeCtr := rfl
@[simp] theorem State.setSub_hints (i : Nat) (u : Sub) : (s.setSub i u).hints = s.hints := rfl
@[simp] theorem State.setSub_strands (i : Nat) (u : Sub) : (s.setSub i u).strands = s.strands := rfl
@[simp] theorem State.setSub_lcores (i : Nat) (u : Sub) : (s.setSub i u).lcores = s.lcores := rfl
@[simp] theorem State.setSub_ctxs (i : Nat) (u : Sub) : (s.setSub i u).ctxs = s.ctxs := rfl
@[simp] theorem State.setSub_tasks (i : Nat) (u : Sub) : (s.setSub i u).tasks = s.tasks := rfl
@[simp] theorem State.setSub_entries (i : Nat) (u : Sub) : (s.setSub i u).entries = s.entries := rfl
@[simp] theorem State.setSub_emission (i : Nat) (u : Sub) : (s.setSub i u).emission = s.emission := rfl
@[simp] theorem State.setSub_saved (i : Nat) (u : Sub) : (s.setSub i u).saved = s.saved := rfl
@[simp] theorem State.setSub_mem (i : Nat) (u : Sub) : (s.setSub i u).mem = s.mem := rfl
@[simp] theorem State.setSub_fe (i : Nat) (u : Sub) : (s.setSub i u).fe = s.fe := rfl
@[simp] theorem State.setSub_poison (i : Nat) (u : Sub) : (s.setSub i u).poison = s.poison := rfl
@[simp] theorem State.setSub_park (i : Nat) (u : Sub) : (s.setSub i u).park = s.park := rfl
@[simp] theorem State.setSub_bufs (i : Nat) (u : Sub) : (s.setSub i u).bufs = s.bufs := rfl
@[simp] theorem State.setSub_pages (i : Nat) (u : Sub) : (s.setSub i u).pages = s.pages := rfl
@[simp] theorem State.setSub_frames (i : Nat) (u : Sub) : (s.setSub i u).frames = s.frames := rfl
@[simp] theorem State.setSub_backing (i : Nat) (u : Sub) : (s.setSub i u).backing = s.backing := rfl
@[simp] theorem State.setSub_pageFor (i : Nat) (u : Sub) : (s.setSub i u).pageFor = s.pageFor := rfl
@[simp] theorem State.setSub_hostMem (i : Nat) (u : Sub) : (s.setSub i u).hostMem = s.hostMem := rfl
@[simp] theorem State.setSub_hostPoison (i : Nat) (u : Sub) : (s.setSub i u).hostPoison = s.hostPoison := rfl
@[simp] theorem State.setSub_fills (i : Nat) (u : Sub) : (s.setSub i u).fills = s.fills := rfl
@[simp] theorem State.setSub_regions (i : Nat) (u : Sub) : (s.setSub i u).regions = s.regions := rfl
@[simp] theorem State.setSub_notices (i : Nat) (u : Sub) : (s.setSub i u).notices = s.notices := rfl
@[simp] theorem State.setSub_devTime (i : Nat) (u : Sub) : (s.setSub i u).devTime = s.devTime := rfl
@[simp] theorem State.setSub_pkg (i : Nat) (u : Sub) : (s.setSub i u).pkg = s.pkg := rfl
@[simp] theorem State.setSub_ks (i : Nat) (u : Sub) : (s.setSub i u).ks = s.ks := rfl
@[simp] theorem State.setSub_fab (i : Nat) (u : Sub) : (s.setSub i u).fab = s.fab := rfl
@[simp] theorem State.setSub_io (i : Nat) (u : Sub) : (s.setSub i u).io = s.io := rfl

@[simp] theorem State.modQueue_agenda (c q : Nat) (f : Queue → Queue) : (s.modQueue c q f).agenda = s.agenda := rfl
@[simp] theorem State.modQueue_cur (c q : Nat) (f : Queue → Queue) : (s.modQueue c q f).cur = s.cur := rfl
@[simp] theorem State.modQueue_apart (c q : Nat) (f : Queue → Queue) : (s.modQueue c q f).apart = s.apart := rfl
@[simp] theorem State.modQueue_freeCtr (c q : Nat) (f : Queue → Queue) : (s.modQueue c q f).freeCtr = s.freeCtr := rfl
@[simp] theorem State.modQueue_hints (c q : Nat) (f : Queue → Queue) : (s.modQueue c q f).hints = s.hints := rfl
@[simp] theorem State.modQueue_strands (c q : Nat) (f : Queue → Queue) : (s.modQueue c q f).strands = s.strands := rfl
@[simp] theorem State.modQueue_ctxs (c q : Nat) (f : Queue → Queue) : (s.modQueue c q f).ctxs = s.ctxs := rfl
@[simp] theorem State.modQueue_tasks (c q : Nat) (f : Queue → Queue) : (s.modQueue c q f).tasks = s.tasks := rfl
@[simp] theorem State.modQueue_entries (c q : Nat) (f : Queue → Queue) : (s.modQueue c q f).entries = s.entries := rfl
@[simp] theorem State.modQueue_emission (c q : Nat) (f : Queue → Queue) : (s.modQueue c q f).emission = s.emission := rfl
@[simp] theorem State.modQueue_saved (c q : Nat) (f : Queue → Queue) : (s.modQueue c q f).saved = s.saved := rfl
@[simp] theorem State.modQueue_subs (c q : Nat) (f : Queue → Queue) : (s.modQueue c q f).subs = s.subs := rfl
@[simp] theorem State.modQueue_mem (c q : Nat) (f : Queue → Queue) : (s.modQueue c q f).mem = s.mem := rfl
@[simp] theorem State.modQueue_fe (c q : Nat) (f : Queue → Queue) : (s.modQueue c q f).fe = s.fe := rfl
@[simp] theorem State.modQueue_poison (c q : Nat) (f : Queue → Queue) : (s.modQueue c q f).poison = s.poison := rfl
@[simp] theorem State.modQueue_park (c q : Nat) (f : Queue → Queue) : (s.modQueue c q f).park = s.park := rfl
@[simp] theorem State.modQueue_bufs (c q : Nat) (f : Queue → Queue) : (s.modQueue c q f).bufs = s.bufs := rfl
@[simp] theorem State.modQueue_pages (c q : Nat) (f : Queue → Queue) : (s.modQueue c q f).pages = s.pages := rfl
@[simp] theorem State.modQueue_frames (c q : Nat) (f : Queue → Queue) : (s.modQueue c q f).frames = s.frames := rfl
@[simp] theorem State.modQueue_backing (c q : Nat) (f : Queue → Queue) : (s.modQueue c q f).backing = s.backing := rfl
@[simp] theorem State.modQueue_pageFor (c q : Nat) (f : Queue → Queue) : (s.modQueue c q f).pageFor = s.pageFor := rfl
@[simp] theorem State.modQueue_hostMem (c q : Nat) (f : Queue → Queue) : (s.modQueue c q f).hostMem = s.hostMem := rfl
@[simp] theorem State.modQueue_hostPoison (c q : Nat) (f : Queue → Queue) : (s.modQueue c q f).hostPoison = s.hostPoison := rfl
@[simp] theorem State.modQueue_fills (c q : Nat) (f : Queue → Queue) : (s.modQueue c q f).fills = s.fills := rfl
@[simp] theorem State.modQueue_regions (c q : Nat) (f : Queue → Queue) : (s.modQueue c q f).regions = s.regions := rfl
@[simp] theorem State.modQueue_notices (c q : Nat) (f : Queue → Queue) : (s.modQueue c q f).notices = s.notices := rfl
@[simp] theorem State.modQueue_devTime (c q : Nat) (f : Queue → Queue) : (s.modQueue c q f).devTime = s.devTime := rfl
@[simp] theorem State.modQueue_pkg (c q : Nat) (f : Queue → Queue) : (s.modQueue c q f).pkg = s.pkg := rfl
@[simp] theorem State.modQueue_ks (c q : Nat) (f : Queue → Queue) : (s.modQueue c q f).ks = s.ks := rfl
@[simp] theorem State.modQueue_fab (c q : Nat) (f : Queue → Queue) : (s.modQueue c q f).fab = s.fab := rfl
@[simp] theorem State.modQueue_io (c q : Nat) (f : Queue → Queue) : (s.modQueue c q f).io = s.io := rfl

@[simp] theorem State.draw_agenda : s.draw.2.agenda = s.agenda := by
  unfold State.draw
  split <;> rfl
@[simp] theorem State.draw_cur : s.draw.2.cur = s.cur := by
  unfold State.draw
  split <;> rfl
@[simp] theorem State.draw_apart : s.draw.2.apart = s.apart := by
  unfold State.draw
  split <;> rfl
@[simp] theorem State.draw_strands : s.draw.2.strands = s.strands := by
  unfold State.draw
  split <;> rfl
@[simp] theorem State.draw_lcores : s.draw.2.lcores = s.lcores := by
  unfold State.draw
  split <;> rfl
@[simp] theorem State.draw_ctxs : s.draw.2.ctxs = s.ctxs := by
  unfold State.draw
  split <;> rfl
@[simp] theorem State.draw_tasks : s.draw.2.tasks = s.tasks := by
  unfold State.draw
  split <;> rfl
@[simp] theorem State.draw_entries : s.draw.2.entries = s.entries := by
  unfold State.draw
  split <;> rfl
@[simp] theorem State.draw_emission : s.draw.2.emission = s.emission := by
  unfold State.draw
  split <;> rfl
@[simp] theorem State.draw_saved : s.draw.2.saved = s.saved := by
  unfold State.draw
  split <;> rfl
@[simp] theorem State.draw_subs : s.draw.2.subs = s.subs := by
  unfold State.draw
  split <;> rfl
@[simp] theorem State.draw_mem : s.draw.2.mem = s.mem := by
  unfold State.draw
  split <;> rfl
@[simp] theorem State.draw_fe : s.draw.2.fe = s.fe := by
  unfold State.draw
  split <;> rfl
@[simp] theorem State.draw_poison : s.draw.2.poison = s.poison := by
  unfold State.draw
  split <;> rfl
@[simp] theorem State.draw_park : s.draw.2.park = s.park := by
  unfold State.draw
  split <;> rfl
@[simp] theorem State.draw_bufs : s.draw.2.bufs = s.bufs := by
  unfold State.draw
  split <;> rfl
@[simp] theorem State.draw_pages : s.draw.2.pages = s.pages := by
  unfold State.draw
  split <;> rfl
@[simp] theorem State.draw_frames : s.draw.2.frames = s.frames := by
  unfold State.draw
  split <;> rfl
@[simp] theorem State.draw_backing : s.draw.2.backing = s.backing := by
  unfold State.draw
  split <;> rfl
@[simp] theorem State.draw_pageFor : s.draw.2.pageFor = s.pageFor := by
  unfold State.draw
  split <;> rfl
@[simp] theorem State.draw_hostMem : s.draw.2.hostMem = s.hostMem := by
  unfold State.draw
  split <;> rfl
@[simp] theorem State.draw_hostPoison : s.draw.2.hostPoison = s.hostPoison := by
  unfold State.draw
  split <;> rfl
@[simp] theorem State.draw_fills : s.draw.2.fills = s.fills := by
  unfold State.draw
  split <;> rfl
@[simp] theorem State.draw_regions : s.draw.2.regions = s.regions := by
  unfold State.draw
  split <;> rfl
@[simp] theorem State.draw_notices : s.draw.2.notices = s.notices := by
  unfold State.draw
  split <;> rfl
@[simp] theorem State.draw_devTime : s.draw.2.devTime = s.devTime := by
  unfold State.draw
  split <;> rfl
@[simp] theorem State.draw_pkg : s.draw.2.pkg = s.pkg := by
  unfold State.draw
  split <;> rfl
@[simp] theorem State.draw_ks : s.draw.2.ks = s.ks := by
  unfold State.draw
  split <;> rfl
@[simp] theorem State.draw_fab : s.draw.2.fab = s.fab := by
  unfold State.draw
  split <;> rfl
@[simp] theorem State.draw_io : s.draw.2.io = s.io := by
  unfold State.draw
  split <;> rfl

@[simp] theorem State.setStrand_strand (k j : Nat) (x : Strand) : (s.setStrand k x).strand j = if j = k then x else s.strand j := by
  simp [State.setStrand, State.strand, Tab.get_set]
@[simp] theorem State.modStrand_strand (k j : Nat) (f : Strand → Strand) : (s.modStrand k f).strand j = if j = k then f (s.strand k) else s.strand j := by
  simp [State.modStrand]
@[simp] theorem State.setLcore_lcore (k j : Nat) (x : LCore) : (s.setLcore k x).lcore j = if j = k then x else s.lcore j := by
  simp [State.setLcore, State.lcore, Tab.get_set]
@[simp] theorem State.modLcore_lcore (k j : Nat) (f : LCore → LCore) : (s.modLcore k f).lcore j = if j = k then f (s.lcore k) else s.lcore j := by
  simp [State.modLcore]
@[simp] theorem State.setCtx_ctx (k j : Nat) (x : Ctx) : (s.setCtx k x).ctx j = if j = k then x else s.ctx j := by
  simp [State.setCtx, State.ctx, Tab.get_set]
@[simp] theorem State.modCtx_ctx (k j : Nat) (f : Ctx → Ctx) : (s.modCtx k f).ctx j = if j = k then f (s.ctx k) else s.ctx j := by
  simp [State.modCtx]
@[simp] theorem State.setTask_task (k j : Nat) (x : Task) : (s.setTask k x).task j = if j = k then x else s.task j := by
  simp [State.setTask, State.task, Tab.get_set]
@[simp] theorem State.modTask_task (k j : Nat) (f : Task → Task) : (s.modTask k f).task j = if j = k then f (s.task k) else s.task j := by
  simp [State.modTask]
@[simp] theorem State.setBuf_buf (k j : Nat) (x : Buf) : (s.setBuf k x).buf j = if j = k then x else s.buf j := by
  simp [State.setBuf, State.buf, Tab.get_set]
@[simp] theorem State.modBuf_buf (k j : Nat) (f : Buf → Buf) : (s.modBuf k f).buf j = if j = k then f (s.buf k) else s.buf j := by
  simp [State.modBuf]
@[simp] theorem State.setQrec_qrec (k j : Nat) (x : QRec) : (s.setQrec k x).qrec j = if j = k then x else s.qrec j := by
  simp [State.setQrec, State.qrec, Tab.get_set]
@[simp] theorem State.modQrec_qrec (k j : Nat) (f : QRec → QRec) : (s.modQrec k f).qrec j = if j = k then f (s.qrec k) else s.qrec j := by
  simp [State.modQrec]
@[simp] theorem State.setLcore_strand' (c : Nat) (x : LCore) (j : Nat) : (s.setLcore c x).strand j = s.strand j := rfl
@[simp] theorem State.modLcore_strand' (c : Nat) (f : LCore → LCore) (j : Nat) : (s.modLcore c f).strand j = s.strand j := rfl
@[simp] theorem State.setCtx_strand' (i : Nat) (x : Ctx) (j : Nat) : (s.setCtx i x).strand j = s.strand j := rfl
@[simp] theorem State.modCtx_strand' (i : Nat) (f : Ctx → Ctx) (j : Nat) : (s.modCtx i f).strand j = s.strand j := rfl
@[simp] theorem State.setTask_strand' (i : Nat) (x : Task) (j : Nat) : (s.setTask i x).strand j = s.strand j := rfl
@[simp] theorem State.modTask_strand' (i : Nat) (f : Task → Task) (j : Nat) : (s.modTask i f).strand j = s.strand j := rfl
@[simp] theorem State.setBuf_strand' (i : Nat) (x : Buf) (j : Nat) : (s.setBuf i x).strand j = s.strand j := rfl
@[simp] theorem State.modBuf_strand' (i : Nat) (f : Buf → Buf) (j : Nat) : (s.modBuf i f).strand j = s.strand j := rfl
@[simp] theorem State.setHost_strand' (a : Nat) (bs : List Byte) (j : Nat) : (s.setHost a bs).strand j = s.strand j := rfl
@[simp] theorem State.setQrec_strand' (q : Nat) (x : QRec) (j : Nat) : (s.setQrec q x).strand j = s.strand j := rfl
@[simp] theorem State.modQrec_strand' (q : Nat) (f : QRec → QRec) (j : Nat) : (s.modQrec q f).strand j = s.strand j := rfl
@[simp] theorem State.setHw_strand' (h : Nat) (q : Option Nat) (j : Nat) : (s.setHw h q).strand j = s.strand j := rfl
@[simp] theorem State.setLink_strand' (l : Nat) (x : Link) (j : Nat) : (s.setLink l x).strand j = s.strand j := rfl
@[simp] theorem State.setConn_strand' (e st : Nat) (j : Nat) : (s.setConn e st).strand j = s.strand j := rfl
@[simp] theorem State.setSteer_strand' (a e : Nat) (x : Steer) (j : Nat) : (s.setSteer a e x).strand j = s.strand j := rfl
@[simp] theorem State.modDie_strand' (d : Nat) (f : Die → Die) (j : Nat) : (s.modDie d f).strand j = s.strand j := rfl
@[simp] theorem State.setPage_strand' (i p : Nat) (e : Word) (j : Nat) : (s.setPage i p e).strand j = s.strand j := rfl
@[simp] theorem State.takeFrame_strand' (f : Nat) (j : Nat) : (s.takeFrame f).strand j = s.strand j := rfl
@[simp] theorem State.mapPage_strand' (id page : Nat) (p : Bool) (f : Nat) (j : Nat) : (s.mapPage id page p f).strand j = s.strand j := rfl
@[simp] theorem State.setSub_strand' (i : Nat) (u : Sub) (j : Nat) : (s.setSub i u).strand j = s.strand j := rfl
@[simp] theorem State.modQueue_strand' (c q : Nat) (f : Queue → Queue) (j : Nat) : (s.modQueue c q f).strand j = s.strand j := rfl
@[simp] theorem State.setStrand_lcore' (k : Nat) (x : Strand) (j : Nat) : (s.setStrand k x).lcore j = s.lcore j := rfl
@[simp] theorem State.modStrand_lcore' (k : Nat) (f : Strand → Strand) (j : Nat) : (s.modStrand k f).lcore j = s.lcore j := rfl
@[simp] theorem State.setCtx_lcore' (i : Nat) (x : Ctx) (j : Nat) : (s.setCtx i x).lcore j = s.lcore j := rfl
@[simp] theorem State.modCtx_lcore' (i : Nat) (f : Ctx → Ctx) (j : Nat) : (s.modCtx i f).lcore j = s.lcore j := rfl
@[simp] theorem State.setTask_lcore' (i : Nat) (x : Task) (j : Nat) : (s.setTask i x).lcore j = s.lcore j := rfl
@[simp] theorem State.modTask_lcore' (i : Nat) (f : Task → Task) (j : Nat) : (s.modTask i f).lcore j = s.lcore j := rfl
@[simp] theorem State.setBuf_lcore' (i : Nat) (x : Buf) (j : Nat) : (s.setBuf i x).lcore j = s.lcore j := rfl
@[simp] theorem State.modBuf_lcore' (i : Nat) (f : Buf → Buf) (j : Nat) : (s.modBuf i f).lcore j = s.lcore j := rfl
@[simp] theorem State.setHost_lcore' (a : Nat) (bs : List Byte) (j : Nat) : (s.setHost a bs).lcore j = s.lcore j := rfl
@[simp] theorem State.setQrec_lcore' (q : Nat) (x : QRec) (j : Nat) : (s.setQrec q x).lcore j = s.lcore j := rfl
@[simp] theorem State.modQrec_lcore' (q : Nat) (f : QRec → QRec) (j : Nat) : (s.modQrec q f).lcore j = s.lcore j := rfl
@[simp] theorem State.setHw_lcore' (h : Nat) (q : Option Nat) (j : Nat) : (s.setHw h q).lcore j = s.lcore j := rfl
@[simp] theorem State.setLink_lcore' (l : Nat) (x : Link) (j : Nat) : (s.setLink l x).lcore j = s.lcore j := rfl
@[simp] theorem State.setConn_lcore' (e st : Nat) (j : Nat) : (s.setConn e st).lcore j = s.lcore j := rfl
@[simp] theorem State.setSteer_lcore' (a e : Nat) (x : Steer) (j : Nat) : (s.setSteer a e x).lcore j = s.lcore j := rfl
@[simp] theorem State.modDie_lcore' (d : Nat) (f : Die → Die) (j : Nat) : (s.modDie d f).lcore j = s.lcore j := rfl
@[simp] theorem State.setPage_lcore' (i p : Nat) (e : Word) (j : Nat) : (s.setPage i p e).lcore j = s.lcore j := rfl
@[simp] theorem State.takeFrame_lcore' (f : Nat) (j : Nat) : (s.takeFrame f).lcore j = s.lcore j := rfl
@[simp] theorem State.mapPage_lcore' (id page : Nat) (p : Bool) (f : Nat) (j : Nat) : (s.mapPage id page p f).lcore j = s.lcore j := rfl
@[simp] theorem State.setSub_lcore' (i : Nat) (u : Sub) (j : Nat) : (s.setSub i u).lcore j = s.lcore j := rfl
@[simp] theorem State.setStrand_ctx' (k : Nat) (x : Strand) (j : Nat) : (s.setStrand k x).ctx j = s.ctx j := rfl
@[simp] theorem State.modStrand_ctx' (k : Nat) (f : Strand → Strand) (j : Nat) : (s.modStrand k f).ctx j = s.ctx j := rfl
@[simp] theorem State.setLcore_ctx' (c : Nat) (x : LCore) (j : Nat) : (s.setLcore c x).ctx j = s.ctx j := rfl
@[simp] theorem State.modLcore_ctx' (c : Nat) (f : LCore → LCore) (j : Nat) : (s.modLcore c f).ctx j = s.ctx j := rfl
@[simp] theorem State.setTask_ctx' (i : Nat) (x : Task) (j : Nat) : (s.setTask i x).ctx j = s.ctx j := rfl
@[simp] theorem State.modTask_ctx' (i : Nat) (f : Task → Task) (j : Nat) : (s.modTask i f).ctx j = s.ctx j := rfl
@[simp] theorem State.setBuf_ctx' (i : Nat) (x : Buf) (j : Nat) : (s.setBuf i x).ctx j = s.ctx j := rfl
@[simp] theorem State.modBuf_ctx' (i : Nat) (f : Buf → Buf) (j : Nat) : (s.modBuf i f).ctx j = s.ctx j := rfl
@[simp] theorem State.setHost_ctx' (a : Nat) (bs : List Byte) (j : Nat) : (s.setHost a bs).ctx j = s.ctx j := rfl
@[simp] theorem State.setQrec_ctx' (q : Nat) (x : QRec) (j : Nat) : (s.setQrec q x).ctx j = s.ctx j := rfl
@[simp] theorem State.modQrec_ctx' (q : Nat) (f : QRec → QRec) (j : Nat) : (s.modQrec q f).ctx j = s.ctx j := rfl
@[simp] theorem State.setHw_ctx' (h : Nat) (q : Option Nat) (j : Nat) : (s.setHw h q).ctx j = s.ctx j := rfl
@[simp] theorem State.setLink_ctx' (l : Nat) (x : Link) (j : Nat) : (s.setLink l x).ctx j = s.ctx j := rfl
@[simp] theorem State.setConn_ctx' (e st : Nat) (j : Nat) : (s.setConn e st).ctx j = s.ctx j := rfl
@[simp] theorem State.setSteer_ctx' (a e : Nat) (x : Steer) (j : Nat) : (s.setSteer a e x).ctx j = s.ctx j := rfl
@[simp] theorem State.modDie_ctx' (d : Nat) (f : Die → Die) (j : Nat) : (s.modDie d f).ctx j = s.ctx j := rfl
@[simp] theorem State.setPage_ctx' (i p : Nat) (e : Word) (j : Nat) : (s.setPage i p e).ctx j = s.ctx j := rfl
@[simp] theorem State.takeFrame_ctx' (f : Nat) (j : Nat) : (s.takeFrame f).ctx j = s.ctx j := rfl
@[simp] theorem State.mapPage_ctx' (id page : Nat) (p : Bool) (f : Nat) (j : Nat) : (s.mapPage id page p f).ctx j = s.ctx j := rfl
@[simp] theorem State.setSub_ctx' (i : Nat) (u : Sub) (j : Nat) : (s.setSub i u).ctx j = s.ctx j := rfl
@[simp] theorem State.modQueue_ctx' (c q : Nat) (f : Queue → Queue) (j : Nat) : (s.modQueue c q f).ctx j = s.ctx j := rfl
@[simp] theorem State.setStrand_task' (k : Nat) (x : Strand) (j : Nat) : (s.setStrand k x).task j = s.task j := rfl
@[simp] theorem State.modStrand_task' (k : Nat) (f : Strand → Strand) (j : Nat) : (s.modStrand k f).task j = s.task j := rfl
@[simp] theorem State.setLcore_task' (c : Nat) (x : LCore) (j : Nat) : (s.setLcore c x).task j = s.task j := rfl
@[simp] theorem State.modLcore_task' (c : Nat) (f : LCore → LCore) (j : Nat) : (s.modLcore c f).task j = s.task j := rfl
@[simp] theorem State.setCtx_task' (i : Nat) (x : Ctx) (j : Nat) : (s.setCtx i x).task j = s.task j := rfl
@[simp] theorem State.modCtx_task' (i : Nat) (f : Ctx → Ctx) (j : Nat) : (s.modCtx i f).task j = s.task j := rfl
@[simp] theorem State.setBuf_task' (i : Nat) (x : Buf) (j : Nat) : (s.setBuf i x).task j = s.task j := rfl
@[simp] theorem State.modBuf_task' (i : Nat) (f : Buf → Buf) (j : Nat) : (s.modBuf i f).task j = s.task j := rfl
@[simp] theorem State.setHost_task' (a : Nat) (bs : List Byte) (j : Nat) : (s.setHost a bs).task j = s.task j := rfl
@[simp] theorem State.setQrec_task' (q : Nat) (x : QRec) (j : Nat) : (s.setQrec q x).task j = s.task j := rfl
@[simp] theorem State.modQrec_task' (q : Nat) (f : QRec → QRec) (j : Nat) : (s.modQrec q f).task j = s.task j := rfl
@[simp] theorem State.setHw_task' (h : Nat) (q : Option Nat) (j : Nat) : (s.setHw h q).task j = s.task j := rfl
@[simp] theorem State.setLink_task' (l : Nat) (x : Link) (j : Nat) : (s.setLink l x).task j = s.task j := rfl
@[simp] theorem State.setConn_task' (e st : Nat) (j : Nat) : (s.setConn e st).task j = s.task j := rfl
@[simp] theorem State.setSteer_task' (a e : Nat) (x : Steer) (j : Nat) : (s.setSteer a e x).task j = s.task j := rfl
@[simp] theorem State.modDie_task' (d : Nat) (f : Die → Die) (j : Nat) : (s.modDie d f).task j = s.task j := rfl
@[simp] theorem State.setPage_task' (i p : Nat) (e : Word) (j : Nat) : (s.setPage i p e).task j = s.task j := rfl
@[simp] theorem State.takeFrame_task' (f : Nat) (j : Nat) : (s.takeFrame f).task j = s.task j := rfl
@[simp] theorem State.mapPage_task' (id page : Nat) (p : Bool) (f : Nat) (j : Nat) : (s.mapPage id page p f).task j = s.task j := rfl
@[simp] theorem State.setSub_task' (i : Nat) (u : Sub) (j : Nat) : (s.setSub i u).task j = s.task j := rfl
@[simp] theorem State.modQueue_task' (c q : Nat) (f : Queue → Queue) (j : Nat) : (s.modQueue c q f).task j = s.task j := rfl
@[simp] theorem State.setStrand_buf' (k : Nat) (x : Strand) (j : Nat) : (s.setStrand k x).buf j = s.buf j := rfl
@[simp] theorem State.modStrand_buf' (k : Nat) (f : Strand → Strand) (j : Nat) : (s.modStrand k f).buf j = s.buf j := rfl
@[simp] theorem State.setLcore_buf' (c : Nat) (x : LCore) (j : Nat) : (s.setLcore c x).buf j = s.buf j := rfl
@[simp] theorem State.modLcore_buf' (c : Nat) (f : LCore → LCore) (j : Nat) : (s.modLcore c f).buf j = s.buf j := rfl
@[simp] theorem State.setCtx_buf' (i : Nat) (x : Ctx) (j : Nat) : (s.setCtx i x).buf j = s.buf j := rfl
@[simp] theorem State.modCtx_buf' (i : Nat) (f : Ctx → Ctx) (j : Nat) : (s.modCtx i f).buf j = s.buf j := rfl
@[simp] theorem State.setTask_buf' (i : Nat) (x : Task) (j : Nat) : (s.setTask i x).buf j = s.buf j := rfl
@[simp] theorem State.modTask_buf' (i : Nat) (f : Task → Task) (j : Nat) : (s.modTask i f).buf j = s.buf j := rfl
@[simp] theorem State.setHost_buf' (a : Nat) (bs : List Byte) (j : Nat) : (s.setHost a bs).buf j = s.buf j := rfl
@[simp] theorem State.setQrec_buf' (q : Nat) (x : QRec) (j : Nat) : (s.setQrec q x).buf j = s.buf j := rfl
@[simp] theorem State.modQrec_buf' (q : Nat) (f : QRec → QRec) (j : Nat) : (s.modQrec q f).buf j = s.buf j := rfl
@[simp] theorem State.setHw_buf' (h : Nat) (q : Option Nat) (j : Nat) : (s.setHw h q).buf j = s.buf j := rfl
@[simp] theorem State.setLink_buf' (l : Nat) (x : Link) (j : Nat) : (s.setLink l x).buf j = s.buf j := rfl
@[simp] theorem State.setConn_buf' (e st : Nat) (j : Nat) : (s.setConn e st).buf j = s.buf j := rfl
@[simp] theorem State.setSteer_buf' (a e : Nat) (x : Steer) (j : Nat) : (s.setSteer a e x).buf j = s.buf j := rfl
@[simp] theorem State.modDie_buf' (d : Nat) (f : Die → Die) (j : Nat) : (s.modDie d f).buf j = s.buf j := rfl
@[simp] theorem State.setPage_buf' (i p : Nat) (e : Word) (j : Nat) : (s.setPage i p e).buf j = s.buf j := rfl
@[simp] theorem State.takeFrame_buf' (f : Nat) (j : Nat) : (s.takeFrame f).buf j = s.buf j := rfl
@[simp] theorem State.setSub_buf' (i : Nat) (u : Sub) (j : Nat) : (s.setSub i u).buf j = s.buf j := rfl
@[simp] theorem State.modQueue_buf' (c q : Nat) (f : Queue → Queue) (j : Nat) : (s.modQueue c q f).buf j = s.buf j := rfl
@[simp] theorem State.setStrand_qrec' (k : Nat) (x : Strand) (j : Nat) : (s.setStrand k x).qrec j = s.qrec j := rfl
@[simp] theorem State.modStrand_qrec' (k : Nat) (f : Strand → Strand) (j : Nat) : (s.modStrand k f).qrec j = s.qrec j := rfl
@[simp] theorem State.setLcore_qrec' (c : Nat) (x : LCore) (j : Nat) : (s.setLcore c x).qrec j = s.qrec j := rfl
@[simp] theorem State.modLcore_qrec' (c : Nat) (f : LCore → LCore) (j : Nat) : (s.modLcore c f).qrec j = s.qrec j := rfl
@[simp] theorem State.setCtx_qrec' (i : Nat) (x : Ctx) (j : Nat) : (s.setCtx i x).qrec j = s.qrec j := rfl
@[simp] theorem State.modCtx_qrec' (i : Nat) (f : Ctx → Ctx) (j : Nat) : (s.modCtx i f).qrec j = s.qrec j := rfl
@[simp] theorem State.setTask_qrec' (i : Nat) (x : Task) (j : Nat) : (s.setTask i x).qrec j = s.qrec j := rfl
@[simp] theorem State.modTask_qrec' (i : Nat) (f : Task → Task) (j : Nat) : (s.modTask i f).qrec j = s.qrec j := rfl
@[simp] theorem State.setBuf_qrec' (i : Nat) (x : Buf) (j : Nat) : (s.setBuf i x).qrec j = s.qrec j := rfl
@[simp] theorem State.modBuf_qrec' (i : Nat) (f : Buf → Buf) (j : Nat) : (s.modBuf i f).qrec j = s.qrec j := rfl
@[simp] theorem State.setHost_qrec' (a : Nat) (bs : List Byte) (j : Nat) : (s.setHost a bs).qrec j = s.qrec j := rfl
@[simp] theorem State.setHw_qrec' (h : Nat) (q : Option Nat) (j : Nat) : (s.setHw h q).qrec j = s.qrec j := rfl
@[simp] theorem State.setLink_qrec' (l : Nat) (x : Link) (j : Nat) : (s.setLink l x).qrec j = s.qrec j := rfl
@[simp] theorem State.setConn_qrec' (e st : Nat) (j : Nat) : (s.setConn e st).qrec j = s.qrec j := rfl
@[simp] theorem State.setSteer_qrec' (a e : Nat) (x : Steer) (j : Nat) : (s.setSteer a e x).qrec j = s.qrec j := rfl
@[simp] theorem State.modDie_qrec' (d : Nat) (f : Die → Die) (j : Nat) : (s.modDie d f).qrec j = s.qrec j := rfl
@[simp] theorem State.setPage_qrec' (i p : Nat) (e : Word) (j : Nat) : (s.setPage i p e).qrec j = s.qrec j := rfl
@[simp] theorem State.takeFrame_qrec' (f : Nat) (j : Nat) : (s.takeFrame f).qrec j = s.qrec j := rfl
@[simp] theorem State.mapPage_qrec' (id page : Nat) (p : Bool) (f : Nat) (j : Nat) : (s.mapPage id page p f).qrec j = s.qrec j := rfl
@[simp] theorem State.setSub_qrec' (i : Nat) (u : Sub) (j : Nat) : (s.setSub i u).qrec j = s.qrec j := rfl
@[simp] theorem State.modQueue_qrec' (c q : Nat) (f : Queue → Queue) (j : Nat) : (s.modQueue c q f).qrec j = s.qrec j := rfl

end Sys2Proof.Machine
end

