-- ==== Sys2Proof/Laws/Memory.lean ====
section
/-! SUPPORT. The laws of memory: a read after a write, what a write leaves alone, and that every operation on device and host memory keeps
the canonical form (R39, R69, R275, R284). -/

namespace Sys2Proof.Machine

variable (s : State)

-- Places: DIRTY does not move a page.

theorem physOf_dirty (e : Word) (off : Nat) : physOf (e ||| BitVec.ofNat 64 (2 ^ 61)) off = physOf e off := by
  have h : ∀ hi lo : Nat, hi < 61 → (e ||| BitVec.ofNat 64 (2 ^ 61)).bits hi lo = e.bits hi lo := by
    intro hi lo hh
    simp only [Word.bits, bits]
    apply Nat.eq_of_testBit_eq
    intro i
    simp only [Nat.testBit_mod_two_pow, Nat.testBit_shiftRight, BitVec.toNat_or, Nat.testBit_or, BitVec.toNat_ofNat]
    by_cases hi' : i < hi + 1 - lo
    · have : (2 ^ 61 : Nat).testBit (lo + i) = false := by
        rw [Nat.testBit_two_pow]
        exact decide_eq_false (by omega)
      rw [this, Bool.and_false, Bool.or_false]
    · rw [decide_eq_false hi', Bool.false_and, Bool.false_and]
  rw [physOf, physOf, h 50 48 (by omega), h 19 0 (by omega)]
@[simp] theorem State.touch_pa (id off id' off' : Nat) : (s.touch id off).pa id' off' = s.pa id' off' := by
  unfold State.touch
  simp only
  split
  · rfl
  · simp only [State.pa, State.page, Tab.get_set]
    split
    · rename_i h
      rw [h, physOf_dirty]
    · rfl
@[simp] theorem State.touch_mem (id off : Nat) : (s.touch id off).mem = s.mem := by
  unfold State.touch; simp only; split <;> rfl
@[simp] theorem State.touch_hostMem (id off : Nat) : (s.touch id off).hostMem = s.hostMem := by
  unfold State.touch; simp only; split <;> rfl

-- Bytes.

theorem State.setHomeByte_mem (id off : Nat) (b : Byte) : (s.setHomeByte id off b).mem = Tab.set 0 s.mem (s.pa id off) b := by
  simp [State.setHomeByte]
@[simp] theorem State.setHomeByte_hostMem (id off : Nat) (b : Byte) : (s.setHomeByte id off b).hostMem = s.hostMem := by
  simp [State.setHomeByte]
@[simp] theorem State.setHomeByte_pa (id off id' off' : Nat) (b : Byte) : (s.setHomeByte id off b).pa id' off' = s.pa id' off' :=
  s.touch_pa id off id' off'
/-- A read after a write: the byte written at its place, every other byte as it was. -/
theorem State.homeByte_setHomeByte (id off id' off' : Nat) (b : Byte) :
    (s.setHomeByte id off b).homeByte id' off' = if s.pa id' off' = s.pa id off then b else s.homeByte id' off' := by
  simp [State.homeByte, State.setHomeByte_mem, Tab.get_set]
@[simp] theorem State.setHome_pa (id off id' off' : Nat) (bs : List Byte) : (s.setHome id off bs).pa id' off' = s.pa id' off' := by
  induction bs generalizing s off with
  | nil => rfl
  | cons b bs ih => rw [State.setHome, ih, State.setHomeByte_pa]
@[simp] theorem State.setHome_hostMem (id off : Nat) (bs : List Byte) : (s.setHome id off bs).hostMem = s.hostMem := by
  induction bs generalizing s off with
  | nil => rfl
  | cons b bs ih => rw [State.setHome, ih, State.setHomeByte_hostMem]
/-- A write changes no address outside the bytes written. -/
theorem State.setHome_other (id off : Nat) (bs : List Byte) (a : Nat) (h : ∀ i, i < bs.length → a ≠ s.pa id (off + i)) :
    Tab.get 0 (s.setHome id off bs).mem a = Tab.get 0 s.mem a := by
  induction bs generalizing s off with
  | nil => rfl
  | cons b bs ih =>
    have h0 : a ≠ s.pa id off := h 0 (Nat.succ_pos _)
    rw [State.setHome, ih, State.setHomeByte_mem, Tab.get_set_other _ _ _ _ _ h0]
    intro i hi
    rw [State.setHomeByte_pa, Nat.add_assoc, Nat.add_comm 1 i]
    exact h (i + 1) (Nat.succ_lt_succ hi)
/-- A write is read back, where its bytes have places of their own. -/
theorem State.homeByte_setHome (id off i : Nat) (bs : List Byte) (h : i < bs.length)
    (hp : ∀ j, j < bs.length → s.pa id (off + i) = s.pa id (off + j) → i = j) :
    (s.setHome id off bs).homeByte id (off + i) = bs[i] := by
  induction bs generalizing s off i with
  | nil => cases h
  | cons b bs ih =>
    cases i with
    | zero =>
      rw [State.homeByte, State.setHome_pa, State.setHome, State.setHome_other, State.setHomeByte_mem]
      · exact Tab.get_set_same _ _ _ _
      · intro j hj he
        rw [State.setHomeByte_pa, Nat.add_assoc, Nat.add_comm 1 j] at he
        exact absurd (hp (j + 1) (Nat.succ_lt_succ hj) he) (Nat.succ_ne_zero j).symm
    | succ i =>
      rw [State.setHome, show off + (i + 1) = off + 1 + i by omega]
      refine ih (s.setHomeByte id off b) (off + 1) i (Nat.lt_of_succ_lt_succ h) fun j hj he => ?_
      rw [State.setHomeByte_pa, State.setHomeByte_pa, show off + 1 + i = off + (i + 1) by omega,
        show off + 1 + j = off + (j + 1) by omega] at he
      exact Nat.succ.inj (hp (j + 1) (Nat.succ_lt_succ hj) he)
/-- Only memory, DIRTY and DIRTYCNT change. -/
theorem State.setHome_keeps (id off : Nat) (bs : List Byte) :
    s.setHome id off bs =
      { s with mem := (s.setHome id off bs).mem, pages := (s.setHome id off bs).pages, bufs := (s.setHome id off bs).bufs } := by
  induction bs generalizing s off with
  | nil => rfl
  | cons b bs ih =>
    rw [State.setHome, ih]
    simp only [State.setHomeByte, State.touch]
    split <;> rfl

-- The canonical form.

theorem State.canon_reset : State.reset.canon := ⟨rfl, rfl⟩
/-- An operation that leaves both memories alone. -/
theorem State.canon_of_eq {s t : State} (h : s.canon) (hm : t.mem = s.mem) (hh : t.hostMem = s.hostMem) : t.canon := by
  rw [State.canon, hm, hh]; exact h
theorem State.canon_foldl {α : Type} {f : State → α → State} (hf : ∀ s a, s.canon → (f s a).canon) (l : List α) {s : State}
    (h : s.canon) : (l.foldl f s).canon := by
  induction l generalizing s with
  | nil => exact h
  | cons a l ih => exact ih (hf s a h)

variable {s}

theorem State.canon_setHomeByte (h : s.canon) (id off : Nat) (b : Byte) : (s.setHomeByte id off b).canon :=
  ⟨by rw [State.setHomeByte_mem]; exact Tab.wf_set _ _ _ _ h.1, by rw [State.setHomeByte_hostMem]; exact h.2⟩
theorem State.canon_setHome (h : s.canon) (id off : Nat) (bs : List Byte) : (s.setHome id off bs).canon := by
  induction bs generalizing s off with
  | nil => exact h
  | cons b bs ih => exact ih (State.canon_setHomeByte h id off b) _
theorem State.canon_setHost (h : s.canon) (a : Nat) (bs : List Byte) : (s.setHost a bs).canon :=
  ⟨h.1, Tab.wf_setList _ _ _ _ h.2⟩
theorem State.canon_dropFrame (h : s.canon) (f : Nat) : (s.dropFrame f).canon := ⟨Tab.wf_clear _ _ _ _ h.1, h.2⟩
theorem wf_unslice (t : Tab Byte) (lo : Nat) (x : Tab Byte) (h : Memory.wf t = true) : Memory.wf (unslice 0 t lo x) = true := by
  unfold unslice
  induction x generalizing t with
  | nil => exact h
  | cons e x ih => exact ih _ (Tab.wf_set _ _ _ _ h)
theorem State.canon_putRec (h : s.canon) (f : Nat) (r : PageRec) : (s.putRec f r).canon := ⟨wf_unslice _ _ _ h.1, h.2⟩
@[simp] theorem State.setFeAt_mem (s : State) (id off : Nat) (b : Bool) : (s.setFeAt id off b).mem = s.mem := by
  unfold State.setFeAt
  split
  · rfl
  · simp only
    split <;> exact s.touch_mem id off
@[simp] theorem State.setFeAt_hostMem (s : State) (id off : Nat) (b : Bool) : (s.setFeAt id off b).hostMem = s.hostMem := by
  unfold State.setFeAt
  split
  · rfl
  · simp only
    split <;> exact s.touch_hostMem id off

-- Pages.

theorem State.canon_draw (h : s.canon) : s.draw.2.canon := by
  unfold State.draw
  split <;> exact h
theorem State.canon_newFrame (h : s.canon) : s.newFrame.2.canon := State.canon_draw h
theorem State.canon_allocPage (h : s.canon) (id page : Nat) (p : Bool) : (s.allocPage id page p).canon := State.canon_newFrame h
theorem State.canon_allocPages (h : s.canon) (id : Nat) (p : Bool) (first n : Nat) : (s.allocPages id p first n).canon := by
  induction n generalizing s first with
  | zero => exact h
  | succ n ih => exact ih (State.canon_allocPage h id first p) _
theorem State.canon_pagesUsed (h : s.canon) (id : Nat) (rs : List Nat) (f : Nat → Nat) : (s.pagesUsed id rs f).canon := by
  simp only [State.pagesUsed]
  split <;> exact h
theorem State.canon_modLcore (h : s.canon) (c : Nat) (f : LCore → LCore) : (s.modLcore c f).canon := h
theorem State.canon_renew (h : s.canon) (c : Nat) (ks : List Nat) : (s.renew c ks).canon := by
  refine State.canon_foldl (fun s k h => ?_) _ h
  split
  · exact State.canon_modLcore h _ _
  · exact h
theorem State.canon_flushKeys (h : s.canon) (c : Nat) (ks : List Nat) : (s.flushKeys c ks).canon := by
  induction ks generalizing s with
  | nil => exact h
  | cons k ks ih =>
    unfold State.flushKeys
    split
    · exact ih (State.canon_renew (State.canon_modLcore (State.canon_setHomeByte h _ _ _) _ _) _ _)
    · exact ih h
theorem State.canon_flushPage (h : s.canon) (id page : Nat) : (s.flushPage id page).canon := by
  refine State.canon_foldl (fun s c h => ?_) _ h
  exact State.canon_of_eq (State.canon_flushKeys h c _) rfl rfl
theorem State.canon_pageOut (h : s.canon) (id page : Nat) : (s.pageOut id page).canon := by
  unfold State.pageOut
  simp only
  split
  · refine State.canon_pagesUsed ?_ _ _ _
    exact State.canon_dropFrame (s := { s.flushPage id page with backing := _ }) (State.canon_flushPage h id page) _
  · exact h
theorem State.canon_pageIn (h : s.canon) (id page : Nat) (rs : List Nat) : (s.pageIn id page rs).canon := by
  unfold State.pageIn
  simp only
  split
  · refine State.canon_pagesUsed ?_ _ _ _
    exact State.canon_putRec (s := s.newFrame.2) (State.canon_newFrame h) _ _
  · exact h
theorem State.canon_freePage (h : s.canon) (id page : Nat) : (s.freePage id page).canon := by
  unfold State.freePage
  simp only
  split
  · exact State.canon_dropFrame h _
  · exact h

-- The L1.

theorem State.canon_writeBackAll (h : s.canon) (c : Nat) : (s.writeBackAll c).canon := State.canon_flushKeys h _ _
theorem State.canon_writeBackLine (h : s.canon) (c line : Nat) : (s.writeBackLine c line).canon := State.canon_flushKeys h _ _
theorem State.canon_evictLine (h : s.canon) (c line : Nat) : (s.evictLine c line).canon := State.canon_writeBackLine h c line
theorem State.canon_writeBackRange (h : s.canon) (c id off n : Nat) : (s.writeBackRange c id off n).canon := by
  unfold State.writeBackRange
  split
  · exact h
  · exact State.canon_foldl (fun _ _ h => State.canon_writeBackLine h _ _) _ h
theorem State.canon_atHome (h : s.canon) (c id off n : Nat) : (s.atHome c id off n).canon := State.canon_writeBackRange h c id off n
theorem State.canon_fetchLine (h : s.canon) (c line : Nat) : (s.fetchLine c line).canon := by
  refine State.canon_foldl (fun s i h => ?_) _ h
  dsimp only
  split
  · exact h
  · refine State.canon_foldl (fun s k h => ?_) _ h
    split
    · exact h
    · exact State.canon_modLcore h _ _
theorem State.canon_l1Read (h : s.canon) (c id off n : Nat) (roc : Bool) : (s.l1Read c id off n roc).2.canon := by
  have hf : (if l1Holds (s.lcore c) (byteKey id off) n then s
      else (linesOf (byteKey id off) n).foldl (fun s l => s.fetchLine c l) s).canon := by
    split
    · exact h
    · exact State.canon_foldl (fun _ l h => State.canon_fetchLine h c l) _ h
  unfold State.l1Read
  dsimp only
  generalize (if l1Holds (s.lcore c) (byteKey id off) n then s else _) = t at hf
  split
  · exact State.canon_modLcore hf _ _
  · exact hf
theorem State.canon_l1Write (h : s.canon) (c id off : Nat) (bs : List Byte) : (s.l1Write c id off bs).canon := by
  induction bs generalizing s off with
  | nil => exact h
  | cons b bs ih =>
    rw [State.l1Write]
    refine ih ?_ _
    exact State.canon_of_eq h rfl rfl
theorem State.canon_writeBackAged (h : s.canon) (now : Nat) : (s.writeBackAged now).canon := by
  refine State.canon_foldl (fun s e h => State.canon_foldl (fun s x h => ?_) _ h) _ h
  split
  · exact State.canon_writeBackLine h _ _
  · exact h
theorem State.canon_regionsHome (h : s.canon) (k : Nat) : (s.regionsHome k).canon := by
  unfold State.regionsHome
  split
  · exact h
  · dsimp only
    split
    · exact h
    · exact State.canon_foldl (fun _ _ h => State.canon_writeBackRange h _ _ _ _) _ h
theorem State.canon_release (h : s.canon) (c : Nat) (sc : Scope) : (s.release c sc).canon := by
  unfold State.release
  split
  · exact h
  · exact State.canon_writeBackAll h c
theorem State.canon_acquire (h : s.canon) (c : Nat) (sc : Scope) : (s.acquire c sc).canon := by
  unfold State.acquire
  split <;> exact h

theorem State.canon_moduleReset (h : s.canon) : s.moduleReset.canon := ⟨rfl, h.2⟩

-- The local store, and the firmware.

theorem State.canon_wakeLs (h : s.canon) (c w : Nat) (b : Bool) : (s.wakeLs c w b).canon := by
  refine State.canon_foldl (fun s i h => ?_) _ h
  simp only
  split <;> exact h
theorem State.canon_fillLs (h : s.canon) (c off v : Nat) : (s.fillLs c off v).canon := by
  unfold State.fillLs State.setLsFe
  split
  · exact h
  · exact State.canon_wakeLs (s := (s.modLcore c _).modLcore c _) h _ _ _
theorem State.canon_fwSetByte (h : s.canon) (id off : Nat) (b : Byte) : (s.fwSetByte id off b).canon := by
  unfold State.fwSetByte
  simp only
  split
  · exact State.canon_setHomeByte h _ _ _
  · split
    · exact State.canon_of_eq h (s.touch_mem id off) (s.touch_hostMem id off)
    · exact h
theorem State.canon_fwSetDev (h : s.canon) (id off : Nat) (bs : List Byte) : (s.fwSetDev id off bs).canon := by
  induction bs generalizing s off with
  | nil => exact h
  | cons b bs ih => exact ih (State.canon_fwSetByte h id off b) _
theorem State.canon_fwSet (h : s.canon) (id off : Nat) (bs : List Byte) : (s.fwSet id off bs).canon := by
  unfold State.fwSet
  split
  · exact State.canon_setHost h _ _
  · exact State.canon_fwSetDev h _ _ _
theorem State.canon_evictWord (h : s.canon) (c w : Nat) : (s.evictWord c w).canon := State.canon_flushKeys h _ _
theorem State.canon_fwFill (h : s.canon) (id off v : Nat) : (s.fwFill id off v).canon := by
  unfold State.fwFill
  simp only
  split
  · exact State.canon_fwSet h _ _ _
  · exact State.canon_of_eq (State.canon_fwSet h id off (leBytes 8 v)) (State.setFeAt_mem ..) (State.setFeAt_hostMem ..)

end Sys2Proof.Machine
end

