-- ==== Sys2Proof/Laws/Places.lean ====
section
/-! SUPPORT. What writing a place, an engine's write and the words of a parted access can do: they keep memory canonical; and what a step adds
around a turn when no access is part done and nothing moves. -/

namespace Sys2Proof.Machine

variable {s : State}

theorem State.canon_prepHome (h : s.canon) (c : Nat) (pl : Place) (n : Nat) : (s.prepHome c pl n).canon := by
  cases pl <;> first | exact State.canon_atHome h _ _ _ _ | exact h
theorem State.canon_setLsFe (h : s.canon) (c off : Nat) (b : Bool) : (s.setLsFe c off b).canon := by
  unfold State.setLsFe
  split
  · exact h
  · exact State.canon_wakeLs (s := s.modLcore c _) h _ _ _
theorem State.canon_writePlace (h : s.canon) (t : Strand) (c : Nat) (pl : Place) (home : Bool) (bs : List Byte) :
    (s.writePlace t c pl home bs).canon := by
  unfold State.writePlace
  split
  · exact h
  · exact h
  · split
    · exact State.canon_setHome h _ _ _
    · exact State.canon_l1Write h _ _ _ _
  · exact h
  · exact h
  · exact State.canon_setHost h _ _
theorem State.canon_setHomeBut (h : s.canon) (id p : Nat) (held : List Nat) (bs : List Byte) : (s.setHomeBut id p held bs).canon := by
  refine State.canon_foldl (fun s e hs => ?_) _ h
  split
  · exact hs
  · exact State.canon_setHomeByte hs _ _ _
theorem State.canon_engineWriteDev (h : s.canon) (c id p : Nat) (bs : List Byte) : (s.engineWriteDev c id p bs).canon := by
  unfold State.engineWriteDev
  have he := State.canon_foldl (f := fun s x => s.evictLine c x) (fun s x hs => State.canon_evictLine hs c x)
    ((linesOf (byteKey id p) bs.length).filter fun x =>
      !((linesOf (byteKey id p) bs.length).filter fun x => (s.lcore c).roc.get false x).contains x) h
  dsimp only
  split
  · exact State.canon_setHome he _ _ _
  · exact State.canon_modLcore (State.canon_setHomeBut he _ _ _ _) _ _
theorem State.canon_payLines (h : s.canon) (c : Nat) : (s.payLines c).canon := by
  unfold State.payLines
  split
  · exact h
  · exact State.canon_modLcore (State.canon_foldl (fun s x hs => State.canon_writeBackLine hs c x) _ h) _ _
theorem State.canon_writeBitsAt (h : s.canon) (t : Strand) (c : Nat) (pl : Place) (home : Bool) (bs : List (Byte × Byte)) :
    (s.writeBitsAt t c pl home bs).canon := by
  unfold State.writeBitsAt
  split
  · exact State.canon_writePlace (State.canon_prepHome h _ _ _) _ _ _ _ _
  · exact State.canon_writePlace h _ _ _ _ _
theorem State.canon_writeApart (h : s.canon) (ws : List Spot) (k : Nat) (t : Strand) (pl : Place) (home : Bool) (bs : List (Byte × Byte)) :
    (s.writeApart ws k t pl home bs).canon := by
  refine State.canon_foldl (fun s e hs => ?_) _ h
  dsimp only
  split
  · exact hs
  · exact State.canon_writeBitsAt hs _ _ _ _ _
theorem State.canon_landOne (h : s.canon) (x : Late) : (s.landOne x).canon := by
  unfold State.landOne
  split
  · split
    · exact State.canon_writeBitsAt h _ _ _ _ _
    · split
      · exact State.canon_writeBitsAt h _ _ _ _ _
      · exact h
  · rename_i c _ _
    dsimp only
    split
    · rename_i id o _
      have hw : (if x.bs.map Prod.fst = [] then s else s.engineWriteDev c id o (x.bs.map Prod.fst)).canon := by
        split
        · exact h
        · exact State.canon_engineWriteDev h _ _ _ _
      split
      · exact State.canon_of_eq (State.canon_payLines hw _) (State.setFeAt_mem _ _ _ _) (State.setFeAt_hostMem _ _ _ _)
      · exact hw
    · split
      · exact State.canon_setLsFe (s := s.modLcore _ _) h _ _ _
      · exact h
    · exact State.canon_setHost h _ _
/-- Whatever arrives keeps memory canonical. -/
theorem State.canon_landWhere (h : s.canon) (p : Late → Bool) : (s.landWhere p).canon := by
  unfold State.landWhere
  split
  · exact h
  · exact State.canon_foldl (fun s x hs => State.canon_landOne hs x) _ (s := { s with apart := _ }) h
theorem State.canon_landFor (h : s.canon) (a : Agent) : (s.landFor a).canon := State.canon_landWhere h _
theorem State.canon_whole (h : s.canon) : s.whole.canon := by
  unfold State.whole
  split
  · exact h
  · exact State.canon_landWhere h _
/-- Reading ahead changes memory by the write-backs of R56 alone. -/
theorem State.canon_readWord (h : s.canon) (a : Agent) (c : Nat) (home : Bool) (see : Spot → Byte → Byte) (w : Spot) :
    (s.readWord a c home see w).canon := by
  unfold State.readWord
  dsimp only
  split
  · exact h
  · split
    · exact State.canon_prepHome h _ _ _
    · exact h

-- With no access part done.

@[simp] theorem State.landWhere_none (p : Late → Bool) (h : s.apart.late = []) : s.landWhere p = s := if_pos h
@[simp] theorem State.landFor_none (a : Agent) (h : s.apart.late = []) : s.landFor a = s := if_pos h
@[simp] theorem State.forget_none (a : Agent) (h : s.apart.early = []) : s.forget a = s := if_pos h
@[simp] theorem State.readBy_none (a : Agent) (h : s.apart.early = []) : s.readBy a = [] := by simp [State.readBy, h]
@[simp] theorem State.payLines_none (c : Nat) (h : (s.lcore c).owed = []) : s.payLines c = s := if_pos h
theorem Early.over_nil (p : Spot) (bs : List Byte) : Early.over [] p bs = bs := rfl
theorem Early.marked_nil (p : Spot) (bs : List (Byte × Bool)) : Early.marked [] p bs = bs := rfl

end Sys2Proof.Machine
end

