-- ==== Sys2Proof/Laws/Run.lean ====
section
/-! SUPPORT. What a word comes to under the checks before its own effect (R125, R126), what retires (R179), what a trap leaves (R195,
R198), and what a floating-point result delivers (R167). -/

namespace Sys2Proof.Machine

variable (s : State) (i : Instr) (g : Guard)

/-- A word that the guard lets act, on a strand that may run it. -/
theorem State.run_acts (w : Who) (f : Strand → Out) (hg : s.acts g) (hw : w.ok s.cur = true) : s.run i g w f = f s.me := by
  simp only [State.acts, State.me] at hg
  simp [State.run, hw, hg, State.me]
/-- A word whose guard is false passes to the next offset. -/
theorem State.run_off (w : Who) (f : Strand → Out) (hg : s.me.guard g = false) (hw : w.ok s.cur = true) :
    s.run i g w f = .next (s.retired s.me) := by
  simp only [State.me] at hg
  simp [State.run, hw, hg, State.retire, State.retired, State.me]
/-- A word that this strand may not run traps. -/
theorem State.run_wrong (w : Who) (f : Strand → Out) (hw : w.ok s.cur = false) :
    s.run i g w f = s.raise 0x01 4 (wordOf i) := by
  simp [State.run, hw]
/-- Everything that a word comes to. -/
theorem State.run_cases (w : Who) (f : Strand → Out) :
    s.run i g w f = s.raise 0x01 4 (wordOf i) ∨ s.run i g w f = .next (s.retired s.me) ∨ s.run i g w f = f s.me := by
  by_cases hw : w.ok s.cur = true
  · by_cases hg : s.me.guard g = true
    · exact .inr (.inr (s.run_acts i g w f hg hw))
    · exact .inr (.inl (s.run_off i g w f (by simpa using hg) hw))
  · exact .inl (s.run_wrong i g w f (by simpa using hw))

theorem Who.any_ok (k : Nat) : Who.any.ok k = true := rfl
theorem Who.task_ok (h : s.onTask) : Who.task.ok s.cur = true := by
  simpa [Who.ok, State.onTask] using h
theorem Who.handler_ok (h : ¬ s.onTask) : Who.handler.ok s.cur = true := by
  simpa [Who.ok, State.onTask] using h

/-- The element-wise words: a handler traps, no active element retires, else the effect on the active elements. -/
theorem State.runV_acts (f : Strand → Pred → Out) (h : s.actsV g) : s.runV i g f = f s.me (s.me.mask g) := by
  obtain ⟨hk, hm⟩ := h
  unfold State.runV
  rw [if_neg (by rw [hk]; exact Bool.false_ne_true)]
  exact if_neg hm
theorem State.runV_off (f : Strand → Pred → Out) (hk : isHandler s.cur = false) (hm : s.me.mask g = 0) :
    s.runV i g f = .next (s.retired s.me) := by
  unfold State.runV
  rw [if_neg (by rw [hk]; exact Bool.false_ne_true)]
  exact if_pos hm
theorem State.runV_handler (f : Strand → Pred → Out) (hk : isHandler s.cur = true) :
    s.runV i g f = s.raise 0x01 4 (wordOf i) := by
  simp [State.runV, hk]

/-- A word whose only effect is on its strand's registers. -/
theorem State.pure_acts (w : Who) (f : Strand → Strand) (hg : s.acts g) (hw : w.ok s.cur = true) :
    s.pure i g w f = .next (s.retired (f s.me)) := by
  simp [State.pure, s.run_acts i g w _ hg hw, State.retire, State.retired]
/-- A scalar word with one destination. -/
theorem State.scalar_acts (d : SR) (f : Strand → Word) (hg : s.acts g) :
    s.scalar i g d f = .next (s.retired (s.me.ws d (f s.me))) :=
  s.pure_acts i g .any _ hg rfl
/-- A scalar word: a next state always, with the destination written or without. -/
theorem State.scalar_cases (d : SR) (f : Strand → Word) :
    s.scalar i g d f = .next (s.retired s.me) ∨ s.scalar i g d f = .next (s.retired (s.me.ws d (f s.me))) := by
  by_cases hg : s.me.guard g = true
  · exact .inr (s.scalar_acts i g d f hg)
  · exact .inl (s.run_off i g .any (fun t => s.retire (t.ws d (f t))) (by simpa using hg) rfl)

-- What retires.

variable (t : Strand)

theorem State.retire_eq : s.retire t = .next (s.retired t) := rfl
theorem State.retireTo_eq (pc : Word) : s.retireTo t pc = .next (s.gone t pc) := rfl
@[simp] theorem State.retired_me : (s.retired t).me = { t with wait := .none }.advance := by
  simp [State.me, State.retired, State.setStrand, State.strand]
@[simp] theorem State.gone_me (pc : Word) : (s.gone t pc).me = { t with wait := .none, pc := pc } := by
  simp [State.me, State.gone, State.setStrand, State.strand]
theorem State.retired_other (j : Nat) (h : j ≠ s.cur) : (s.retired t).strand j = s.strand j := by
  simp [State.retired, State.setStrand, State.strand, h]
theorem State.retired_rest : s.retired t = { s with strands := (s.retired t).strands } := rfl
theorem State.gone_rest (pc : Word) : s.gone t pc = { s with strands := (s.gone t pc).strands } := rfl

/-- The end check changes the loop counters and the offset alone (R179). -/
theorem Strand.advance_keeps : t.advance = { t with lc := t.advance.lc, pc := t.advance.pc } := by
  simp only [Strand.advance, Strand.loopBack, Strand.lcSet]
  split <;> (try split) <;> (try split) <;> (try split) <;> rfl

-- Traps.

/-- A trap on a strand that is in none: the trap registers, and everything else of the strand as it was (R195). -/
theorem State.takeTrap_strand (k code detail : Nat) (pcv val : Word) (h : (s.strand k).inTrap = false) :
    (s.takeTrap k code detail pcv val).strand k =
      { s.strand k with
        wait := .none, trapCause := BitVec.ofNat 64 (detail % 256 * 256 + code % 256), trapPc := pcv, trapVal := val,
        trapStat := (s.strand k).status, status := (s.strand k).status ||| 0xC00, pc := (s.lcore (lcOf k)).trapVec } := by
  unfold State.takeTrap
  rw [if_neg (by rw [h]; exact Bool.false_ne_true)]
  exact Tab.get_set_same _ _ _ _
/-- A trap of a strand that is in one stops it (R198). -/
theorem State.takeTrap_double (k code detail : Nat) (pcv val : Word) (h : (s.strand k).inTrap = true) :
    s.takeTrap k code detail pcv val = s.doubleTrap k code := by
  simp [State.takeTrap, h]
theorem State.raise_eq (code detail : Nat) (val : Word) :
    s.raise code detail val = .next (s.takeTrap s.cur code detail s.me.pc val) := rfl
/-- An unparked strand holds no park record: its removal changes nothing. -/
theorem State.unpark_none (k : Nat) (h : (s.ctx (ctxOf k)).parkValid (parkIdx k) = false) : s.unpark k = s := by
  simp [State.unpark, h]

-- Floating-point results.

/-- No flag enabled: the result is written and the flags gather. -/
theorem State.deliver_quiet (w : Word) (fl : Num.Flags) (f : Strand → Strand) (h : fl &&& t.en = 0) :
    s.deliver t w fl f = .next (s.retired ((f t).orFlags fl)) := by
  simp [State.deliver, h, State.retire, State.retired]
/-- An enabled flag: nothing is written. -/
theorem State.deliver_trap (w : Word) (fl : Num.Flags) (f : Strand → Strand) (h : fl &&& t.en ≠ 0) :
    s.deliver t w fl f = s.raise 0x07 (fl &&& t.en).toNat w := if_pos h

-- Registers.

@[simp] theorem Strand.wsN_zero (v : Word) : t.wsN 0 v = t := rfl
theorem Strand.rsN_wsN (d r : Nat) (v : Word) : (t.wsN d v).rsN r = if r = 0 then 0 else if r = d then v else t.rsN r := by
  unfold Strand.wsN Strand.rsN
  by_cases hr : r = 0
  · simp [hr]
  · by_cases hd : d = 0
    · subst hd; simp [hr]
    · simp [hr, hd, Tab.get_set]
theorem Strand.wsN_keeps (d : Nat) (v : Word) : t.wsN d v = { t with s := (t.wsN d v).s } := by
  unfold Strand.wsN; split <;> rfl
theorem Strand.wp_keeps (p : PR) (v : Pred) : t.wp p v = { t with p := (t.wp p v).p } := by
  unfold Strand.wp; split <;> rfl

-- Commands and packets.

/-- A command event whose queue has no turn leaves the machine as it is. -/
theorem State.runCommand_idle (c q code : Nat) (work : Cmd → Nat → Work → CmdRes)
    (h : (s.coreRuns c && s.queuePresent c q) = false ∨ (s.queue c q).turn = none) : s.runCommand c q code work = .next s := by
  rcases h with h | h
  · simp [State.runCommand, h]
  · by_cases hc : (s.coreRuns c && s.queuePresent c q) = true
    · simp [State.runCommand, hc, h]
    · simp [State.runCommand, hc]
/-- A command event whose queue has its turn settles what its work comes to. -/
theorem State.runCommand_turn (c q code : Nat) (work : Cmd → Nat → Work → CmdRes) (cmd : Cmd) (x : Queue)
    (hc : (s.coreRuns c && s.queuePresent c q) = true) (ht : (s.queue c q).turn = some (cmd, x)) (hk : cmd.code = code) :
    s.runCommand c q code work =
      .next (s.runOn c q cmd x none [] [] work) := by
  simp [State.runCommand, hc, ht, hk]
/-- The head of a queue that has a turn. -/
theorem State.head_turn (c q : Nat) (cmd : Cmd) (rest : List Cmd) (h : s.head c q cmd rest) :
    (s.queue c q).turn = some (cmd, { s.queue c q with cmds := rest, started := some cmd }) := by
  obtain ⟨-, -, -, -, h1, h2, h3, h4, -⟩ := h
  simp [Queue.turn, h1, h2, h3, Nat.not_le.mpr h4]
/-- A packet event on a packet's turn: its work, and what that leaves (R451, R452, R454). -/
theorem State.startPacket_turn (u v : State) (qid : Nat) (op : Nat → Bool) (bad : State → List Word → Bool)
    (work : State → QRec → Nat → List Word → PacketRes) (p : List Word) (h : s.packetBegins u v qid p) (ho : op (pktOp p) = true)
    (hb : bad (u.started qid p) p = false) :
    s.startPacket qid op bad work =
      .next ((work v (u.qrec qid) (u.qrec qid).rptr p).settle qid (u.qrec qid).rptr p) := by
  obtain ⟨⟨h1, h2, h3, h4, h5, h6⟩, h7⟩ := h
  have hm : (u.modQrec qid fun q => ({ q with
      rptr := ((u.qrec qid).rptr + 1) % 2 ^ 32
      waits := if pktOp p = 0x04 then q.waits.set 0 (u.qrec qid).rptr u.now else q.waits }.setStep (u.qrec qid).rptr 1))
      = u.started qid p := by
    simp only [State.started, State.modQrec]
  have hs : (u.started qid p).sigOk (u.qrec qid) p = true := h6
  simp only [State.startPacket, h1, h2, h3, h4, ho, h5, hm, hs, hb, h7, Bool.not_true, Bool.false_eq_true, if_false, Bool.or_false]
/-- A packet at a waiting step that can go on: its step, and what that leaves (R453). -/
theorem State.goOn_returns (v : State) (qid n : Nat) (p : List Word) (h : s.packetReturns v qid n p) :
    s.goOn qid n = (v.packetStep qid n p).settle qid n p := by
  obtain ⟨h1, h2, h3, u, h4, h5, h6⟩ := h
  have hw : (s.qrec qid).waiting.contains n = true := by simpa using h2
  simp only [State.goOn, h1, hw, h3, h4, h5, h6, Bool.and_true, Bool.not_true, Bool.false_eq_true, if_false]

end Sys2Proof.Machine
end

