-- ==== Sys2Proof/Tests/Slice0.lean ====
section
/-! SUPPORT. The model's own tests: the encodings that the spec writes out, one ill-formed term for each check of
well-formedness, and for every statement a state and operands that meet its hypotheses, with what they give. Expected
values are worked from the rules by hand. -/

namespace Sys2Proof.Tests

-- One proof after another: each holds a stack of its own while it is checked.
set_option Elab.async false

open Sys2Proof Sys2Proof.Machine

-- Small states.

/-- A property of the next state; false where there is none. -/
def after (o : Out) (p : State → Bool) : Bool :=
  match o with
  | .next t => p t
  | _ => false
/-- Every word acts. -/
def g0 : Guard := ⟨0, false⟩
/-- No word acts. -/
def gN : Guard := ⟨0, true⟩
/-- One logical core of context 0 on die 3, strand 0 at work; buffer 2 is one page, and b0 names it. Every free choice is 0. -/
def base : State :=
  let s := { State.reset.placeWord 0 with hints := List.replicate 40 0 }
  let s := s.setBuf 2 { size := 65536, maxRights := 0xF0, refCnt := 1, valid := true }
  (s.allocPage 2 0 false).modStrand 0 fun t => { t with b := [(0, Cap.make 2 0 0xF0 65536 0)] }
/-- The same with registers. -/
def regs (l : List (Nat × Word)) : State := base.modStrand 0 fun t => { t with s := l }
/-- Scalar register n of strand 0. -/
def sr (t : State) (n : Nat) : Word := (t.strand 0).s.get 0 n

-- The encodings of R124 to R155, one word for each constructor, laid out by hand from the field tables. The guard is 5, negated.

/-- Each word decodes to its instruction. -/
def reads (l : List (Word × Instr)) : Bool := l.all fun x => match decode x.1 with
  | .ok i => decide (i = x.2)
  | .error _ => false

/-- R135, R145: system words. -/
theorem decode_system : reads [
    (0x010B000000000000, .nop ⟨5, true⟩),
    (0x020B00000000ABCD, .trap ⟨5, true⟩ 0xABCD),
    (0x030B000000008001, .brk ⟨5, true⟩ 0x8001),
    (0x040B000000000000, .tret ⟨5, true⟩),
    (0x050B000000000000, .hret ⟨5, true⟩),
    (0x060B7A0008400000, .crd ⟨5, true⟩ 61 .feBudget),
    (0x070B00F818000000, .cwr ⟨5, true⟩ .scratch0 62),
    (0x080B008404000000, .crset ⟨5, true⟩ .fpctl 33),
    (0x090B008814000000, .crclr ⟨5, true⟩ .handler 34),
    (0x0A0B0000002C0000, .fence ⟨5, true⟩ .rel .sys),
    (0x0B0B500000000000, .time ⟨5, true⟩ 40),
    (0x0C0B520000000000, .cid ⟨5, true⟩ 41),
    (0x0D0B020808C00000, .dhops ⟨5, true⟩ 1 2 35),
    (0x0E0B077C00000000, .tnext ⟨5, true⟩ 3 95),
    (0x0F0B000000000000, .tdone ⟨5, true⟩),
    (0x100B081400000000, .tspawn ⟨5, true⟩ 4 5),
    (0x110B000000000000, .tyield ⟨5, true⟩),
    (0x120B001800001234, .barv ⟨5, true⟩ 6 0x1234),
    (0x130B001C00004321, .barw ⟨5, true⟩ 7 0x4321)] = true := by
  decide +kernel

/-- R128, R146: integer words. -/
theorem decode_integer : reads [
    (0x200B428918000000, .add ⟨5, true⟩ 33 34 35),
    (0x210B428918000000, .sub ⟨5, true⟩ 33 34 35),
    (0x220B428918000000, .mul ⟨5, true⟩ 33 34 35),
    (0x230B428918000000, .mulh ⟨5, true⟩ 33 34 35),
    (0x240B428918000000, .mulhu ⟨5, true⟩ 33 34 35),
    (0x250B428918000000, .div ⟨5, true⟩ 33 34 35),
    (0x260B428918000000, .divu ⟨5, true⟩ 33 34 35),
    (0x270B428918000000, .rem ⟨5, true⟩ 33 34 35),
    (0x280B428918000000, .remu ⟨5, true⟩ 33 34 35),
    (0x290B428918000000, .and ⟨5, true⟩ 33 34 35),
    (0x2A0B428918000000, .or ⟨5, true⟩ 33 34 35),
    (0x2B0B428918000000, .xor ⟨5, true⟩ 33 34 35),
    (0x2C0B428918000000, .andn ⟨5, true⟩ 33 34 35),
    (0x2D0B428918000000, .shl ⟨5, true⟩ 33 34 35),
    (0x2E0B428918000000, .shr ⟨5, true⟩ 33 34 35),
    (0x2F0B428918000000, .sra ⟨5, true⟩ 33 34 35),
    (0x300B428918000000, .rotl ⟨5, true⟩ 33 34 35),
    (0x310B428918000000, .min ⟨5, true⟩ 33 34 35),
    (0x320B428918000000, .max ⟨5, true⟩ 33 34 35),
    (0x330B428918000000, .minu ⟨5, true⟩ 33 34 35),
    (0x340B428918000000, .maxu ⟨5, true⟩ 33 34 35),
    (0x350B78F400000000, .clz ⟨5, true⟩ 60 61),
    (0x360B78F400000000, .ctz ⟨5, true⟩ 60 61),
    (0x370B78F400000000, .popc ⟨5, true⟩ 60 61),
    (0x380B020800000300, .ext ⟨5, true⟩ .n16 1 2),
    (0x390BBC0818009000, .cmp ⟨5, true⟩ .geu 94 2 3),
    (0x3A0B02081DD00000, .sel ⟨5, true⟩ 1 93 2 3),
    (0x3B0B020818000080, .sadd ⟨5, true⟩ .i8 1 2 3),
    (0x3C0B020818000400, .ssub ⟨5, true⟩ .n64 1 2 3),
    (0x3D0B020818400000, .mad ⟨5, true⟩ 1 2 3 4)] = true := by
  decide +kernel

/-- R128, R146: integer words, continued. -/
theorem decode_integer2 : reads [
    (0x3E0B020818003000, .lea ⟨5, true⟩ 3 1 2 3)] = true := by
  decide +kernel

/-- R129, R147: immediate words. -/
theorem decode_immediate : reads [
    (0x400B4310FFFFFFFE, .addi ⟨5, true⟩ 33 34 0xFFFFFFFE),
    (0x410B4310FFFFFFFE, .andi ⟨5, true⟩ 33 34 0xFFFFFFFE),
    (0x420B4310FFFFFFFE, .ori ⟨5, true⟩ 33 34 0xFFFFFFFE),
    (0x430B4310FFFFFFFE, .xori ⟨5, true⟩ 33 34 0xFFFFFFFE),
    (0x470B4310FFFFFFFE, .muli ⟨5, true⟩ 33 34 0xFFFFFFFE),
    (0x490B4310FFFFFFFE, .movhi ⟨5, true⟩ 33 34 0xFFFFFFFE),
    (0x440B43100000003F, .shli ⟨5, true⟩ 33 34 63),
    (0x450B43100000003F, .shri ⟨5, true⟩ 33 34 63),
    (0x460B43100000003F, .srai ⟨5, true⟩ 33 34 63),
    (0x480B420080000000, .movi ⟨5, true⟩ 33 0x80000000),
    (0x4A0BBF1580000000, .cmpi ⟨5, true⟩ .ge 95 34 0x80000000),
    (0x4B0B811200000001, .cmpiu ⟨5, true⟩ .lt 64 34 1),
    (0x4C0B0A00FFFFFFFF, .adpc ⟨5, true⟩ 5 0xFFFFFFFF)] = true := by
  decide +kernel

/-- R128, R148: floating words. -/
theorem decode_floating : reads [
    (0x500B4289180004C0, .fadd ⟨5, true⟩ .f64 .rne 33 34 35),
    (0x510B428918000550, .fsub ⟨5, true⟩ .f32 .rtz 33 34 35),
    (0x520B4289180005E0, .fmul ⟨5, true⟩ .bf16 .rup 33 34 35),
    (0x530B428918000670, .fdiv ⟨5, true⟩ .f16 .rdn 33 34 35),
    (0x540B0208000004E0, .fsqrt ⟨5, true⟩ .f64 .rup 1 2),
    (0x550B020818402550, .fma ⟨5, true⟩ .f32 .rtz 2 1 2 3 4),
    (0x560B020818000580, .fmin ⟨5, true⟩ .bf16 1 2 3),
    (0x570B020818000580, .fmax ⟨5, true⟩ .bf16 1 2 3),
    (0x580B020800000600, .fabs ⟨5, true⟩ .f16 1 2),
    (0x590B020800000600, .fneg ⟨5, true⟩ .f16 1 2),
    (0x5A0B020818000480, .fsgn ⟨5, true⟩ .f64 1 2 3),
    (0x5B0B820818016500, .fcmp ⟨5, true⟩ .fun_ .f32 65 2 3),
    (0x5C0B020800011970, .fcvt ⟨5, true⟩ .pt8 .e2m1 .rdn 1 2),
    (0x5D0B020800000500, .fclass ⟨5, true⟩ .f32 1 2),
    (0x5E0B020800000480, .frnd ⟨5, true⟩ .f64 .none 1 2)] = true := by
  decide +kernel

/-- R128, R149: predicate words. -/
theorem decode_predicate : reads [
    (0x600BBB7AF800D000, .plog ⟨5, true⟩ 0xD 93 94 95),
    (0x610B037C00000000, .pcnt ⟨5, true⟩ 1 95),
    (0x620B057800000000, .pfirst ⟨5, true⟩ 2 94),
    (0x630BBE0410000000, .prange ⟨5, true⟩ 95 1 2),
    (0x640BBE0C00000000, .psplat ⟨5, true⟩ 95 3)] = true := by
  decide +kernel

/-- R132, R133, R150: control words. -/
theorem decode_control : reads [
    (0x680B0000FFFFFFFD, .br ⟨5, true⟩ 0xFFFFFFFD),
    (0x690BFC0000000007, .call ⟨5, true⟩ 63 7),
    (0x6A0B021000000008, .jmp ⟨5, true⟩ 33 8),
    (0x6B0B8A3000000009, .callr ⟨5, true⟩ 34 35 9),
    (0x6C0B03F000000000, .ret ⟨5, true⟩ 63),
    (0x700BA1C800000000, .loop ⟨5, true⟩ 2 33 200 0),
    (0x710B400000000000, .lbrk ⟨5, true⟩ 1),
    (0x720B850000000000, .lcget ⟨5, true⟩ 5 2),
    (0x730B460000000000, .lcset ⟨5, true⟩ 1 6)] = true := by
  decide +kernel

/-- R131, R151: memory words. -/
theorem decode_memory : reads [
    (0x780B1E4C3002FFF8, .qld ⟨5, true⟩ .acq .die 15 ⟨.dev, 9, 33, 2, 0x7FF8⟩),
    (0x790B1C4C30057FF8, .qst ⟨5, true⟩ .rel .pkg 14 ⟨.dev, 9, 33, 2, 0x7FF8⟩),
    (0x800B424C30D3FFF8, .ld ⟨5, true⟩ .i32 .cn .acq .sys 33 ⟨.dev, 9, 33, 2, 0x7FF8⟩),
    (0x810B444C34A4FFF8, .st ⟨5, true⟩ .pt8 .fu .rel .die 34 ⟨.dev, 9, 33, 2, 0x7FF8⟩),
    (0x810B450431000008, .st ⟨5, true⟩ .i64 .plain .none .core 34 ⟨.mw, 0, 33, 2, 8⟩),
    (0x820B45FC38030008, .ld2 ⟨5, true⟩ .acq .pkg 34 ⟨.host, 15, 33, 3, 8⟩),
    (0x830B7C4C3005FFF8, .st2 ⟨5, true⟩ .rel .sys 62 ⟨.dev, 9, 33, 2, 0x7FF8⟩),
    (0x840B1A842A828010, .vld ⟨5, true⟩ .acq .die 10 13 ⟨.ls, 0, 33, 1, 16⟩),
    (0x850B181C2AC48010, .vst ⟨5, true⟩ .rel .die 11 12 ⟨.dev, 3, 33, 1, 16⟩),
    (0x860B1619EA400010, .vgath ⟨5, true⟩ 9 11 ⟨.dev, 3, 15, 1, 16⟩),
    (0x870B1481CA000010, .vscat ⟨5, true⟩ 8 10 ⟨.ls, 0, 14, 1, 16⟩)] = true := by
  decide +kernel

/-- R131, R151: atomic words. -/
theorem decode_atomic : reads [
    (0x880B444C30C6FFF8, .cas ⟨5, true⟩ .i32 .acqRel .die 34 ⟨.dev, 9, 33, 2, 0x7FF8⟩),
    (0x890B784C3002FFF8, .cas2 ⟨5, true⟩ .acq .die 60 ⟨.dev, 9, 33, 2, 0x7FF8⟩),
    (0x8A0B424C30C57FF8, .amoadd ⟨5, true⟩ .i32 .rel .pkg 33 ⟨.dev, 9, 33, 2, 0x7FF8⟩),
    (0x8B0B424C31057FF8, .amoand ⟨5, true⟩ .i64 .rel .pkg 33 ⟨.dev, 9, 33, 2, 0x7FF8⟩),
    (0x8C0B424C31C57FF8, .amoor ⟨5, true⟩ .n32 .rel .pkg 33 ⟨.dev, 9, 33, 2, 0x7FF8⟩),
    (0x8D0B424C32057FF8, .amoxor ⟨5, true⟩ .n64 .rel .pkg 33 ⟨.dev, 9, 33, 2, 0x7FF8⟩),
    (0x8E0B424C30C57FF8, .amomin ⟨5, true⟩ .i32 .rel .pkg 33 ⟨.dev, 9, 33, 2, 0x7FF8⟩),
    (0x8F0B424C31057FF8, .amomax ⟨5, true⟩ .i64 .rel .pkg 33 ⟨.dev, 9, 33, 2, 0x7FF8⟩),
    (0x900B424C31C57FF8, .amominu ⟨5, true⟩ .n32 .rel .pkg 33 ⟨.dev, 9, 33, 2, 0x7FF8⟩),
    (0x910B424C32057FF8, .amomaxu ⟨5, true⟩ .n64 .rel .pkg 33 ⟨.dev, 9, 33, 2, 0x7FF8⟩),
    (0x920B424C30C57FF8, .amoswap ⟨5, true⟩ .i32 .rel .pkg 33 ⟨.dev, 9, 33, 2, 0x7FF8⟩),
    (0x930B424C32857FF8, .amofadd ⟨5, true⟩ .rel .pkg 33 ⟨.dev, 9, 33, 2, 0x7FF8⟩),
    (0x940B424C32C07FF8, .xadd32 ⟨5, true⟩ .bf16 .none .core 33 ⟨.dev, 9, 33, 2, 0x7FF8⟩),
    (0x950B424C32457FF8, .xadd64 ⟨5, true⟩ .f64 .rel .pkg 33 ⟨.dev, 9, 33, 2, 0x7FF8⟩),
    (0x960B424C3332FFF8, .xrd32 ⟨5, true⟩ .f16 .rup .acq .die 33 ⟨.dev, 9, 33, 2, 0x7FF8⟩),
    (0x970B424C32407FF8, .xrd64 ⟨5, true⟩ .f64 .none .none .core 33 ⟨.dev, 9, 33, 2, 0x7FF8⟩),
    (0x980B444C30C57FF8, .famoadd ⟨5, true⟩ .i32 .rel .pkg 34 ⟨.dev, 9, 33, 2, 0x7FF8⟩),
    (0x990B444C31057FF8, .famoand ⟨5, true⟩ .i64 .rel .pkg 34 ⟨.dev, 9, 33, 2, 0x7FF8⟩),
    (0x9A0B444C31C57FF8, .famoor ⟨5, true⟩ .n32 .rel .pkg 34 ⟨.dev, 9, 33, 2, 0x7FF8⟩),
    (0x9B0B444C32057FF8, .famoxor ⟨5, true⟩ .n64 .rel .pkg 34 ⟨.dev, 9, 33, 2, 0x7FF8⟩),
    (0x9C0B444C30C57FF8, .famomin ⟨5, true⟩ .i32 .rel .pkg 34 ⟨.dev, 9, 33, 2, 0x7FF8⟩),
    (0x9D0B444C31057FF8, .famomax ⟨5, true⟩ .i64 .rel .pkg 34 ⟨.dev, 9, 33, 2, 0x7FF8⟩),
    (0x9E0B444C31C57FF8, .famoswap ⟨5, true⟩ .n32 .rel .pkg 34 ⟨.dev, 9, 33, 2, 0x7FF8⟩),
    (0x9F0B784C31007FF8, .fcas ⟨5, true⟩ .i64 .none .core 60 ⟨.dev, 9, 33, 2, 0x7FF8⟩)] = true := by
  decide +kernel

/-- R130, R152: vector words. -/
theorem decode_vector : reads [
    (0xA00B1A3878004200, .vadd ⟨5, true⟩ .i8 .none true 13 14 (.v 15)),
    (0xA10B1A39F808140A, .vsub ⟨5, true⟩ .f32 .rtz false 13 14 (.s 63)),
    (0xA20B1A387800180E, .vmul ⟨5, true⟩ .f16 .rdn 13 14 (.v 15)),
    (0xA30B04103080D208, .vfma ⟨5, true⟩ .f64 .rne 3 2 4 6 8),
    (0xA40B1A3878000600, .vmin ⟨5, true⟩ .i32 13 14 (.v 15)),
    (0xA50B1A3828080600, .vmax ⟨5, true⟩ .i32 13 14 (.s 5)),
    (0xA60B1A3800000400, .vabs ⟨5, true⟩ .i16 13 14),
    (0xA70B1A3800000400, .vneg ⟨5, true⟩ .i16 13 14),
    (0xA80B1A3878000E00, .vand ⟨5, true⟩ .n32 13 14 (.v 15)),
    (0xA90B1A3878000E00, .vor ⟨5, true⟩ .n32 13 14 (.v 15)),
    (0xAA0B1A3878000E00, .vxor ⟨5, true⟩ .n32 13 14 (.v 15)),
    (0xAB0B1A3878000E00, .vshl ⟨5, true⟩ .n32 13 14 (.v 15)),
    (0xAC0B1A3878000E00, .vshr ⟨5, true⟩ .n32 13 14 (.v 15)),
    (0xAD0BBE387804D400, .vcmp ⟨5, true⟩ .fle .f32 95 14 (.v 15)),
    (0xAE0B1A387DF00600, .vsel ⟨5, true⟩ .i32 13 95 14 15),
    (0xAF0B1A3800001EAC, .vcvt ⟨5, true⟩ .e2m3 .f32 .rup 13 14),
    (0xB00B1AF400000600, .vdup ⟨5, true⟩ .i32 13 61),
    (0xB00B1AF5F0004600, .vins ⟨5, true⟩ .i32 13 61 62),
    (0xB00B7A35F0008600, .vext ⟨5, true⟩ .i32 61 13 62),
    (0xB10B1A3800001600, .vexp2 ⟨5, true⟩ .bf16 13 14),
    (0xB20B1A3800001600, .vlog2 ⟨5, true⟩ .bf16 13 14),
    (0xB30B1A3800001600, .vrcp ⟨5, true⟩ .bf16 13 14),
    (0xB40B1A3800001600, .vrsqrt ⟨5, true⟩ .bf16 13 14),
    (0xB50B1A39F8000000, .vrotr ⟨5, true⟩ 13 14 63),
    (0xB60B1A39F8000000, .vrotc ⟨5, true⟩ 13 14 63),
    (0xB70B1A39F8000000, .vbcr ⟨5, true⟩ 13 14 63),
    (0xB80B1A39F8000000, .vbcc ⟨5, true⟩ 13 14 63),
    (0xB90B1A3800014600, .vredr ⟨5, true⟩ .xor .i32 .none 13 14),
    (0xBA0B1A380000140A, .vredc ⟨5, true⟩ .sum .f32 .rtz 13 14),
    (0xBB0B1A3800000000, .vtrnr ⟨5, true⟩ 13 14)] = true := by
  decide +kernel

/-- R130, R152: vector words, continued. -/
theorem decode_vector2 : reads [
    (0xBC0B1A3800000000, .vtrnc ⟨5, true⟩ 13 14),
    (0xBD0B1A39F8004600, .vcx ⟨5, true⟩ true .i32 13 14 63),
    (0xBE0B063878005AA8, .vmac ⟨5, true⟩ .e4m3 .f32 .rne true 3 14 15),
    (0xBF0B1A0C00001698, .vnarr ⟨5, true⟩ .bf16 .f64 .rne 13 3)] = true := by
  decide +kernel

/-- R134, R153, R154: engine words. -/
theorem decode_engine : reads [
    (0xC00B4840000000E6, .qpush ⟨5, true⟩ 4 33 0xE6),
    (0xC10B502100000000, .qpop ⟨5, true⟩ 33 5),
    (0xC20B502100000000, .qpeek ⟨5, true⟩ 33 5),
    (0xC30B502100000000, .qstat ⟨5, true⟩ 33 5),
    (0xC40B002100005F80, .mclaim ⟨5, true⟩ 33 95 128),
    (0xC50B08A10000003D, .mtset ⟨5, true⟩ 61 33 34),
    (0xC60B00210000007E, .mtget ⟨5, true⟩ 33 62 1),
    (0xC70B300000000000, .qclr ⟨5, true⟩ 3),
    (0xD00B0840F620FFFE, .mld ⟨5, true⟩ 33 0xF620FFFE),
    (0xD10B0840F620FFFE, .mldt ⟨5, true⟩ 33 0xF620FFFE),
    (0xD20B0840F620FFFE, .mmul ⟨5, true⟩ 33 0xF620FFFE),
    (0xD30B0840F620FFFE, .mmulZ ⟨5, true⟩ 33 0xF620FFFE),
    (0xD40B0840F620FFFE, .mmsp ⟨5, true⟩ 33 0xF620FFFE),
    (0xD50B0840F620FFFE, .mmspZ ⟨5, true⟩ 33 0xF620FFFE),
    (0xD60B0840F620FFFE, .mrel ⟨5, true⟩ 33 0xF620FFFE),
    (0xD70B0840F620FFFE, .mzero ⟨5, true⟩ 33 0xF620FFFE),
    (0xD80B0840F620FFFE, .mst ⟨5, true⟩ 33 0xF620FFFE),
    (0xD90B0840F620FFFE, .mfill ⟨5, true⟩ 33 0xF620FFFE),
    (0xE00B084089ABCDEF, .gsprobe ⟨5, true⟩ 33 0x89ABCDEF),
    (0xE10B084089ABCDEF, .gsinsert ⟨5, true⟩ 33 0x89ABCDEF),
    (0xE20B084089ABCDEF, .gsclear ⟨5, true⟩ 33 0x89ABCDEF),
    (0xE30B084089ABCDEF, .gsgather ⟨5, true⟩ 33 0x89ABCDEF),
    (0xE40B084089ABCDEF, .gsscadd ⟨5, true⟩ 33 0x89ABCDEF),
    (0xE50B084089ABCDEF, .gsrules ⟨5, true⟩ 33 0x89ABCDEF),
    (0xE60B084089ABCDEF, .gssegsum ⟨5, true⟩ 33 0x89ABCDEF),
    (0xE70B084089ABCDEF, .gscompact ⟨5, true⟩ 33 0x89ABCDEF),
    (0xE80B084089ABCDEF, .sosort ⟨5, true⟩ 33 0x89ABCDEF),
    (0xE90B084089ABCDEF, .somerge ⟨5, true⟩ 33 0x89ABCDEF),
    (0xEA0B084089ABCDEF, .sotopk ⟨5, true⟩ 33 0x89ABCDEF),
    (0xEB0B084089ABCDEF, .sothresh ⟨5, true⟩ 33 0x89ABCDEF)] = true := by
  decide +kernel

/-- R134, R153, R154: engine words, continued. -/
theorem decode_engine2 : reads [
    (0xEC0B084089ABCDEF, .sosums ⟨5, true⟩ 33 0x89ABCDEF),
    (0xED0B084089ABCDEF, .sogather ⟨5, true⟩ 33 0x89ABCDEF),
    (0xF00B084089ABCDEF, .cpcopy ⟨5, true⟩ 33 0x89ABCDEF),
    (0xF10B084089ABCDEF, .cpset ⟨5, true⟩ 33 0x89ABCDEF),
    (0xF20B084089ABCDEF, .cpfe ⟨5, true⟩ 33 0x89ABCDEF),
    (0xF30B084089ABCDEF, .cpstride ⟨5, true⟩ 33 0x89ABCDEF),
    (0xF40B084089ABCDEF, .cpprf ⟨5, true⟩ 33 0x89ABCDEF),
    (0xF50B084089ABCDEF, .cpwb ⟨5, true⟩ 33 0x89ABCDEF),
    (0xF60B084089ABCDEF, .cpsig ⟨5, true⟩ 33 0x89ABCDEF)] = true := by
  decide +kernel

-- Well-formedness: one ill-formed term for each check (R126 to R155), beside well-formed neighbours.

/-- The scalar words: a guard or a register beyond its file, a type, condition or field that the major does not permit. -/
theorem wf_refuses_scalar : [
    Instr.nop ⟨96, false⟩, .tnext g0 1 96, .fence g0 .none .sys, .ext g0 .i64 1 2, .cmp g0 .feq 1 2 3, .cmp g0 .eq 96 2 3,
    .sel g0 1 96 2 3, .sadd g0 .f32 1 2 3, .fadd g0 .i32 .none 1 2 3, .fma g0 .e4m3 .none 0 1 2 3 4, .fcmp g0 .lt .f32 1 2 3,
    .fclass g0 .pt8 1 2, .plog g0 8 1 2 127, .cmpi g0 .eq 96 1 0, .loop g0 3 1 0 0, .loop g0 0 1 0 1, .lbrk g0 3].all
      (fun i => !i.wf) = true ∧
    [Instr.nop ⟨95, true⟩, .fence g0 .acq .core, .ext g0 .n32 1 2, .cmp g0 .geu 95 2 3, .loop g0 2 0 0 1].all (·.wf) = true := by
  decide +kernel
/-- The memory words: type, full/empty, ordering, scope and space codes, the unused BUF, and register groups. -/
theorem wf_refuses_memory : [
    Instr.ld g0 .e2m1 .plain .none .core 1 ⟨.dev, 0, 0, 0, 0⟩, .ld g0 .i32 .fl .none .core 1 ⟨.dev, 0, 0, 0, 0⟩,
    .ld g0 .i32 .plain .rel .core 1 ⟨.dev, 0, 0, 0, 0⟩, .ld g0 .i32 .plain .none .pkg 1 ⟨.dev, 0, 0, 0, 0⟩,
    .ld g0 .i32 .plain .none .core 1 ⟨.mw, 0, 0, 0, 0⟩, .ld g0 .i32 .wt .none .core 1 ⟨.host, 0, 0, 0, 0⟩,
    .ld g0 .i32 .plain .none .core 1 ⟨.ls, 1, 0, 0, 0⟩, .st g0 .i32 .cn .none .core 1 ⟨.dev, 0, 0, 0, 0⟩,
    .st g0 .i32 .plain .acq .core 1 ⟨.dev, 0, 0, 0, 0⟩, .st g0 .i64 .fl .none .core 1 ⟨.mw, 0, 0, 0, 0⟩,
    .ld2 g0 .none .core 1 ⟨.dev, 0, 0, 0, 0⟩, .qld g0 .none .core 1 ⟨.host, 0, 0, 0, 0⟩,
    .vgath g0 0 1 ⟨.dev, 0, 16, 0, 0⟩, .cas g0 .i8 .none .core 2 ⟨.dev, 0, 0, 0, 0⟩, .cas g0 .i32 .none .core 1 ⟨.dev, 0, 0, 0, 0⟩,
    .cas2 g0 .none .core 2 ⟨.dev, 0, 0, 0, 0⟩, .xadd32 g0 .f64 .none .core 1 ⟨.dev, 0, 0, 0, 0⟩,
    .xadd64 g0 .f16 .none .core 1 ⟨.dev, 0, 0, 0, 0⟩, .xrd32 g0 .f32 .none .rel .core 1 ⟨.dev, 0, 0, 0, 0⟩,
    .famoadd g0 .i64 .none .core 2 ⟨.ls, 0, 0, 0, 0⟩, .famoadd g0 .i64 .none .core 3 ⟨.dev, 0, 0, 0, 0⟩,
    .fcas g0 .i64 .none .core 2 ⟨.dev, 0, 0, 0, 0⟩].all (fun i => !i.wf) = true ∧
    [Instr.ld g0 .pt8 .wt .acq .sys 1 ⟨.ls, 0, 0, 0, 0⟩, .st2 g0 .rel .sys 62 ⟨.host, 15, 0, 0, 0⟩,
      .cas2 g0 .acqRel .pkg 60 ⟨.ls, 0, 0, 0, 0⟩].all (·.wf) = true := by
  decide +kernel
/-- The vector words: pairs, rounding of integers, saturation of floating point, and the types of each major. -/
theorem wf_refuses_vector : [
    Instr.vadd g0 .i64 .none false 1 2 (.v 4), .vadd g0 .i64 .none false 2 4 (.v 5), .vadd g0 .i32 .rne false 1 2 (.v 3),
    .vadd g0 .f32 .none true 1 2 (.v 3), .vadd g0 .e4m3 .none false 1 2 (.v 3), .vand g0 .f32 1 2 (.v 3),
    .vcmp g0 .feq .i32 1 2 (.v 3), .vcmp g0 .ltu .i32 1 2 (.v 3), .vcmp g0 .eq .f32 1 2 (.v 3), .vexp2 g0 .i32 1 2,
    .vredr g0 .and .f32 .none 1 2, .vredr g0 .min .f32 .rne 1 2, .vmac g0 .f64 .f32 .none true 0 2 4,
    .vmac g0 .f32 .i64 .none true 0 2 4, .vmac g0 .f32 .f16 .none true 0 2 4, .vnarr g0 .f32 .i32 .none 1 0].all
      (fun i => !i.wf) = true ∧
    [Instr.vadd g0 .f64 .rne false 2 4 (.s 5), .vcmp g0 .ge .n8 95 2 (.v 3), .vcvt g0 .e2m1 .f64 .rne 1 2,
      .vmac g0 .f64 .f64 .none true 3 2 4].all (·.wf) = true := by
  decide +kernel
/-- The queue and engine words. -/
theorem wf_refuses_engine : [
    Instr.qpush g0 4 1 0xF0, .qpush g0 6 1 0xF0, .qpop g0 1 6, .qclr g0 15, .mclaim g0 1 96 4, .mclaim g0 1 1 0, .mclaim g0 1 1 129,
    .mld g0 1 0x0001_0000, .mst g0 1 0x0240_0000].all (fun i => !i.wf) = true ∧
    [Instr.qpush g0 0 1 0xF6, .mclaim g0 1 95 128, .mld g0 1 0xFE20_FFFF].all (·.wf) = true := by
  decide +kernel

/-- R126: the step of the first check that refuses a word. -/
def refused (l : List (Word × Nat)) : Bool := l.all fun x => match decode x.1 with
  | .ok _ => false
  | .error n => n == x.2
/-- R126 steps 1 to 3: a reserved major, a guard above 95, a reserved field or code. -/
theorem decode_refuses : refused [
    (0, 1), (0x1400_0000_0000_0000, 1), (0x3F00_0000_0000_0000, 1), (0xFFFF_FFFF_FFFF_FFFF, 1), (0x6D00_0000_0000_0000, 1),
    (0x01C0_0000_0000_0000, 2), (0x01FF_0000_0000_0000, 2), (0x0100_0000_0000_0001, 3), (0x0600_0000_0180_0000, 3),
    (0x2002_0000_0000_0001, 3), (0x0200_0000_0001_0000, 3), (0x4000_0001_0000_0000, 3), (0x4400_0000_0000_0040, 3),
    (0x4A00_0006_0000_0000, 3), (0x6800_0001_0000_0000, 3), (0x7000_C000_0000_0001, 3), (0x8000_0000_0028_0000, 3),
    (0xA000_0000_0000_0601, 3), (0xC000_0000_0000_01F0, 3), (0xD000_0001_0000_0000, 3), (0x2000_8000_0000_0000, 3)] = true := by
  decide +kernel
/-- No word decodes to an event, so an event has none. -/
theorem events_have_no_word : [Instr.timeCompare 0 0, .coldReset, .bringUp, .patrolScrub, .mmulCommand 0].all
    (fun i => i.isEvent && (encode i).isNone) = true := by
  decide +kernel

-- Scalar words. A register file of two operands; results worked from R163 to R176.

/-- s1 = 7, s2 = -5. -/
def two : State := regs [(1, 7), (2, BitVec.ofInt 64 (-5))]

theorem witness_integer : two.acts g0 ∧
    after (exec (.add g0 3 1 2) two) (fun t => sr t 3 == 2 && (t.strand 0).pc == 8) = true ∧
    after (exec (.mulh g0 3 1 2) two) (fun t => sr t 3 == BitVec.allOnes 64) = true ∧
    after (exec (.mulhu g0 3 1 2) two) (fun t => sr t 3 == 6) = true ∧
    after (exec (.div g0 3 2 1) two) (fun t => sr t 3 == 0) = true ∧
    after (exec (.rem g0 3 2 1) two) (fun t => sr t 3 == BitVec.ofInt 64 (-5)) = true ∧
    after (exec (.divu g0 3 1 0) two) (fun t => sr t 3 == BitVec.allOnes 64) = true ∧
    after (exec (.sra g0 3 2 1) two) (fun t => sr t 3 == BitVec.allOnes 64) = true ∧
    after (exec (.andn g0 1 1 2) two) (fun t => sr t 1 == 4) = true ∧
    after (exec (.add g0 0 1 2) two) (fun t => sr t 0 == 0 && (t.strand 0).pc == 8) = true := by
  dsimp only [State.acts]; decide +kernel
theorem witness_saturation : two.acts g0 ∧ Ty.isInt .i8 = true ∧
    after (exec (.sadd g0 .i8 3 1 4) (regs [(1, 100), (4, 100)])) (fun t => sr t 3 == 127) = true ∧
    after (exec (.ssub g0 .n8 3 1 2) (regs [(1, 3), (2, 4)])) (fun t => sr t 3 == 0) = true ∧
    after (exec (.ext g0 .i8 3 1) (regs [(1, 0x1FF)])) (fun t => sr t 3 == BitVec.allOnes 64) = true ∧
    after (exec (.cmp g0 .ltu 5 1 2) two) (fun t => (t.strand 0).rpBit 5 1023) = true ∧
    after (exec (.cmp g0 .lt 5 1 2) two) (fun t => !(t.strand 0).rpBit 5 0) = true ∧
    after (exec (.movhi g0 3 2 0x80000000) two) (fun t => sr t 3 == 0x8000_0000_FFFF_FFFB) = true ∧
    after (exec (.addi g0 3 1 0xFFFFFFF8) two) (fun t => sr t 3 == BitVec.allOnes 64) = true ∧
    after (exec (.cmpiu g0 .lt 5 1 0xFFFFFFFF) two) (fun t => (t.strand 0).rpBit 5 0) = true := by
  dsimp only [State.acts]; decide +kernel
theorem witness_predicates : base.acts g0 ∧
    after (exec (.prange g0 5 1 2) (regs [(1, 2), (2, 4)]))
      (fun t => !(t.strand 0).rpBit 5 1 && (t.strand 0).rpBit 5 3 && !(t.strand 0).rpBit 5 4) = true ∧
    after (exec (.plog g0 4 5 0 6) base) (fun t => (t.strand 0).rpBit 5 1023) = true ∧
    after (exec (.plog g0 4 5 6 0) base) (fun t => !(t.strand 0).rpBit 5 1023) = true ∧
    after (exec (.plog g0 2 5 6 0) base) (fun t => (t.strand 0).rpBit 5 1023) = true ∧
    after (exec (.pcnt g0 3 0) base) (fun t => sr t 3 == 1024) = true ∧
    after (exec (.pfirst g0 3 7) base) (fun t => sr t 3 == 1024) = true := by
  dsimp only [State.acts]; decide +kernel
theorem witness_branches : (regs [(1, 0x40)]).acts g0 ∧
    after (exec (.br g0 0xFFFFFFFF) (base.modStrand 0 fun t => { t with pc := 24 })) (fun t => (t.strand 0).pc == 16) = true ∧
    after (exec (.callr g0 63 1 2) (regs [(1, 0x40)])) (fun t => (t.strand 0).pc == 0x50 && sr t 63 == 8) = true ∧
    after (exec (.ret g0 1) (regs [(1, 0x41)]))
      (fun t => (t.strand 0).trapCause == 4 && (t.strand 0).trapVal == 0x41 && (t.strand 0).trapPc == 0) = true := by
  dsimp only [State.acts]; decide +kernel
theorem witness_loops : base.acts g0 ∧ base.onTask ∧
    after (exec (.loop g0 1 0 2 5) base) (fun t => (t.strand 0).lcGet 1 == 0x0200_0001_0000_0005 && (t.strand 0).pc == 8) = true ∧
    after (exec (.loop g0 1 0 2 0) base) (fun t => (t.strand 0).pc == 32) = true ∧
    after (exec (.loop g0 0 0 2 5) (base.modStrand 0 fun t => { t with lc := [(2, 0x0200_0001_0000_0001)] }))
      (fun t => (t.strand 0).trapCause == 0x701) = true ∧
    after (exec (.lbrk g0 1) (base.modStrand 0 fun t => { t with lc := [(1, 0x0200_0001_0000_0005)] }))
      (fun t => (t.strand 0).lcGet 1 == 0x0200_0001_0000_0000 && (t.strand 0).pc == 32) = true := by
  dsimp only [State.acts, State.onTask]; decide +kernel
/-- R179: of two counters whose bodies end at the word the lower acts, and the higher keeps its count. -/
theorem witness_endCheck :
    let t : Strand := { pc := 24, lc := [(0, 0x0000_0003_0000_0002), (1, 0x0200_0001_0000_0005)] }
    t.advance.pc = 24 ∧ t.advance.lcGet 0 = 0x0000_0003_0000_0001 ∧ t.advance.lcGet 1 = t.lcGet 1 ∧
    t.advance.advance.pc = 32 ∧ t.advance.advance.lcGet 0 = 0x0000_0003_0000_0000 ∧
    t.advance.advance.advance.pc = 40 := by decide +kernel
/-- 1.5 + 2.25 in FP32, and 1/0 with DZ enabled and not. -/
theorem witness_floating :
    let s := regs [(1, 0x3FC00000), (2, 0x40100000)]
    let e := s.modStrand 0 fun t => { t with fpctl := 0x0000_1F00 }
    s.acts g0 ∧ s.quiet (Num.fadd .f32 (s.me.mode .rne) 0x3FC00000 0x40100000).fl ∧
    after (exec (.fadd g0 .f32 .rne 3 1 2) s) (fun t => sr t 3 == 0x40700000 && (t.strand 0).fpctl == 0) = true ∧
    s.quiet (Num.fdiv .f32 (s.me.mode .none) 0x3FC00000 0).fl ∧
    after (exec (.fdiv g0 .f32 .none 3 1 0) s) (fun t => sr t 3 == 0x7F800000) = true ∧
    e.acts g0 ∧ ¬e.quiet (Num.fdiv .f32 (e.me.mode .none) 0x3FC00000 0).fl ∧
    after (exec (.fdiv g0 .f32 .none 3 1 0) e)
      (fun t => (t.strand 0).trapCause.toNat % 256 == 7 && sr t 3 == 0 && (t.strand 0).fpctl == 0x1F00) = true := by
  dsimp only [State.acts, State.quiet]; decide +kernel

-- Graphs: two nodes, whose records stand at offset 0x40 of buffer 3.

/-- Words of buffer 3 of `base`, a graph buffer of context 0 with NNODES 2 and its node table at 0x40. -/
def graph (ws : List (Nat × Nat)) : State :=
  let s := (base.setBuf 3 { size := 65536, maxRights := 0xF0, refCnt := 1, valid := true }).allocPage 3 0 false
  let s := s.modCtx 0 fun c => { c with graphs := [3], bufIds := [(1, 0, false), (2, 0, false), (3, 0, false)] }
  ([(0, 0x0000_0002_FFFF_0000), (8, 0x40)] ++ ws).foldl (fun s (w : Nat × Nat) => s.setHomeNat 3 w.1 8 w.2) s

-- System words, traps, returns.

/-- At user privilege the rights of R111; the cold-reset registers. -/
theorem witness_systemWords :
    base.acts g0 ∧ base.me.super = false ∧ Cr.userRead .status = true ∧ Cr.userWrite .timeCmp = true ∧
    Cr.userRead .scratch0 = false ∧ Cr.userWrite .status = false ∧
    after (exec (.crd g0 3 .fectl) base) (fun t => sr t 3 == 0x0040_0000) = true ∧
    after (exec (.crset g0 .handler 1) (regs [(1, 0x103F)])) (fun t => (t.lcore 0).handler == 0x1039) = true ∧
    after (exec (.crclr g0 .fpctl 1) ((regs [(1, 0x300)]).modStrand 0 fun t => { t with fpctl := 0x13E1 }))
      (fun t => (t.strand 0).fpctl == 0x10E1) = true ∧
    after (exec (.crd g0 3 .fpctl) (base.modStrand 0 fun t => { t with fpctl := BitVec.allOnes 64 })) (fun t => sr t 3 == 0x33FF) = true ∧
    base.ownPackets .sys = [] ∧
    after (exec (.cid g0 3) base) (fun t => sr t 3 == 0) = true ∧
    after (exec (.fence g0 .acqRel .sys) base) (fun t => (t.strand 0).pc == 8) = true ∧
    after (exec (.cwr g0 .scratch0 1) base)
      (fun t => (t.strand 0).trapCause == 0x20A && (t.strand 0).trapVal == 0x0700_0004_1800_0000) = true ∧
    after (exec (.cwr g0 .scratch0 1) ((regs [(1, 9)]).modStrand 0 fun t => { t with status := 0x800 }))
      (fun t => (t.strand 0).scratch0 == 9) = true := by
  dsimp only [State.acts]; decide +kernel
/-- A trap outside a trap, and one inside a trap, which stops the strand (R198). -/
theorem witness_trapEntry :
    let s := base.modStrand 0 fun t => { t with status := 0x4000, pc := 0x200 }
    let s := s.modLcore 0 fun l => { l with trapVec := 0x1000 }
    let u := base.modStrand 0 fun t => { t with status := 0xC00, trapCause := 3 }
    (s.strand 0).inTrap = false ∧ ((s.takeTrap 0 0x0A 2 0x200 5).strand 0).trapCause = 0x20A ∧
    ((s.takeTrap 0 0x0A 2 0x200 5).strand 0).status = 0x4C00 ∧ ((s.takeTrap 0 0x0A 2 0x200 5).strand 0).trapStat = 0x4000 ∧
    ((s.takeTrap 0 0x0A 2 0x200 5).strand 0).pc = 0x1000 ∧
    (u.strand 0).inTrap = true ∧ ((u.takeTrap 0 0x0A 2 0x200 5).strand 0).stopped = true ∧
    ((u.takeTrap 0 0x0A 2 0x200 5).strand 0).trapCause = 3 := by decide +kernel
theorem witness_traps :
    let s := { (base.modStrand 0 fun t => { t with timeCmp := 100, pc := 16 }) with devTime := 100 }
    base.acts g0 ∧ after (exec (.trap g0 0xFFFF) base)
      (fun t => (t.strand 0).trapCause == 0x0C && (t.strand 0).trapPc == 8 && (t.strand 0).trapVal == 0xFFFF) = true ∧
    after (exec (.brk g0 7) base) (fun t => (t.strand 0).trapCause == 0x0B && (t.strand 0).trapPc == 0) = true ∧
    s.inWork (mkStrand 0 0) = true ∧ (s.strand (mkStrand 0 0)).inTrap = false ∧
    (s.strand (mkStrand 0 0)).timeCmp ≠ BitVec.allOnes 64 ∧ (s.strand (mkStrand 0 0)).timeCmp.toNat ≤ s.now ∧
    after (exec (.timeCompare 0 0) s) (fun t => (t.strand 0).trapCause == 0x0D && (t.strand 0).trapPc == 16 &&
      (t.strand 0).trapVal == 100 && (t.strand 0).timeCmp == BitVec.allOnes 64) = true ∧
    after (exec (.illegalInstruction 1 0) base) (fun t => (t.strand 0).trapCause == 0x101) = true ∧
    after (exec (.instructionFetchFault 0x10000) base)
      (fun t => (t.strand 0).trapCause == 0xD02 && (t.strand 0).trapPc == 0x10000) = true := by
  dsimp only [State.acts]; decide +kernel
/-- A packet without .rel, the first of its core. -/
def packet (sender dest : Nat) (ws : List Word) : Packet := { sender := sender, dest := dest, words := ws }
/-- The handler strand of core 0 on packets. -/
def handling (ws : List Packet) : State :=
  ({ base with cur := 4 }.modLcore 0 fun l => { l with window := ws, handler := 0x41 }).setStrand 4 { active := true }
theorem witness_returns :
    let one := handling [packet 1 0 [5, 6]]
    let s := base.modStrand 0 fun t => { t with status := 0xC00, trapPc := 0x80, trapStat := 0x400 }
    s.acts g0 ∧ s.me.super = true ∧ after (exec (.tret g0) s) (fun t => (t.strand 0).pc == 0x80 && (t.strand 0).status == 0x400) = true ∧
    base.acts g0 ∧ base.me.super = false ∧ after (exec (.tret g0) base) (fun t => (t.strand 0).trapCause == 0x10A) = true ∧
    one.acts g0 ∧ isHandler one.cur = true ∧
    after (exec (.hret g0) one) (fun t => !(t.strand 4).active && (t.lcore 0).window.isEmpty) = true ∧
    after (exec (.hret g0) (handling [packet 1 0 [5, 6], packet 2 0 [7]])) (fun t => (t.strand 4).active && (t.strand 4).pc == 0x40 &&
      (t.lcore 0).msgInfo == 0x0000_0002_0000_0001) = true ∧
    isHandler base.cur = false ∧ after (exec (.hret g0) base) (fun t => (t.strand 0).trapCause == 0x401) = true := by
  dsimp only [State.acts]; decide +kernel

-- Tasks and barriers.

/-- Task 0 with one part on core 0. -/
def parted (lo hi : Nat) : State := (graph []).setTask 0 { st := .running, emitted := true, begun := true, parts := [⟨0, lo, hi, 0, 1⟩] }
theorem witness_tasks :
    let s := parted 3 7
    let e := parted 8 7
    s.acts g0 ∧ s.onTask ∧ s.me.node = some 0 ∧ s.me.switchPending = false ∧
    (s.task 0).part (coreOfLc (lcOf s.cur)) = some ⟨0, 3, 7, 0, 1⟩ ∧
    after (exec (.tnext g0 5 1) s) (fun t => sr t 5 == 3 && (t.strand 0).rpBit 1 0 && (t.strand 0).iter == some 3) = true ∧
    (∀ q ∈ (e.task 0).parts, q.end_ < q.next) ∧ (e.task 0).part (coreOfLc (lcOf e.cur)) = some ⟨0, 8, 7, 0, 1⟩ ∧
    after (exec (.tnext g0 5 1) e) (fun t => sr t 5 == 0 && !(t.strand 0).rpBit 1 0 && (t.strand 0).iter == none) = true ∧
    after (exec (.tyield g0) s) (fun t => (t.strand 0).pc == 8) = true ∧ s.me.inTrap = false ∧
    after (exec (.tdone g0) s) (fun t => (t.strand 0).node == none && ((t.task 0).parts.all fun p => p.active == 0)) = true ∧
    (s.me.rs 0).toNat < s.nnodes (s.task 0).ctx (s.task 0).graph ∧ s.me.versioned = false ∧
    s.nnodes (s.task 0).ctx (s.task 0).graph = 2 ∧
    after (exec (.tspawn g0 5 1) (s.modStrand 0 fun t => { t with s := [(1, 2)] })) (fun t => (t.strand 0).trapCause == 0xE02) = true := by
  dsimp only [State.acts, State.onTask]; decide +kernel
/-- Some entry of the task table is free, whichever the free value picks. -/
theorem witness_tspawn : (parted 3 7).ownPackets .pkg = [] ∧
    ∃ e u, ((parted 3 7).relPoint .pkg).freeEntry = (some e, u) := by
  have h : ((parted 3 7).relPoint .pkg).lowFree 0 65536 = some 1 := by decide +kernel
  refine ⟨by decide +kernel, ?_⟩
  generalize (parted 3 7).relPoint .pkg = s at h
  simp only [State.freeEntry, h]
  split
  · exact ⟨_, _, rfl⟩
  · exact ⟨1, _, rfl⟩
theorem witness_barriers :
    let s := fun (w : Word) => (regs [(1, 4090)]).modCtx 0 fun c => { c with barriers := [(4095, w)] }
    let tk := fun (s : State) => s.modStrand 0 fun t => { t with ticket := some (4095, 9) }
    let one := s 0x0000_0009_0001_0003
    let last := s 0x0000_0009_0002_0003
    one.acts g0 ∧ one.plainTask ∧ one.ownPackets .pkg = [] ∧ ((one.me.rs 1) + BitVec.zeroExtend 64 (5 : BitVec 16)).toNat = 4095 ∧
    after (exec (.barv g0 1 5) one)
      (fun t => (t.ctx 0).barriers.get 0 4095 == 0x0000_0009_0002_0003 && (t.strand 0).ticket == some (4095, 9)) = true ∧
    after (exec (.barv g0 1 5) last) (fun t => (t.ctx 0).barriers.get 0 4095 == 0x0000_000A_0000_0003) = true ∧
    after (exec (.barw g0 1 5) (tk (s 0x0000_000A_0000_0003))) (fun t => (t.strand 0).pc == 8) = true ∧
    after (exec (.barw g0 1 5) (tk one)) (fun t => (t.strand 0).wait == .bar 4095 1 false && (t.strand 0).pc == 0) = true := by
  dsimp only [State.acts, State.plainTask]; decide +kernel

-- Memory words: buffer 2 through b0, the local store, the send buffer.

/-- A logical core whose L1 is empty has no dirty byte. -/
theorem clean_of_empty (s : State) (c : Nat) (h : (s.lcore c).l1 = []) : s.cleanL1 c := by
  intro k x hx
  rw [h] at hx
  cases hx
/-- Buffer 2 and the local store of core 0 hold the same eight bytes at 0x100; s1 to s8 are operands. -/
def memory : State :=
  let s := regs [(1, 5), (2, 0x1122_3344_5566_7788), (3, 9), (4, 0x1122_3344_5566_7788), (5, 0), (6, 1), (7, 2), (8, 3)]
  (s.setHomeNat 2 0x100 8 0x1122_3344_5566_7788).modLcore 0 fun l => { l with ls := l.ls.setList 0 0x100 (leBytes 8 0x1122_3344_5566_7788) }
/-- The operand [b0 + 0x100], and [ls + 0x100]. -/
def atDev : MemOp := ⟨.dev, 0, 0, 0, 0x100⟩
def atLs : MemOp := ⟨.ls, 0, 0, 0, 0x100⟩

theorem witness_loads :
    memory.acts g0 ∧ memory.plainTask ∧ memory.onTask ∧ memory.cleanL1 0 ∧
    memory.locate 0 memory.me atDev (memory.me.offset atDev) 8 8 { r := true } = .ok (.dev 2 0x100 false) ∧
    memory.locate 0 memory.me atLs (memory.me.offset atLs) 8 8 { r := true } = .ok (.ls 0x100) ∧
    after (exec (.ld g0 .i16 .plain .none .core 5 atDev) memory) (fun t => sr t 5 == 0x7788) = true ∧
    after (exec (.ld g0 .i64 .plain .acq .sys 5 atDev) memory) (fun t => sr t 5 == 0x1122_3344_5566_7788) = true ∧
    after (exec (.ld g0 .n8 .plain .none .core 5 ⟨.ls, 0, 3, 0, 0xFA⟩) memory) (fun t => sr t 5 == 0x55) = true ∧
    memory.locate 0 memory.me ⟨.dev, 0, 0, 0, 0xF8⟩ 0xF8 16 16 { r := true } = .error ⟨0x04, 0, 0xF8⟩ ∧
    after (exec (.ld2 g0 .none .core 10 ⟨.dev, 0, 0, 0, 0x100⟩) memory) (fun t => sr t 10 == 0x1122_3344_5566_7788 && sr t 11 == 0) = true ∧
    memory.locate 0 memory.me ⟨.ls, 0, 0, 0, 0xE0⟩ 0xE0 32 32 { r := true } = .ok (.ls 0xE0) ∧
    after (exec (.qld g0 .none .core 1 ⟨.ls, 0, 0, 0, 0x100⟩) memory)
      (fun t => (t.strand 0).q.get 0 1 == 0x1122_3344_5566_7788) = true := by
  refine ⟨?_, ?_, ?_, clean_of_empty _ _ (by decide +kernel), ?_⟩ <;> (try dsimp only [State.acts, State.plainTask, State.onTask]) <;> decide +kernel
theorem witness_stores :
    memory.acts g0 ∧ memory.plainTask ∧ memory.onTask ∧ memory.cleanL1 0 ∧ memory.settled .sys ∧ memory.closedPackets 0 = [] ∧
    memory.locate 0 memory.me atDev (memory.me.offset atDev) 8 8 { w := true } = .ok (.dev 2 0x100 false) ∧
    memory.locate 0 memory.me atLs (memory.me.offset atLs) 16 16 { w := true } = .ok (.ls 0x100) ∧
    after (exec (.st g0 .i16 .plain .none .core 3 atDev) memory) (fun t => t.coreByte 0 2 0x100 == 9 && t.coreByte 0 2 0x101 == 0 &&
      t.coreByte 0 2 0x102 == 0x66 && t.homeByte 2 0x100 == 0x88) = true ∧
    after (exec (.st g0 .i16 .plain .rel .sys 3 atDev) memory) (fun t => (t.strand 0).pc == 8) = true ∧
    after (exec (.st2 g0 .none .core 2 atLs) memory)
      (fun t => (t.lcore 0).lsNat 0x100 16 == 0x9_1122_3344_5566_7788) = true ∧
    after (exec (.qst g0 .none .core 1 atLs) memory) (fun t => (t.lcore 0).lsNat 0x100 32 == 0) = true ∧
    (memory.me.offset ⟨.mw, 0, 0, 0, 8⟩).toNat ≤ 0x1FFF ∧ (memory.lcore 0).closed = none ∧ (memory.lcore 0).sendBuf = [] ∧
    after (exec (.st g0 .i64 .plain .none .core 3 ⟨.mw, 0, 0, 0, 8⟩) memory) (fun t => (t.lcore 0).sendBuf == [9]) = true ∧
    (memory.me.offset ⟨.mw, 0, 0, 0, 0x1000⟩).getLsbD 12 = true ∧
    (memory.me.offset ⟨.mw, 0, 0, 0, 0x1000⟩).bits 11 3 < (memory.ctx 0).lcount ∧
    after (exec (.st2 g0 .none .core 2 ⟨.mw, 0, 0, 0, 0x1000⟩) memory)
      (fun t => (t.lcore 0).sendBuf.isEmpty && (t.lcore 0).closed == some { packet 0 0 [0x1122_3344_5566_7788, 9] with closer := some 0 }) = true := by
  refine ⟨?_, ?_, ?_, clean_of_empty _ _ (by decide +kernel), ?_⟩ <;>
    (try dsimp only [State.acts, State.plainTask, State.onTask, State.settled]) <;> decide +kernel
/-- The word at 0x100 of the local store, full and empty; LEFT as at reset, and 0. -/
def emptied : State := memory.modLcore 0 fun l => { l with lsFe := l.lsFe.set true (0x100 / 8) false }
theorem witness_fullEmpty :
    let spent := emptied.modStrand 0 fun t => { t with feBudget := 0x0005_0000_0000 }
    let filled := memory.modStrand 0 fun t => { t with feBudget := 0x0001_0000_0000_0000 }
    memory.acts g0 ∧ memory.plainTask ∧ memory.cleanL1 0 ∧ (∀ a, Place.ls 0x100 ≠ .host a) ∧ (∀ a, Place.ls 0x100 ≠ .rx a) ∧
    memory.settled .pkg ∧ emptied.settled .pkg ∧ spent.settled .pkg ∧
    memory.locate 0 memory.me atLs (memory.me.offset atLs) 8 8 (ldNeed .cn) = .ok (.ls 0x100) ∧
    memory.placeFull 0 (.ls 0x100) = true ∧ emptied.placeFull 0 (.ls 0x100) = false ∧ emptied.me.feLeft ≠ 0 ∧ spent.me.feLeft = 0 ∧
    after (exec (.ld g0 .i64 .cn .none .core 5 atLs) memory)
      (fun t => sr t 5 == 0x1122_3344_5566_7788 && !(t.lcore 0).lsFull 0x100) = true ∧
    after (exec (.ld g0 .i64 .wt .none .core 5 atLs) memory) (fun t => sr t 5 == 0x1122_3344_5566_7788 && (t.lcore 0).lsFull 0x100) = true ∧
    after (exec (.ld g0 .i64 .cn .none .core 5 atLs) emptied)
      (fun t => (t.strand 0).feLeft == 0xFFFF && (t.strand 0).wait != .none && (t.strand 0).pc == 0) = true ∧
    after (exec (.ld g0 .i64 .cn .none .core 5 atLs) spent)
      (fun t => (t.strand 0).trapCause == 0x0A05 && (t.strand 0).trapVal == 0x100) = true ∧
    after (exec (.st g0 .i64 .fl .none .core 3 atLs) emptied) (fun t => (t.lcore 0).lsNat 0x100 8 == 9 && (t.lcore 0).lsFull 0x100) = true ∧
    after (exec (.st g0 .i64 .fl .none .core 3 atLs) filled) (fun t => (t.strand 0).trapCause == 0x0B05) = true ∧
    after (exec (.st g0 .i64 .fu .none .core 3 atLs) memory) (fun t => (t.lcore 0).lsNat 0x100 8 == 9 && (t.lcore 0).lsFull 0x100) = true := by
  refine ⟨?_, ?_, clean_of_empty _ _ (by decide +kernel), nofun, nofun, ?_⟩ <;> (try dsimp only [State.acts, State.plainTask, State.settled]) <;> decide +kernel

-- Atomics.

theorem witness_atomics :
    memory.acts g0 ∧ memory.plainTask ∧ memory.cleanL1 0 ∧ Ty.isInt .n64 = true ∧
    memory.locate 0 memory.me atDev (memory.me.offset atDev) 8 8 rmwNeed = .ok (.dev 2 0x100 false) ∧
    memory.locate 0 memory.me atLs (memory.me.offset atLs) 16 16 rmwNeed = .ok (.ls 0x100) ∧
    after (exec (.amoadd g0 .n64 .none .core 3 atDev) memory)
      (fun t => sr t 3 == 0x1122_3344_5566_7788 && t.homeNat 2 0x100 8 == 0x1122_3344_5566_7791) = true ∧
    after (exec (.amomin g0 .i32 .none .core 0 atLs) memory) (fun t => (t.lcore 0).lsNat 0x100 8 == 0x1122_3344_0000_0000) = true ∧
    after (exec (.cas g0 .i64 .none .core 2 atDev) memory)
      (fun t => sr t 2 == 0x1122_3344_5566_7788 && t.homeNat 2 0x100 8 == 9) = true ∧
    after (exec (.cas2 g0 .none .core 4 atLs) memory) (fun t => sr t 4 == 0x1122_3344_5566_7788 && sr t 5 == 0 &&
      (t.lcore 0).lsNat 0x100 16 == 0x0000_0000_0000_0002_0000_0000_0000_0001) = true ∧
    after (exec (.amofadd g0 .none .core 9 ⟨.ls, 0, 0, 0, 0x200⟩) (memory.modStrand 0 fun t => { t with s := [(9, 0x3FC00000)] }))
      (fun t => sr t 9 == 0 && (t.lcore 0).lsNat 0x200 4 == 0x3FC00000) = true := by
  refine ⟨?_, ?_, clean_of_empty _ _ (by decide +kernel), ?_⟩ <;> (try dsimp only [State.acts, State.plainTask]) <;> decide +kernel
/-- A cell of 64 bytes at 0x200 of buffer 2: 1.5 goes in, 1.5 comes out; a zero and a NaN send nothing. -/
theorem witness_cells :
    let m : MemOp := ⟨.dev, 0, 0, 0, 0x200⟩
    let s := regs [(1, 0x3FC00000), (2, 0x7FC00000)]
    let v := fun (r : Nat) => Num.decode .f32 (low 32 (s.me.s.get 0 r))
    s.acts g0 ∧ s.plainTask ∧ s.cleanL1 0 ∧
    s.locate 0 s.me m (s.me.offset m) 64 64 { w := true, a := true } = .ok (.dev 2 0x200 false) ∧
    s.locate 0 s.me m (s.me.offset m) 64 64 { r := true, a := true } = .ok (.dev 2 0x200 false) ∧
    (match s.locate 0 s.me m (s.me.offset m) 64 64 { w := true, a := true } with
      | .ok _ => true
      | .error x => x.code != 0x02 && x.code != 0x04) = true ∧
    (v 1).isNan = false ∧ (v 1).isInf = false ∧ (v 1).isZero = false ∧ (v 0).isZero = true ∧ (v 2).isNan = true ∧ s.quiet Num.NV ∧
    after (exec (.xadd32 g0 .f32 .none .core 1 m) s) (fun t => t.homeNat 2 0x200 64 == 3 * 2 ^ 159 &&
      after (exec (.xrd32 g0 .f32 .none .none .core 5 m) t) fun u => sr u 5 == 0x3FC00000) = true ∧
    after (exec (.xadd32 g0 .f32 .none .core 0 m) s) (fun t => t.homeNat 2 0x200 64 == 0 && (t.strand 0).pc == 8) = true ∧
    after (exec (.xadd32 g0 .f32 .none .core 2 m) s) (fun t => t.homeNat 2 0x200 64 == 0 && (t.strand 0).fpctl != 0) = true := by
  refine ⟨?_, ?_, clean_of_empty _ _ (by decide +kernel), ?_⟩ <;> (try dsimp only [State.acts, State.plainTask, State.quiet]) <;> decide +kernel
/-- A forwarded add to the target word 0x180 of core 0, and its fill. -/
theorem witness_forwarded :
    let s := memory.modStrand 0 fun t => { t with s := [(2, 9), (3, 0x180)] }
    let f : Fill := ⟨0, 0, 0x180, 7, 0⟩
    s.acts g0 ∧ s.plainTask ∧ Ty.isInt .n64 = true ∧ s.cleanL1 0 ∧
    s.locateFwd s.me atDev 8 (s.me.rsN 3) = .ok (.dev 2 0x100 false) ∧
    after (exec (.famoadd g0 .n64 .none .core 2 atDev) s) (fun t => t.homeNat 2 0x100 8 == 0x1122_3344_5566_7791 &&
      t.fills == [⟨0, 0, 0x180, 0x1122_3344_5566_7788, 0⟩] && sr t 2 == 9) = true ∧
    after (exec (.fcas g0 .i64 .none .core 4 atDev)
        (memory.modStrand 0 fun t => { t with s := [(4, 0x1122_3344_5566_7788), (5, 1), (6, 0x188)] }))
      (fun t => t.homeNat 2 0x100 8 == 1 && t.fills == [⟨0, 0, 0x188, 0x1122_3344_5566_7788, 0⟩]) = true ∧
    { s with fills := [f] }.fills[0]? = some f ∧
    after (exec (.forwardedAtomicFill 0) { s with fills := [f] })
      (fun t => t.fills.isEmpty && (t.lcore 0).lsNat 0x180 8 == 7 && (t.lcore 0).lsFull 0x180) = true := by
  refine ⟨?_, ?_, ?_, clean_of_empty _ _ (by decide +kernel), ?_⟩ <;> (try dsimp only [State.acts, State.plainTask]) <;> decide +kernel

-- Vector words: elements 0 to 3 are active through p1; v1 = 5, 3, 1, 7 and v2 = 1, 1, 2, -1.

/-- The guard p1. -/
def g1 : Guard := ⟨1, false⟩
/-- The vector state; q1 is one row of two i32 elements. -/
def vectors : State :=
  memory.modStrand 0 fun t =>
    { t with p := [(1, 0xF)], q := [(1, 0x0C01_0003)], s := [(1, 5), (2, 0x0002_0001), (3, 1), (4, 0x300)], a := [(1, 10)],
             v := [(1024, 5), (1025, 3), (1026, 1), (1027, 7), (2048, 1), (2049, 1), (2050, 2), (2051, 0xFFFF_FFFF)] }
/-- Element e of vector register r of strand 0. -/
def el (t : State) (r e : Nat) : BitVec 32 := (t.strand 0).v.get 0 (r * 1024 + e)
/-- Elements 0 to 3 of vector register r. -/
def four (t : State) (r : Nat) : List (BitVec 32) := (List.range 4).map (el t r)
/-- The placed elements of q1 at 0x100 of the local store. -/
def pair (a b : Nat) : List Placed := [⟨0, .ls a, 4, 0, none⟩, ⟨1, .ls b, 4, 0, none⟩]

theorem witness_vectorLoads :
    let f := StreamF.of (vectors.me.q.get 0 1)
    let index := fun (e : Nat) => ((vectors.me.rv 2 e).zeroExtend 64 <<< 2) + (0x100 : BitVec 15).signExtend 64
    vectors.actsV g1 ∧ vectors.plainTask ∧ f.efmt = some (.ty .i32) ∧ f.rfmt = some .i32 ∧ f.skind = 0 ∧
    f.vecOk false false 5 = true ∧ f.vecOk false true 5 = true ∧
    vectors.placeElems vectors.me atLs { r := true } (velems f (vectors.me.mask g1) (vectors.me.offset atLs) none) = .ok (pair 0x100 0x104) ∧
    vectors.placeElems vectors.me ⟨.ls, 0, 2, 2, 0x100⟩ { r := true }
      (velems f (vectors.me.mask g1) (vectors.me.offset ⟨.ls, 0, 2, 2, 0x100⟩) (some index)) = .ok (pair 0x104 0x104) ∧
    after (exec (.vld g1 .none .core 1 5 atLs) vectors) (fun t => four t 5 == [0x5566_7788, 0x1122_3344, 0, 0]) = true ∧
    after (exec (.vgath g1 1 5 ⟨.ls, 0, 2, 2, 0x100⟩) vectors) (fun t => four t 5 == [0x1122_3344, 0x1122_3344, 0, 0]) = true := by
  dsimp only [State.actsV, State.plainTask]; decide +kernel
theorem witness_vectorStores :
    let f := StreamF.of (vectors.me.q.get 0 1)
    let index := fun (e : Nat) => ((vectors.me.rv 1 e).zeroExtend 64 <<< 2) + (0x100 : BitVec 15).signExtend 64
    vectors.actsV g1 ∧ vectors.plainTask ∧ f.vecOk true false 1 = true ∧ f.vecOk true true 1 = true ∧
    vectors.placeElems vectors.me atLs { w := true } (velems f (vectors.me.mask g1) (vectors.me.offset atLs) none) = .ok (pair 0x100 0x104) ∧
    vectors.placeElems vectors.me ⟨.ls, 0, 1, 2, 0x100⟩ { w := true }
      (velems f (vectors.me.mask g1) (vectors.me.offset ⟨.ls, 0, 1, 2, 0x100⟩) (some index)) = .ok (pair 0x114 0x10C) ∧
    [0x100, 0x104].Pairwise (fun x y => x + 4 ≤ y ∨ y + 4 ≤ x) ∧
    after (exec (.vst g1 .none .core 1 1 atLs) vectors) (fun t => (t.lcore 0).lsNat 0x100 8 == 0x0000_0003_0000_0005) = true ∧
    after (exec (.vscat g1 1 1 ⟨.ls, 0, 1, 2, 0x100⟩) vectors)
      (fun t => (t.lcore 0).lsNat 0x114 4 == 5 && (t.lcore 0).lsNat 0x10C 4 == 3) = true := by
  dsimp only [State.actsV, State.plainTask]; decide +kernel
theorem witness_vectorArithmetic :
    vectors.actsV g1 ∧ vectors.quiet (vectors.vecFlags g1 fun _ => ⟨0, 0⟩) ∧
    after (exec (.vadd g1 .i32 .none false 3 1 (.v 2)) vectors) (fun t => four t 3 == [6, 4, 3, 6] && el t 3 4 == 0) = true ∧
    after (exec (.vsub g1 .n8 .none true 3 2 (.s 1)) vectors) (fun t => four t 3 == [0, 0, 0, 250]) = true ∧
    after (exec (.vmin g1 .i32 3 1 (.v 2)) vectors) (fun t => four t 3 == [1, 1, 1, 0xFFFF_FFFF]) = true ∧
    after (exec (.vshr g1 .i32 3 2 (.s 3)) vectors) (fun t => four t 3 == [0, 0, 1, 0xFFFF_FFFF]) = true ∧
    after (exec (.vneg g1 .i16 3 1) vectors) (fun t => four t 3 == [0xFFFB, 0xFFFD, 0xFFFF, 0xFFF9]) = true ∧
    after (exec (.vfma g1 .f32 .rne 1 3 4 4 4) (vectors.modStrand 0 fun t => { t with v := [(4096, 0x3F800000), (4097, 0x40000000)] }))
      (fun t => four t 3 == [0, 0xC0000000, 0, 0]) = true := by
  dsimp only [State.actsV, State.quiet]; decide +kernel
theorem witness_vectorMoves :
    vectors.actsV g1 ∧ vectors.quiet (vectors.vecFlags g1 fun _ => ⟨0, 0⟩) ∧
    after (exec (.vcmp g1 .gt .i32 2 1 (.s 3)) vectors) (fun t => (t.strand 0).p.get 0 2 == 0xB) = true ∧
    after (exec (.vsel g1 .i32 3 2 1 2) vectors) (fun t => four t 3 == [1, 1, 2, 0xFFFF_FFFF]) = true ∧
    after (exec (.vcvt g1 .f32 .i32 .none 3 2) vectors) (fun t => four t 3 == [0x3F800000, 0x3F800000, 0x40000000, 0xBF800000]) = true ∧
    after (exec (.vdup g1 .i8 3 4) vectors) (fun t => four t 3 == [0, 0, 0, 0]) = true ∧
    after (exec (.vins g1 .i32 3 1 3) vectors) (fun t => four t 3 == [0, 5, 0, 0]) = true ∧
    after (exec (.vext g1 .i32 7 1 3) vectors) (fun t => sr t 7 == 3) = true ∧
    after (exec (.vrcp g1 .f32 3 4) (vectors.modStrand 0 fun t => { t with v := [(4096, 0x40000000)], p := [(1, 1)] }))
      (fun t => el t 3 0 == 0x3F000000) = true ∧
    after (exec (.vmac g1 .i32 .i64 .none false 0 1 2) vectors)
      (fun t => (t.strand 0).a.get 0 0 == 5 && (t.strand 0).a.get 0 1 == 13 && (t.strand 0).a.get 0 3 == BitVec.ofInt 64 (-7)) = true ∧
    after (exec (.vnarr g1 .i8 .i64 .none 3 0) (vectors.modStrand 0 fun t => { t with a := [(0, 300)] }))
      (fun t => el t 3 0 == 127) = true := by
  dsimp only [State.actsV, State.quiet]; decide +kernel
theorem witness_axis :
    vectors.actsV g1 ∧ vectors.quiet (vectors.vecFlags g1 fun _ => ⟨0, 0⟩) ∧
    after (exec (.vrotr g1 3 1 3) vectors) (fun t => four t 3 == [0, 5, 3, 1]) = true ∧
    after (exec (.vrotc g1 3 1 0) vectors) (fun t => four t 3 == [5, 3, 1, 7]) = true ∧
    after (exec (.vbcr g1 3 1 3) vectors) (fun t => four t 3 == [3, 3, 3, 3]) = true ∧
    after (exec (.vtrnr g1 3 1) vectors) (fun t => four t 3 == [5, 0, 0, 0]) = true := by
  dsimp only [State.actsV, State.quiet]; decide +kernel
/-- The worked example of R256, and a reduction of four elements of a row. -/
theorem witness_reductions :
    vectors.actsV g1 ∧ vectors.quiet (vectors.vecFlags g1 fun _ => ⟨0, 0⟩) ∧
    vcxOperand (vectors.me.rs 2) = some (1, 2) ∧ vcxOperand (vectors.me.rs 1) = none ∧
    after (exec (.vcx g1 false .i32 3 1 2) vectors) (fun t => four t 3 == [3, 5, 7, 1]) = true ∧
    after (exec (.vcx g1 false .i32 3 1 1) vectors) (fun t => (t.strand 0).trapCause == 0x701) = true ∧
    after (exec (.vredr g1 .sum .i32 .none 3 1) vectors) (fun t => four t 3 == [16, 16, 16, 16]) = true ∧
    after (exec (.vredc g1 .max .i32 .none 3 1) vectors) (fun t => four t 3 == [5, 3, 1, 7]) = true := by
  dsimp only [State.actsV, State.quiet]; decide +kernel

-- Queues, templates, slots, waiting strands, packets.

/-- Core 0 stands at a die. -/
def onDie (s : State) (d : Nat) : State := s.modLcore 0 fun l => { l with die := d }
/-- A push is accepted: one entry of this code and value, with sequence number 1. -/
def pushed (o : Out) (q code : Nat) (entry : Word) : Bool :=
  after o fun t => (match (t.queue 0 q).cmds with
    | [x] => x.code == code && x.entry == entry && x.seq == 1
    | _ => false) && (t.queue 0 q).nextSeq == 2 && (t.strand 0).pc == 8 && (t.strand 0).wait == .none
theorem witness_pushes :
    let i : Instr := .mmul g0 1 0x0001
    let w := memory.modStrand 0 fun t => { t with wait := .push i }
    let full := memory.modQueue 0 2 fun x => { x with cmds := List.replicate 32 { code := 0xD2, seq := 1 } }
    let behind := memory.modStrand 1 fun t => { t with node := some 0, wait := .push i }
    memory.plainTask ∧ memory.acts g0 ∧ memory.onTask ∧ memory.queuePresent 0 2 = true ∧ (memory.queue 0 2).fault = false ∧
    (memory.queue 0 2).cmds.length < 32 ∧ memory.portFree 0 2 true = true ∧ w.portFree 0 2 true = true ∧ Push.illegal ⟨2, 0xD2, 1, 0x0000_0005_0000_0001⟩ memory.cur = false ∧
    (onDie memory 19).queuePresent 0 4 = true ∧ (onDie memory 21).queuePresent 0 5 = true ∧
    pushed (exec i memory) 2 0xD2 0x0000_0005_0000_0001 = true ∧
    pushed (exec (.qpush g0 0 2 0xF6) memory) 0 0xF6 0x1122_3344_5566_7788 = true ∧
    pushed (exec (.mld g0 0 0) memory) 1 0xD0 0 = true ∧ pushed (exec (.mfill g0 1 0) memory) 3 0xD9 0x0000_0005_0000_0000 = true ∧
    pushed (exec (.gsprobe g0 1 2) (onDie memory 20)) 4 0xE0 0x0000_0005_0000_0002 = true ∧
    pushed (exec (.sogather g0 1 2) (onDie memory 22)) 5 0xED 0x0000_0005_0000_0002 = true ∧
    w.cur = mkStrand 0 0 ∧ w.inWork w.cur = true ∧ w.me.wait = .push i ∧
    pushed (exec (.pushAcceptance 0 0) w) 2 0xD2 0x0000_0005_0000_0001 = true ∧
    full.portFree 0 2 true = true ∧ after (exec i full) (fun t => (t.strand 0).wait == .push i && (t.queue 0 2).cmds.length == 32) = true ∧
    behind.portFree 0 2 true = false ∧ after (exec i behind) (fun t => (t.strand 0).wait == .push i) = true ∧
    after (exec (.sogather g0 1 2) memory) (fun t => (t.strand 0).trapCause == 0x108) = true := by
  dsimp only [State.acts, State.plainTask, State.onTask]; decide +kernel
/-- Queue 0 holds a response entry; or a fault. -/
def responding (r : List Word) (fault : Bool) : State := memory.modQueue 0 0 fun x => { x with resp := r, fault := fault, doneSeq := 3 }
theorem witness_pops :
    let s := responding [7, 8] false
    let w := s.modStrand 0 fun t => { t with wait := .pop (.qpop g0 5 0) }
    let p := s.modStrand 0 fun t => { t with wait := .pop (.qpeek g0 5 0) }
    let f := (responding [] true).modStrand 0 fun t => { t with status := 0x800 }
    let b := s.modStrand 2 fun t => { t with node := some 0, wait := .pop (.qpop g0 5 0) }
    s.acts g0 ∧ s.queuePresent 0 0 = true ∧ (s.queue 0 0).fault = false ∧ (s.queue 0 0).resp = [7, 8] ∧
    s.portFree 0 0 false = true ∧ w.portFree 0 0 false = true ∧ b.portFree 0 0 false = false ∧
    after (exec (.qpop g0 5 0) b) (fun t => (t.strand 0).wait == .pop (.qpop g0 5 0) && (t.queue 0 0).resp == [7, 8]) = true ∧
    after (exec (.qpop g0 5 0) s) (fun t => sr t 5 == 7 && (t.queue 0 0).resp == [8]) = true ∧
    after (exec (.qpeek g0 5 0) s) (fun t => sr t 5 == 7 && (t.queue 0 0).resp == [7, 8]) = true ∧
    w.cur = mkStrand 0 0 ∧ w.inWork w.cur = true ∧
    after (exec (.popDelivery 0 0) w) (fun t => sr t 5 == 7 && (t.queue 0 0).resp == [8] && (t.strand 0).pc == 8) = true ∧
    after (exec (.popDelivery 0 0) p) (fun t => sr t 5 == 7 && (t.queue 0 0).resp == [7, 8]) = true ∧
    after (exec (.qpop g0 5 0) memory) (fun t => (t.strand 0).wait == .pop (.qpop g0 5 0) && (t.strand 0).pc == 0) = true ∧
    (responding [] true).acts g0 ∧ after (exec (.qpop g0 5 0) (responding [] true)) (fun t => (t.strand 0).trapCause == 0x208) = true ∧
    after (exec (.qstat g0 5 0) s) (fun t => sr t 5 == 0x0000_0003_0002_0000) = true ∧
    after (exec (.qstat g0 5 5) s) (fun t => sr t 5 == 4) = true ∧
    f.acts g0 ∧ f.me.super = true ∧ after (exec (.qclr g0 0) f) (fun t => !(t.queue 0 0).fault && (t.strand 0).pc == 8) = true ∧
    s.me.super = false ∧ after (exec (.qclr g0 0) s) (fun t => (t.strand 0).trapCause == 0x30A) = true := by
  dsimp only [State.acts]; decide +kernel
theorem witness_templates :
    let held := memory.modLcore 0 fun l => { l with mx := { l.mx with slots := [(0, { st := .full })] } }
    memory.acts g0 ∧ memory.queuePresent 0 1 = true ∧ held.canClaim 0 4 = true ∧
    (((held.lcore 0).mx.slot 0).st ≠ .free) ∧ (∀ i, i < 4 → ((held.lcore 0).mx.slot (1 + i)).st = .free) ∧
    after (exec (.mtset g0 5 1 3) memory)
      (fun t => (t.lcore 0).templates.get 0 5 == 0x5_0000_0000_0000_0009 &&
        after (exec (.mtget g0 9 5 1) t) fun u => sr u 9 == 5) = true ∧
    after (exec (.mclaim g0 5 1 4) held)
      (fun t => sr t 5 == 1 && (t.strand 0).rpBit 1 0 && ((t.lcore 0).mx.slot 4).st == .claimed && ((t.lcore 0).mx.slot 5).st == .free) = true ∧
    memory.canClaim 0 128 = false ∧ after (exec (.mclaim g0 5 1 128) memory) (fun t => sr t 5 == 0 && !(t.strand 0).rpBit 1 0) = true ∧
    (onDie memory 19).queuePresent 0 1 = false ∧
    after (exec (.mclaim g0 5 1 4) (onDie memory 19)) (fun t => (t.strand 0).trapCause == 0x108) = true := by
  dsimp only [State.acts]; decide +kernel
/-- A waiting ld.wt on a full word, a waiting st.fl on an empty one, and the notice of a word of buffer 2. -/
theorem witness_waiters :
    let l := memory.modStrand 0 fun t => { t with wait := .fe (.ld g0 .i64 .wt .none .core 5 atLs) 0x100 1 false false }
    let w := emptied.modStrand 0 fun t => { t with wait := .fe (.st g0 .i64 .fl .none .core 3 atLs) 0x100 1 false false }
    let n := { memory with notices := [⟨2, 0x20, true, 0⟩] }
    let late := { memory with notices := [⟨2, 0x40, true, 3⟩, ⟨2, 0x20, true, 0⟩, ⟨2, 0x20, false, 0⟩] }
    let b := memory.modStrand 0 fun t => { t with wait := .bar 4 64 false }
    l.cur = mkStrand 0 0 ∧ l.inWork l.cur = true ∧ l.plainTask ∧ atLs.sp ≠ .mw ∧
    l.locate l.cur l.me atLs (l.me.offset atLs) 8 8 (ldNeed .wt) = .ok (.ls 0x100) ∧ l.placeFull 0 (.ls 0x100) = true ∧
    after (exec (.feRetryAttempt 0 0) l) (fun t => sr t 5 == 0x1122_3344_5566_7788 && (t.strand 0).wait == .none && (t.strand 0).pc == 8) = true ∧
    w.locate w.cur w.me atLs (w.me.offset atLs) 8 8 (stNeed .fl) = .ok (.ls 0x100) ∧ w.placeFull 0 (.ls 0x100) = false ∧
    after (exec (.feRetryAttempt 0 0) w) (fun t => (t.lcore 0).lsNat 0x100 8 == 9 && (t.lcore 0).lsFull 0x100) = true ∧
    n.notices[0]? = some ⟨2, 0x20, true, 0⟩ ∧ (∀ y ∈ n.notices.take 0, y.pier ≠ 0) ∧
    after (exec (.wakeNotice 0) n) (fun t => t.notices.isEmpty) = true ∧
    after (exec (.wakeNotice 1) late) (fun t => t.notices.length == 2) = true ∧
    after (exec (.wakeNotice 2) late) (fun t => t.notices.length == 3) = true ∧
    l.settled .pkg ∧ w.settled .pkg ∧ b.inWork b.cur = true ∧
    after (exec (.feRetryAttempt 0 0) b) (fun t => (t.strand 0).wait == .bar 4 65 true) = true := by
  dsimp only [State.plainTask, State.settled]; decide +kernel
/-- A strand parked on word 0x20 of buffer 2 (its record names the word and the form) wakes. -/
theorem witness_wake :
    let off : MemOp := ⟨.dev, 0, 0, 0, 0x100⟩
    let empty := memory.setFeAt 2 0x100 false
    let parked := (List.range 70).foldl (fun (o : Out) _ => match o with
      | .next t => exec (.feRetryAttempt 0 0) t
      | o => o) (exec (.ld g0 .i64 .wt .none .core 5 off) empty)
    after parked (fun t => (t.ctx 0).parked == [0] && (match (t.strand 0).wait with
        | .fe _ _ _ p _ => p
        | _ => false) &&
      after (exec (.wakeNotice 0) { t with notices := [⟨2, 0x20, true, 0⟩] }) fun u =>
        u.notices.isEmpty && (u.ctx 0).parked == [] && (match (u.strand 0).wait with
          | .fe _ _ _ p _ => !p
          | _ => false)) = true := by decide +kernel
/-- Two logical cores; core 0 has closed a packet for core 1. -/
def sending : State :=
  let s := (memory.modCtx 0 fun c => { c with lcount := 2 }).setLcore 1 { die := 3, pos := 1, resident := true, handler := 0x41 }
  s.modLcore 0 fun l => { l with closed := some (packet 0 1 [5, 6]) }
theorem witness_packets :
    let full := sending.modLcore 1 fun l => { l with window := [packet 0 1 (List.replicate 511 0)] }
    let h := sending.modLcore 1 fun l => { l with window := [{ packet 0 1 [5, 6] with rel := true }], l1 := [(64, some ⟨7, false⟩)] }
    (sending.ctx 0).st = .running ∧ sending.unsent 0 = [packet 0 1 [5, 6]] ∧ sending.inTurn 0 (packet 0 1 [5, 6]) = true ∧ sending.alive = true ∧
    (((sending.lcore 1).window.map fun q => q.words.length).sum + 2 ≤ 512) ∧
    after (exec (.packetDeparture 0) sending) (fun t => (t.lcore 0).closed == none && (t.lcore 1).window == [packet 0 1 [5, 6]]) = true ∧
    512 < ((full.lcore 1).window.map fun q => q.words.length).sum + 2 ∧
    after (exec (.packetDeparture 0) full) (fun t => (t.lcore 0).closed.isSome) = true ∧
    h.coreRuns 1 = true ∧ (h.lcore 1).handler.getLsbD 0 = true ∧ (h.strand (mkStrand 1 4)).active = false ∧
    (h.strand (mkStrand 1 4)).stopped = false ∧
    after (exec (.handlerStart 1) h) (fun t => (t.strand 9).active && (t.strand 9).pc == 0x40 && (t.lcore 1).msgInfo == 2 && (t.lcore 1).l1.isEmpty) = true := by
  decide +kernel

-- Engine commands: queue q of core 0 holds one command; words of its local store.

def store (s : State) (ws : List (Nat × Nat)) : State :=
  s.modLcore 0 fun l => { l with ls := ws.foldl (fun t (w : Nat × Nat) => t.setList 0 w.1 (leBytes 8 w.2)) l.ls }
def armed (q : Nat) (cmd : Cmd) (s : State) : State := s.modQueue 0 q fun x => { x with cmds := [cmd], nextSeq := cmd.seq + 1 }
/-- The command has ended with this DONESEQ and response side. -/
def ends (o : Out) (q seq : Nat) (resp : List Word) (p : State → Bool) : Bool :=
  after o fun t => (t.queue 0 q).doneSeq == BitVec.ofNat 64 seq && (t.queue 0 q).cmds.isEmpty && (t.queue 0 q).started == none &&
    !(t.queue 0 q).fault && (t.queue 0 q).resp == resp && p t
/-- A copy command on the words 0x100 and 0x200 of the local store; its descriptor stands at 0x400; TAG 9. -/
def copyCmd (code mode : Nat) : Cmd :=
  { code := code, seq := 5, entry := BitVec.ofNat 64 (9 * 2 ^ 32 + 2 ^ 26 + 2 ^ 20 + 0x400 + 0x20 + mode), caps := [0, 0] }
def copying (code mode src len rows : Nat) : State :=
  armed 0 (copyCmd code mode) (store memory [(0x400, src), (0x408, 0x200), (0x410, len), (0x428, rows)])
/-- The hypotheses on every copy command of `CopyCommandsComplete`. -/
theorem witness_copyReady :
    ((copying 0xF0 0 0x100 8 0)).head 0 0 (copyCmd 0xF0 0) [] ∧
    (let s := copying 0xF0 0 0x100 8 0
     let d := s.descOf 0 (copyCmd 0xF0 0)
     (s.lcore 0).lsPoisonIn (copyCmd 0xF0 0).desc 64 = none ∧ copyMalformed 0xF0 (copyCmd 0xF0 0).entry d = false ∧
     d = [0x100, 0x200, 8, 0, 0, 0, 0, 0] ∧ (copyCmd 0xF0 0).entry.bits 21 20 = 1 ∧ (copyCmd 0xF0 0).entry.bits 27 26 = 1 ∧
     (s.lcore 0).lsPoisonIn 0x100 8 = none ∧ s.openLs 0 0x200 8) ∧
    (let s := copying 0xF3 0 0x100 8 1
     s.head 0 0 (copyCmd 0xF3 0) [] ∧ copyMalformed 0xF3 (copyCmd 0xF3 0).entry (s.descOf 0 (copyCmd 0xF3 0)) = false) ∧
    (let s := copying 0xF1 0 7 8 0
     s.head 0 0 (copyCmd 0xF1 0) [] ∧ copyMalformed 0xF1 (copyCmd 0xF1 0).entry (s.descOf 0 (copyCmd 0xF1 0)) = false) ∧
    (let s := copying 0xF6 2 7 8 0
     s.head 0 0 (copyCmd 0xF6 2) [] ∧ copyMalformed 0xF6 (copyCmd 0xF6 2).entry (s.descOf 0 (copyCmd 0xF6 2)) = false) := by
  refine ⟨?_, ?_, ?_, ?_, ?_⟩ <;> dsimp only [State.head, State.openLs] <;> decide +kernel
theorem witness_copy :
    ends (exec (.cpcopyCommand 0) (copying 0xF0 0 0x100 8 0)) 0 5 [(copyCmd 0xF0 0).response 0 0]
      (fun t => (t.lcore 0).lsNat 0x200 8 == 0x1122_3344_5566_7788) = true ∧
    ends (exec (.cpstrideCommand 0) (copying 0xF3 0 0x100 8 1)) 0 5 [0x0000_0009_0000_0000]
      (fun t => (t.lcore 0).lsNat 0x200 8 == 0x1122_3344_5566_7788) = true ∧
    ends (exec (.cpsetCommand 0) (copying 0xF1 0 7 8 0)) 0 5 [0x0000_0009_0000_0000] (fun t => (t.lcore 0).lsNat 0x200 8 == 7) = true ∧
    ends (exec (.cpsigCommand 0) (copying 0xF6 0 7 8 0)) 0 5 [0x0000_0009_0000_0000] (fun t => (t.lcore 0).lsNat 0x200 8 == 7) = true ∧
    ends (exec (.cpsigCommand 0) (copying 0xF6 1 7 8 0)) 0 5 [0x0000_0009_0000_0000] (fun t => (t.lcore 0).lsFull 0x200) = true ∧
    ((copying 0xF6 2 7 8 0).lcore 0).lsFull 0x200 = true ∧
    after (exec (.cpsigCommand 0) (copying 0xF6 2 7 8 0)) (fun t => (t.queue 0 0).stall && (t.queue 0 0).started.isSome) = true ∧
    ends (exec (.cpfeCommand 0) (copying 0xF2 0 0 8 0)) 0 5 [0x0000_0009_0000_0000] (fun t => !(t.lcore 0).lsFull 0x200) = true ∧
    ends (exec (.cpfeCommand 0) (copying 0xF2 1 0 8 0)) 0 5 [0x0000_0009_0000_0000] (fun t => (t.lcore 0).lsFull 0x200) = true ∧
    ends (exec (.cpprfCommand 0) (copying 0xF4 0 0x100 8 0)) 0 5 [0x0000_0009_0000_0000] (fun t => t.mem == memory.mem) = true := by
  decide +kernel
/-- A write-back of eight bytes of buffer 2 at 0x100, of which two are dirty in the L1. -/
def wbCmd : Cmd := { code := 0xF5, seq := 5, entry := BitVec.ofNat 64 (0x400 + 0x20), caps := [Cap.make 2 0 0xF0 65536 0, 0] }
def dirtied : State :=
  match exec (.st g0 .i16 .plain .none .core 3 atDev) memory with
  | .next t => armed 0 wbCmd (store t [(0x400, 0x100), (0x410, 8)])
  | _ => memory
theorem witness_copyWriteBack :
    dirtied.head 0 0 wbCmd [] ∧ copyMalformed 0xF5 wbCmd.entry (dirtied.descOf 0 wbCmd) = false ∧
    dirtied.reach 0 (.dev (wbCmd.capN 0)) {} 0x100 8 = none ∧ ((wbCmd.capN 0).base + 0x100) % 64 + 8 ≤ 64 ∧
    dirtied.homeNat 2 0x100 8 = 0x1122_3344_5566_7788 ∧
    ends (exec (.cpwbCommand 0) dirtied) 0 5 [0] (fun t => t.homeNat 2 0x100 8 == 0x1122_3344_5566_0009) = true := by
  dsimp only [State.head]; decide +kernel

-- The matrix engine: templates, streams and slots of core 0 on die 3, whose array is 12.

/-- A template from fields at bit positions. -/
def tmplOf (l : List (Nat × Nat)) : Template := BitVec.ofNat 128 (l.foldl (fun a (p : Nat × Nat) => a + p.2 * 2 ^ p.1) 0)
/-- Rows of i8 elements 64 bytes apart. -/
def rowsI8 : Stream := BitVec.ofNat 256 (1 + 64 * 2 ^ 64)
/-- A load of 16 rows from 0x1000 of the local store into slot 2. -/
def loadCmd (code : Nat) : Cmd :=
  { code := code, seq := 5, caps := [0], streams := [rowsI8], tmpl := tmplOf [(0, 0x200), (32, 2), (48, 16), (76, 1)] }
def claimed : State :=
  (store memory [(0x1000, 0x0807_0605_0403_0201), (0x1040, 0x1817_1615_1413_1211)]).modLcore 0 fun l =>
    { l with mx := { l.mx with slots := [(2, { st := .claimed })] } }
theorem witness_matrixLoadReady :
    let s := armed 1 (loadCmd 0xD0) claimed
    let x := loadCmd 0xD0
    let at_ := fun (i : Nat) => (off64 ((x.f 31 0 * 8 : Nat) + (i : Int) * x.stream.rstride)).toNat
    s.head 0 1 x [] ∧ (armed 1 (loadCmd 0xD1) claimed).head 0 1 (loadCmd 0xD1) [] ∧ x.loadBad = false ∧ (loadCmd 0xD1).loadBad = false ∧
    x.b 76 = true ∧ x.stream.skind = 0 ∧ x.run.need = 1 ∧ ((s.lcore 0).mx.slot 2).st = .claimed ∧ x.run.rows = 16 ∧ x.run.rowBytes = 64 ∧
    (∀ i, i < 64 → at_ i + 64 ≤ lsSize) ∧ (∀ i, i < 64 → (s.lcore 0).lsPoisonIn (at_ i) 64 = none) := by
  dsimp only [State.head]; decide +kernel
theorem witness_matrixLoads :
    ends (exec (.mldCommand 0) (armed 1 (loadCmd 0xD0) claimed)) 1 5 []
      (fun t => ((t.lcore 0).mx.slot 2).st == .full && (t.lcore 0).mx.runByte 2 3 == 4 && (t.lcore 0).mx.runByte 2 65 == 0x12) = true ∧
    ends (exec (.mldtCommand 0) (armed 1 (loadCmd 0xD1) claimed)) 1 5 []
      (fun t => (t.lcore 0).mx.runByte 2 (64 * 3) == 4 && (t.lcore 0).mx.runByte 2 (64 * 3 + 1) == 0x14) = true := by
  decide +kernel
/-- Slots 0 and 1 hold dense runs of 128 and 16 rows, 2 a compressed run, 3 its metadata; the lease is held. -/
def loaded : State :=
  let s := memory.modLcore 0 fun l => { l with mx := { l.mx with
    region := [(0, 9)]
    slots := [(0, { st := .full, info := [0, 1, 0, 0, 128] }), (1, { st := .full, info := [0, 1, 0, 0, 16] }),
              (2, { st := .full, info := [1, 1, 0, 0, 128] }), (3, { st := .full, info := [2, 5, 0, 0, 128] })] } }
  s.setLease 12 { holder := some 0 }
/-- A compute command on slots A and 1, metadata in 3, with N = 16; mrel of one slot. -/
def computeCmd (code a : Nat) : Cmd :=
  { code := code, seq := 5, tmpl := match code with
      | 0xD6 => tmplOf [(0, 1), (32, a)]
      | 0xD7 => tmplOf [(0, 16)]
      | 0xD4 | 0xD5 => tmplOf [(0, 16), (32, a), (40, 1), (48, 3)]
      | _ => tmplOf [(0, 16), (32, a), (40, 1)] }
theorem witness_compute :
    (loaded.lease (loaded.arrayOf 0)).holder = some 0 ∧ (armed 2 (computeCmd 0xD2 0) loaded).head 0 2 (computeCmd 0xD2 0) [] ∧
    (∀ x ∈ [(0xD2, 0), (0xD3, 0), (0xD4, 2), (0xD5, 2), (0xD6, 3), (0xD7, 0)], (computeCmd x.1 x.2).headSt (loaded.lcore 0).mx = .ready) ∧
    ends (exec (.mmulCommand 0) (armed 2 (computeCmd 0xD2 0) loaded)) 2 5 [] (fun t => t.mem == loaded.mem) = true ∧
    ends (exec (.mmulZCommand 0) (armed 2 (computeCmd 0xD3 0) loaded)) 2 5 [] (fun _ => true) = true ∧
    ends (exec (.mmspCommand 0) (armed 2 (computeCmd 0xD4 2) loaded)) 2 5 [] (fun _ => true) = true ∧
    ends (exec (.mmspZCommand 0) (armed 2 (computeCmd 0xD5 2) loaded)) 2 5 [] (fun _ => true) = true ∧
    ends (exec (.mrelCommand 0) (armed 2 (computeCmd 0xD6 3) loaded)) 2 5 [] (fun t => ((t.lcore 0).mx.slot 3).st == .free) = true ∧
    ends (exec (.mzeroCommand 0) (armed 2 (computeCmd 0xD7 0) loaded)) 2 5 [] (fun _ => true) = true := by
  dsimp only [State.head]; decide +kernel
theorem witness_lease :
    let s := armed 2 (computeCmd 0xD7 0) (memory.setLease 12 {})
    (s.lease (3 * 4 + 0)).holder = none ∧ (s.lcKeys.filter fun y => s.arrayOf y == 3 * 4 + 0 && s.headReady y) = [0] ∧
    after (exec (.leaseGrant 3 0) s) (fun t => (t.lease 12).holder == some 0) = true := by decide +kernel
/-- mst of 16 FP32 columns to 0x1000, rows 64 bytes apart; mfill of the word 0x1000. -/
def mstCmd : Cmd :=
  { code := 0xD8, seq := 5, caps := [0], streams := [BitVec.ofNat 256 (10 + 64 * 2 ^ 64)], tmpl := tmplOf [(0, 0x200), (48, 16), (76, 1)] }
def mfillCmd : Cmd := { code := 0xD9, seq := 5, caps := [0], tmpl := tmplOf [(0, 0x200), (76, 1)] }
def drained : State :=
  memory.modLcore 0 fun l => { l with mx := { l.mx with region := [(0, 0x78), (1, 0x56), (2048, 0x34)], groups := [(0, true)], rflags := 1 } }
theorem witness_mstReady :
    let s := armed 3 mstCmd drained
    let at_ := fun (i : Nat) => (off64 ((mstCmd.f 31 0 * 8 : Nat) + (i : Int) * mstCmd.stream.rstride)).toNat
    s.head 0 3 mstCmd [] ∧ mstCmd.storeBad = false ∧ mstCmd.hitsJournal s 0 = false ∧ mstCmd.b 76 = true ∧ mstCmd.stream.skind = 0 ∧
    mstCmd.b 78 = false ∧ mstCmd.b 79 = false ∧ (s.lcore 0).mx.allFull (mstCmd.f 36 32) (groupCount (mstCmd.b 40) 16) = true ∧
    (s.lcore 0).mx.regionPoison = [] ∧ (∀ i, i < 128 → at_ i + 64 ≤ lsSize ∧ at_ i % 4 = 0) ∧ (∀ i, i < 128 → at_ i = 0x1000 + 64 * i) := by
  dsimp only [State.head]; decide +kernel
theorem witness_matrixStores :
    ends (exec (.mstCommand 0) (armed 3 mstCmd drained)) 3 5 []
      (fun _ => true) = true ∧
    (armed 3 mfillCmd drained).head 0 3 mfillCmd [] ∧ mfillCmd.resStore = false ∧ mfillCmd.f 69 68 = 0 ∧
    (drained.inJournal 0 0x1000 8) = false ∧
    ends (exec (.mfillCommand 0) (armed 3 mfillCmd drained)) 3 5 []
      (fun t => (t.lcore 0).lsNat 0x1000 8 == 0x0000_0005_0000_0100 && (t.lcore 0).lsFull 0x1000) = true := by
  dsimp only [State.head]; decide +kernel

-- The gather-scatter engine on die 19: A at 0x2000, B at 0x1000, C at 0x1800 of the local store; the descriptor at 0x400.

def gsCmd (code mode : Nat) : Cmd := { code := code, seq := 5, entry := BitVec.ofNat 64 (0x420 + mode), caps := [0, 0, 0] }
/-- Descriptor words 3 to 6, and words of the operands. -/
def sparse (code mode w3 w4 w5 w6 : Nat) (ws : List (Nat × Nat)) : State :=
  armed 4 (gsCmd code mode) (store (onDie memory 19) ([(0x400, 0x2000), (0x408, 0x1000), (0x410, 0x1800), (0x418, w3), (0x420, w4),
    (0x428, w5), (0x430, w6)] ++ ws))
/-- The command of a state, as `GatherScatterCommandsComplete` has it. -/
def gsOf (code mode : Nat) (s : State) : Gs :=
  let u := gsUses code mode
  let loc := fun (b : Bool) => if b then some (Loc.ls 0) else none
  { c := 0, code := code, mode := mode, d := s.descOf 0 (gsCmd code mode), a := loc u.1, b := loc u.2.1, cc := loc u.2.2, w := { s := s } }
/-- The conditions on a descriptor and its operands. -/
def gsReady (code mode : Nat) (s : State) : Bool :=
  let x := gsOf code mode s
  let u := gsUses code mode
  ((s.lcore 0).lsPoisonIn 0x400 64).isNone && (x.word 6).getLsbD 0 && ((x.word 6).getLsbD 1 || !u.2.1) && ((x.word 6).getLsbD 2 || !u.2.2) &&
    !gsMalformed x (gsCmd code mode).entry && x.startBad.isNone && !(x.word 7).getLsbD 63
/-- Key 5, whose home slot is 1, with value 9; or an empty slot. -/
def hit : State := sparse 0xE0 0 1 4 0 7 [(0x1000, 5), (0x2008, 0x0000_0009_0000_0005)]
def miss : State := sparse 0xE0 0 1 4 0 7 [(0x1000, 5), (0x2008, 0xFFFF_FFFF)]
def inserting : State := sparse 0xE1 0 1 4 77 3 [(0x1000, 5), (0x2008, 0xFFFF_FFFF)]
def gathering : State := sparse 0xE3 0 (1 + 8 * 2 ^ 32) 8 4 7 [(0x1800, 1), (0x2008, 0x0706_0504_0302_0100)]
def adding : State := sparse 0xE4 4 (1 + 8 * 2 ^ 32) (8 + 8 * 2 ^ 32) 4 7 [(0x1800, 1), (0x1008, 0x0000_0002_FFFF_FFFF), (0x2000, 0x0000_0003_0000_0002)]
def ruling : State := sparse 0xE5 0 (1 + 2 ^ 32) 4 (8 + 0x100 * 2 ^ 32) (7 + 0x3FFF_FFFF * 2 ^ 34) [(0x1000, 5), (0x2008, 0x0000_0009_0000_0005)]
def segments : State := sparse 0xE6 2 1 0 0 7 [(0x1000, 0x0000_0001_0000_0000), (0x2000, 6)]
def compacting : State := sparse 0xE7 0 (1 + 4 * 2 ^ 32) 0 0 3 [(0x2000, 3)]
theorem witness_gsReady :
    hit.head 0 4 (gsCmd 0xE0 0) [] ∧ gsHash 5 0 4 = 1 ∧ gsReady 0xE0 0 hit = true ∧ gsReady 0xE0 0 miss = true ∧
    inserting.head 0 4 (gsCmd 0xE1 0) [] ∧ gsReady 0xE1 0 inserting = true ∧ gsReady 0xE2 0 (sparse 0xE2 0 0 4 0 1 []) = true ∧
    gsReady 0xE3 0 gathering = true ∧ gsReady 0xE4 4 adding = true ∧ gsReady 0xE5 0 ruling = true ∧ gsReady 0xE6 2 segments = true ∧
    gsReady 0xE7 0 compacting = true ∧ (gsOf 0xE3 0 gathering).cnt = 1 ∧ (gsOf 0xE3 0 gathering).x = 8 ∧
    (gsOf 0xE3 0 gathering).p2lo = 4 ∧ ((gsOf 0xE5 0 ruling).word 6).bits 43 34 = 0x3FF ∧ (gsOf 0xE5 0 ruling).p2hi = 0x100 := by
  dsimp only [State.head]; decide +kernel
theorem witness_gatherScatter :
    ends (exec (.gsprobeCommand 0) hit) 4 5 [1] (fun t => (t.lcore 0).lsNat 0x1800 4 == 9) = true ∧
    ends (exec (.gsprobeCommand 0) miss) 4 5 [0] (fun t => (t.lcore 0).lsNat 0x1800 4 == 0xFFFF_FFFF) = true ∧
    ends (exec (.gsinsertCommand 0) inserting) 4 5 [1] (fun t => (t.lcore 0).lsNat 0x2008 8 == 0x0000_004D_0000_0005) = true ∧
    ends (exec (.gsclearCommand 0) (sparse 0xE2 0 0 4 0 1 [])) 4 5 [16]
      (fun t => (t.lcore 0).lsNat 0x2000 8 == 0xFFFF_FFFF && (t.lcore 0).lsNat 0x2078 8 == 0xFFFF_FFFF && (t.lcore 0).lsNat 0x2080 8 == 0) = true ∧
    ends (exec (.gsgatherCommand 0) gathering) 4 5 [1] (fun t => (t.lcore 0).lsNat 0x1000 8 == 0x0706_0504_0302_0100) = true ∧
    ends (exec (.gsscaddCommand 0) adding) 4 5 [1] (fun t => (t.lcore 0).lsNat 0x1008 8 == 0x0000_0005_0000_0001) = true ∧
    ends (exec (.gsrulesCommand 0) ruling) 4 5 [1] (fun t => (t.lcore 0).lsNat 0x1800 8 == 9 && (t.lcore 0).lsNat 0x1900 8 == 1) = true ∧
    ends (exec (.gssegsumCommand 0) segments) 4 5 [1] (fun t => (t.lcore 0).lsNat 0x1800 4 == 6) = true ∧
    ends (exec (.gscompactCommand 0) compacting) 4 5 [1] (fun t => (t.lcore 0).lsNat 0x1000 4 == 3) = true := by
  decide +kernel

/-- R385: where the keys 0 and 1 of the table of 1,024 slots stand with their values, what a cleared slot holds, and the FP32 codes of
two sums of the output. -/
theorem test_sparse_final_state :
    ends (exec (.gsinsertCommand 0) (sparse 0xE1 0 2 10 0 3 [(0x1000, 0x0000_0001_0000_0000), (0x2000, 0xFFFF_FFFF), (0x33C0, 0xFFFF_FFFF)])) 4 5 [2]
      (fun t => (t.lcore 0).lsNat 0x2000 8 == 0 && (t.lcore 0).lsNat 0x33C0 8 == 0x0000_0001_0000_0001) = true ∧
    0x33C0 = 0x2000 + 8 * 632 ∧ gsHash 1 0 10 = 632 ∧
    (Num.conv .f32 .rne (.num false 137 0)).code = 0x4309_0000 ∧ (Num.conv .f32 .rne (.num false 14 0)).code = 0x4160_0000 := by
  decide +kernel

-- The select-and-order engine on die 21: one row.

/-- Descriptor words 3 to 6 and words of the operands. -/
def selecting (code mode w3 w4 w5 w6 : Nat) (ws : List (Nat × Nat)) : State :=
  armed 5 (gsCmd code mode) (store (onDie memory 21) ([(0x400, 0x2000), (0x408, 0x1000), (0x410, 0x1800), (0x418, w3), (0x420, w4),
    (0x428, w5), (0x430, w6)] ++ ws))
def soReady (code mode : Nat) (s : State) : Bool :=
  let x : So := { c := 0, code := code, mode := mode, d := s.descOf 0 (gsCmd code mode), a := .ls 0, b := .ls 0, cc := .ls 0, w := { s := s } }
  ((s.lcore 0).lsPoisonIn 0x400 64).isNone && (x.word 6).getLsbD 0 && (!x.usesB || (x.word 6).getLsbD 1) && (x.word 6).getLsbD 2 &&
    !soMalformed x (gsCmd code mode).entry && x.startBad.isNone && !(x.word 7).getLsbD 63 && x.rows == 1
/-- Keys 5 and 3 of type i32; pairs (5, 0) and (3, 7); FP32 1.5 and 2.25; rows of eight bytes. -/
def sorting : State := selecting 0xE8 0 (1 + 2 * 2 ^ 32) 0 0 (5 + 3 * 256) [(0x2000, 0x0000_0003_0000_0005)]
def merging : State := selecting 0xE9 0 (1 + 2 ^ 32) 0 (2 ^ 32) (7 + 3 * 256) [(0x2000, 5), (0x1000, 0x0000_0007_0000_0003)]
def topping : State := selecting 0xEA 0 (1 + 2 * 2 ^ 32) 0 (2 ^ 32) (5 + 3 * 256) [(0x2000, 0x0000_0003_0000_0005)]
def cutting : State := selecting 0xEB 0 (1 + 2 * 2 ^ 32) 0 (2 ^ 32) (7 + 3 * 256 + 4 * 2 ^ 32) [(0x2000, 0x0000_0003_0000_0005)]
def summing : State := selecting 0xEC 0 (1 + 2 * 2 ^ 32) 0 (2 ^ 32) (7 + 10 * 256) [(0x2000, 0x4010_0000_3FC0_0000), (0x1000, 0)]
def fetching : State := selecting 0xED 0 (1 + 2 * 2 ^ 32) 0 (2 ^ 32) (7 + 8 * 2 ^ 32) [(0x2008, 0x11), (0x1000, 0x0000_0001_0000_0000)]
theorem witness_soReady :
    sorting.head 0 5 (gsCmd 0xE8 0) [] ∧ soReady 0xE8 0 sorting = true ∧ soReady 0xE9 0 merging = true ∧ soReady 0xEA 0 topping = true ∧
    soReady 0xEB 0 cutting = true ∧ soReady 0xEC 0 summing = true ∧ soReady 0xED 0 fetching = true ∧
    (sorting.lcore 0).lsPoisonIn 0x2000 8 = none ∧ (sorting.lcore 0).lsPoisonIn 0x1800 16 = none := by
  dsimp only [State.head]; decide +kernel
theorem witness_selectOrder :
    ends (exec (.sosortCommand 0) sorting) 5 5 [1] (fun t => (t.lcore 0).lsNat 0x1800 16 == 0x0000_0000_0000_0005_0000_0001_0000_0003) = true ∧
    ends (exec (.somergeCommand 0) merging) 5 5 [1] (fun t => (t.lcore 0).lsNat 0x1800 16 == 0x0000_0000_0000_0005_0000_0007_0000_0003) = true ∧
    ends (exec (.sotopkCommand 0) topping) 5 5 [1] (fun t => (t.lcore 0).lsNat 0x1800 8 == 5) = true ∧
    ends (exec (.sothreshCommand 0) cutting) 5 5 [1] (fun t => (t.lcore 0).lsNat 0x1800 8 == 5 && (t.lcore 0).lsNat 0x1000 4 == 1) = true ∧
    ends (exec (.sosumsCommand 0) summing) 5 5 [1] (fun t => (t.lcore 0).lsNat 0x1800 8 == 0x4010_0000_3FC0_0000) = true ∧
    ends (exec (.sogatherCommand 0) fetching) 5 5 [1] (fun t => (t.lcore 0).lsNat 0x1800 8 == 0x11) = true := by
  decide +kernel

-- Loaders and storers.

/-- One tile of one row of eight i8 elements at 0x100 of buffer 2, in a ring of one slot at 0x2000. -/
def subOf (loader : Bool) : Sub :=
  { loader := loader, task := 0, lcore := 0, stream := BitVec.ofNat 256 (1 + 7 * 2 ^ 16), cap := Cap.make 2 0 0xF0 65536 0,
    ctl := [1, 0x100, 0, BitVec.ofNat 64 (2 ^ 56 + 2 * 2 ^ 40 + 0x2000)], next := 0, stopped := false }
/-- The header word of the slot, and eight bytes of its tile. -/
def ring (loader full : Bool) : State :=
  { (store memory [(0x2040, 0x55)]).modLcore 0 fun l => { l with lsFe := l.lsFe.set true (0x2000 / 8) full } with subs := [subOf loader] }
theorem witness_tiles :
    let u := subOf true
    let s := ring true false
    let r := ring false true
    (s.subAt 0 0 = some (0, u) ∧ u.next < u.ntiles ∧ s.coreRuns 0 = true ∧ u.rowCount = 1 ∧ u.rowBytes = 8 ∧ u.slotOff 0 = 0x2000 ∧
    u.cap.base + u.rowOff 0 0 = 0x100) ∧ s.cleanL1 noL1 ∧ (s.lcore noL1).roc = [] ∧ s.poisonIn u.cap.id 0x100 8 = none ∧
    (s.lcore 0).lsPoisonIn (0x2000 + 64) 8 = none ∧ s.tileMiss u 0 = none ∧ (s.lcore 0).lsFull 0x2000 = false ∧
    after (exec (.loaderTile 0 0) s) (fun t => (t.lcore 0).lsNat 0x2040 8 == 0x1122_3344_5566_7788 && (t.lcore 0).lsNat 0x2000 8 == 0 &&
      (t.lcore 0).lsFull 0x2000 && (match t.subs with
        | [v] => v.next == 1
        | _ => false)) = true ∧
    r.subAt 0 0 = some (0, subOf false) ∧ r.tileMiss (subOf false) 0 = none ∧ (r.lcore 0).lsFull 0x2000 = true ∧
    after (exec (.storerTile 0 0) r) (fun t => t.homeNat 2 0x100 8 == 0x55 && !(t.lcore 0).lsFull 0x2000) = true := by
  refine ⟨by decide +kernel, clean_of_empty _ _ (by decide +kernel), by decide +kernel⟩

-- Packets: a queue, its ring, and the turns of its packets.

/-- Queue `qid`, whose ring of sixteen packets is buffer 4, with the words of packet 0 that are not zero. -/
def ringed (qid : Nat) (admin : Bool) (ws : List (Nat × Nat)) : State :=
  let s := (base.setBuf 4 { size := 65536, maxRights := 0xF0, refCnt := 1, driver := true, valid := true }).allocPage 4 0 false
  let s := s.setQrec qid { valid := true, admin := admin, rsize := 4, ringId := 4, wptr := 1 }
  ws.foldl (fun s (w : Nat × Nat) => s.setHomeNat 4 (8 * w.1) 8 w.2) s
/-- The packet itself. -/
def packetOf (ws : List (Nat × Nat)) : List Word :=
  (List.range 8).map fun i => BitVec.ofNat 64 ((ws.find? fun w => w.1 == i).map Prod.snd |>.getD 0)
def word4 (op a b c d : Nat) : List (Nat × Nat) := [(0, op * 2 ^ 56 + 0x77), (4, a), (5, b), (6, c), (7, d)]
/-- The machine once the queue is served and its next packet is in memory. -/
def served (qid : Nat) (s : State) : State := ((s.enter qid).bind fun t => t.ringIn (t.qrec qid) (t.qrec qid).rptr).getD s
/-- The machine once the packet has started, with the pages that it reaches in memory. -/
def begun (qid : Nat) (s : State) (p : List Word) : State :=
  (((served qid s).started qid p).packetIn ((served qid s).qrec qid) 1 p).getD s
/-- The machine once the processor has returned to packet i, with the pages that it reaches in memory. -/
def returned (qid i : Nat) (s : State) (p : List Word) : State :=
  ((s.enter qid).bind fun t => (t.ringIn (t.qrec qid) i).bind fun u => u.packetIn (u.qrec qid) ((u.qrec qid).dueStep i) p).getD s
/-- A packet begins; a test of `packetBegins`. -/
def turns (qid : Nat) (s : State) (p : List Word) : Bool :=
  let u := served qid s
  let q := u.qrec qid
  s.canStart qid && ((s.enter qid).bind fun t => t.ringIn (t.qrec qid) (t.qrec qid).rptr).isSome &&
    (u.packetAt q q.rptr == some p && opAllowed q (pktOp p) && !sigBad p && u.sigOk q p && ((u.started qid p).packetIn q 1 p).isSome)
theorem begins_of {qid : Nat} {s : State} {p : List Word} (h : turns qid s p = true) :
    s.packetBegins (served qid s) (begun qid s p) qid p := by
  simp only [turns, Bool.and_eq_true, Bool.not_eq_true', beq_iff_eq] at h
  obtain ⟨⟨h1, h2⟩, ⟨⟨⟨h3, h4⟩, h5⟩, h6⟩, h7⟩ := h
  obtain ⟨u, hu⟩ := Option.isSome_iff_exists.mp h2
  obtain ⟨v, hv⟩ := Option.isSome_iff_exists.mp h7
  exact ⟨⟨h1, by rw [served, hu, Option.getD_some], h3, h4, h5, h6⟩, by rw [begun, hv, Option.getD_some]⟩
/-- The processor returns to packet i; a test of `packetReturns`. -/
def returns (qid i : Nat) (s : State) (p : List Word) : Bool :=
  s.alive && (s.qrec qid).waiting.contains i && s.stepReady qid i &&
    (match (s.enter qid).bind fun t => t.ringIn (t.qrec qid) i with
      | none => false
      | some u => u.packetAt (u.qrec qid) i == some p && (u.packetIn (u.qrec qid) ((u.qrec qid).dueStep i) p).isSome)
theorem returns_of {qid i : Nat} {s : State} {p : List Word} (h : returns qid i s p = true) :
    s.packetReturns (returned qid i s p) qid i p := by
  simp only [returns, Bool.and_eq_true, List.contains_iff_mem] at h
  obtain ⟨⟨⟨h1, h2⟩, h3⟩, h4⟩ := h
  cases hu : (s.enter qid).bind fun t => t.ringIn (t.qrec qid) i with
  | none => rw [hu] at h4; cases h4
  | some u =>
    simp only [hu, Bool.and_eq_true, beq_iff_eq] at h4
    obtain ⟨v, hv⟩ := Option.isSome_iff_exists.mp h4.2
    refine ⟨h1, h2, h3, u, hu, h4.1, ?_⟩
    obtain ⟨t, ht, ht'⟩ := Option.bind_eq_some_iff.mp hu
    rw [hv, returned, ht, Option.bind_some, ht', Option.bind_some, hv, Option.getD_some]
/-- Packet 0 has its turn, meets its own conditions `c`, and completes with STATUS 0 in a machine with `f`. -/
def packetGoes (qid : Nat) (admin : Bool) (i : Instr) (ws : List (Nat × Nat)) (c : QRec → State → List Word → Bool) (f : State → Bool) : Bool :=
  let s := ringed qid admin ws
  let p := packetOf ws
  turns qid s p && c ((served qid s).qrec qid) (begun qid s p) p &&
    after (exec i s) fun t => t.homeNat 4 0x400 8 == 0x77 && t.homeNat 4 0x408 8 / 2 ^ 56 == 0 && (t.qrec qid).cptr == 1 && f t

-- The scheduler: the graph of `graph`, its node records at 0x40 and 0xC0 of buffer 3.

/-- Words of node n. -/
def nodeAt (n : Nat) (ws : List (Nat × Nat)) : List (Nat × Nat) := ws.map fun w => (0x40 + 128 * n + 8 * w.1, w.2)
/-- Node 0 starts at 0x100 with ARG0 0x55 and one plain edge, at 0x800, to node 1. -/
def nodes : State :=
  let ws := nodeAt 0 [(0, 0x0000_FFFF_0000_0001), (1, 0x1000_0020_0000_0000), (5, 0x0000_0001_0000_0800), (6, 0x55)] ++
    nodeAt 1 [(0, 0x0000_FFFF_0000_0001), (5, 0x0001_0000_0000_0000)]
  (graph (ws ++ [(0x800, 0x0001_0000_0000_0000)])).modCtx 0 fun c =>
    { c with nrcb := 1, rcbs := [(0, 0x1F00_0000_FFFF_0000), (1, 0x0000_0064_0000_0010), (2, 0x0000_0064_0000_0000), (6, 0x0500_0000_0000_0000)] }
/-- Task 1 is node 0, task 2 node 1, task 3 a deadline node, all of chain [0]. -/
def tasked (t1 t2 t3 : Task) : State :=
  { (((nodes.setTask 1 { t1 with chain := [0] }).setTask 2 { t2 with node := 1, chain := [0] }).setTask 3
      { t3 with dl := true, chain := [0] }) with devTime := 2_000_000 }
theorem witness_emission :
    let s := tasked { st := .ready, level := 4, parts := [⟨0, 1, 0, 2, 0⟩] } {} { st := .ready, parts := [⟨0, 1, 0, 1, 0⟩] }
    s.alive = true ∧ s.emittable = [1, 3] ∧ (s.task 1).dl = false ∧ (s.task 1).level = 4 ∧ (s.task 3).dl = true ∧ s.dlOpen = true ∧
    after (exec (.entryEmission 4) s) (fun t => (t.task 1).emitted && t.emission == 1 &&
      t.entries.any fun e => e.task == 1 && e.lcore == 0 && e.starts == 2 && e.resume == none) = true ∧
    after (exec (.entryEmission 15) s) (fun t => (t.task 3).emitted && t.entries.any fun e => e.task == 3) = true := by
  decide +kernel
/-- A page that is resident holds every offset of a buffer of one page. -/
theorem page_of_small (s : State) (id o : Nat) (h : o < 65536) : s.page id o = s.page id 0 := by
  simp only [State.page, Nat.div_eq_of_lt h, Nat.zero_div]
/-- An entry of task 1 at core 0, with two starts; the same of a checkpoint, saved as number 9. -/
def started : State :=
  { tasked { st := .ready, emitted := true, parts := [⟨0, 1, 0, 2, 0⟩] } {} {} with entries := [⟨1, 0, 2, 0, .core, none⟩] }
def resumed : State := { started with entries := [⟨1, 0, 1, 0, .core, some 9⟩], saved := [(9, { pc := 0x88, node := some 1 })] }
theorem witness_strandStart :
    let child := (started.modTask 1 fun k => { k with spawned := true }).modLcore 0 fun l => { l with l1 := [(64, some ⟨7, false⟩)] }
    (started.coreRuns 0 = true ∧ (started.strand (mkStrand 0 1)).node = none ∧ (started.strand (mkStrand 0 1)).stopped = false ∧
    (started.lcore 0).handTo = none ∧ started.entries = [⟨1, 0, 2, 0, .core, none⟩]) ∧
    (∀ o, o < (started.buf (started.graphBuf 0 0)).size → pageRes (started.page (started.graphBuf 0 0) o) = true) ∧
    ((started.startOrder 1 0).nodeWord 0 0 0 0).bits 55 53 = 0 ∧
    after (exec (.strandStart 0 1) child) (fun t => (t.lcore 0).l1.isEmpty && (t.strand 1).pc == 0x100) = true ∧
    after (exec (.strandStart 0 1) started) (fun t => (t.strand 1).pc == 0x100 && (t.strand 1).s == [(1, 0x55)] &&
      (t.strand 1).status == 0x2000 && (t.strand 1).node == some 1 && t.entries == [⟨1, 0, 1, 0, .core, none⟩] && (t.task 1).st == .running) = true ∧
    (resumed.strand (mkStrand 0 1)).node = none ∧ (resumed.nodeWord 0 0 0 0).bits 55 53 = 0 ∧
    after (exec (.strandStart 0 1) resumed)
      (fun t => (t.strand 1).pc == 0x88 && (t.strand 1).status == 0x2000 && t.entries.isEmpty) = true := by
  refine ⟨by decide +kernel, ?_, ?_⟩
  · intro o h
    rw [show (started.buf (started.graphBuf 0 0)).size = 65536 by decide +kernel] at h
    rw [page_of_small _ _ _ h]
    decide +kernel
  · decide +kernel
theorem witness_time :
    let s := tasked { st := .ready, level := 4, promoAt := 1_000_000 } { st := .running, drainThr := 3 } {}
    let two := s.setStrand 1 { node := some 2, switchPending := false }
    let p := { s with pkg := { s.pkg with powerNext := some true } }
    let spent := two.modCtx 0 fun c => { c with rcbs := c.rcbs.set 0 5 0x0000_0064_0000_0000 }
    let queued := { s.modTask 1 fun k => { k with st := .running } with entries := [⟨1, 0, 1, 0, .core, none⟩] }
    let due := s.setStrand 1 { node := some 2, switchPending := true, drainAt := some 5, pc := 0x40 }
    (s.task 1).st = .ready ∧ 100_000 * (12 - 4) < s.now - 1_000_000 ∧
    after (exec (.entryPromotion 1) s) (fun t => (t.task 1).level == 5) = true ∧
    (queued.task 1).st = .running ∧ after (exec (.entryPromotion 1) queued) (fun t => (t.task 1).level == 5) = true ∧
    (s.ctx 0).st = .running ∧ (s.ctx 0).periodNo < (s.now - (s.ctx 0).restoredAt) / (((s.ctx 0).rcb 0 2).bits 63 32 * 1000) ∧
    after (exec (.periodStart 0) s) (fun t => (t.ctx 0).periodNo == 20 && ((t.ctx 0).rcb 0 6).bits 63 56 == (s.ctx 0).tokMax 0) = true ∧
    s.ks.dlWindow < s.now / 100_000 ∧ after (exec .dlshareWindow s) (fun t => t.ks.dlWindow == 20) = true ∧
    s.pkg.powerTick < s.now / 1_000_000 ∧ s.pkg.powerNext = none ∧ after (exec .powerClassSelect s) (fun t => t.pkg.powerTick == 2) = true ∧
    after (exec .powerClassTakesEffect p) (fun t => t.pkg.powerMem) = true ∧
    ((spent.ctx 0).rcb 0 1).bits 63 32 ≤ ((spent.ctx 0).rcb 0 5).bits 63 32 ∧ 0 ∈ (spent.ctx 0).charged (spent.task 2).chain ∧
    after (exec (.budgetExhaustion 0 0) spent) (fun t => (t.strand 1).switchPending && (t.strand 1).drainAt == some 2_003_000) = true ∧
    after (exec (.drainTimeout 0 1) due)
      (fun t => (t.strand 1).node == none && (t.saved.get {} 0).pc == 0x40 && t.entries == [⟨2, 0, 1, 0, .keystone, some 0⟩]) = true := by
  decide +kernel
/-- Four strands of core 0 run task 2; the deadline task 3 stands at the head of the core's queue. -/
def contended : State :=
  let s := tasked {} { st := .running } { st := .ready }
  let s := (List.range 4).foldl (fun s k => s.setStrand k { node := some 2 }) s
  { s with entries := [⟨3, 0, 1, 0, .core, none⟩] }
/-- Core 1, hosted by the same physical core, has an entry; core 0 has been resident for 600 µs. -/
def turning : State :=
  let s := (contended.modCtx 0 fun c => { c with lcount := 2 }).setLcore 1 { die := 3 }
  { (s.modLcore 0 fun l => { l with turnStart := 1_400_000, backing := 17 }) with entries := [⟨3, 1, 1, 0, .core, none⟩] }
theorem witness_handover :
    contended.coreHead 3 0 = some ⟨3, 0, 1, 0, .core, none⟩ ∧ contended.residentOf 3 0 = some 0 ∧
    (∀ i, i < 4 → (contended.strand (mkStrand 0 i)).node = some 2 ∧ (contended.strand (mkStrand 0 i)).stopped = false) ∧
    (contended.task 2).st = .running ∧ pick contended.victimFirst (contended.victims true 0) = some 3 ∧ (contended.lcore 0).handTo = none ∧
    lexLt (contended.nodeRank 3) (contended.nodeRank 2) = true ∧ contended.tokens 3 = 5 ∧ (contended.task 3).dl = true ∧
    (contended.task 2).versioned = false ∧
    after (exec (.takeBack 3 0) contended) (fun t => t.tokens 3 == 4 && (t.strand 3).node == none && t.entries.length == 2) = true ∧
    turning.residentOf 3 0 = some 0 ∧ turning.turnOver 0 = true ∧ turning.nextResident 3 0 (some 0) = some 1 ∧ turning.versionedOn 0 = [] ∧
    1 ∈ turning.hosted 3 0 ∧ turning.readyRanks 1 ≠ [] ∧
    after (exec (.logicalCoreSwitch 3 0) turning) (fun t => !(t.lcore 0).resident && (t.lcore 1).resident &&
      (t.lcore 1).turnStart == 2_000_000 && (t.strand 0).node == some 2 && (t.lcore 0).backing == turning.backingOf 0) = true := by
  decide +kernel
/-- Task 1 has no start or strand left; task 2, of the node that its edge names, waits for one edge. -/
def finishing : State := tasked { st := .running, parts := [⟨0, 1, 0, 0, 0⟩] } { st := .waiting, pending := 1 } {}
theorem witness_completion :
    let child := finishing.modTask 1 fun k => { k with spawned := true }
    let ended := (tasked { st := .done } { st := .done } {}).setTask 0 {}
    let done := (ended.setStrand 0 {}).modCtx 0 fun c => { c with launchQ := 17, launchIdx := 0 }
    let packet := word4 0x01 0x600_0000_0000 0 0 0
    let ending := packet.foldl (fun s (w : Nat × Nat) => s.setHomeNat 4 (8 * w.1) 8 w.2)
      (((done.setBuf 4 { size := 65536, maxRights := 0xF0, refCnt := 1, driver := true, valid := true }).allocPage 4 0 false).setQrec 17
        { valid := true, rsize := 4, ringId := 4, wptr := 1, rptr := 1, steps := 5 })
    let r := returned 17 0 ending (packetOf packet)
    (finishing.complete 1 = true ∧ (finishing.task 1).versioned = false ∧ finishing.nout 0 0 0 = 1 ∧
    finishing.edgeWord 0 0 0 0 = 0x0001_0000_0000_0000 ∧ finishing.tasksOf 0 = [0, 1, 2] ∧ (finishing.task 2).node = 1 ∧
    (finishing.task 2).st = .waiting ∧ (finishing.task 0).node ≠ 1 ∧ (finishing.task 0).st = .running ∧
    (finishing.closeRegions 0 0 0).edgeWord 0 0 0 0 = 0x0001_0000_0000_0000) ∧
    (∀ o, o < (finishing.buf (finishing.graphBuf 0 0)).size → pageRes (finishing.page (finishing.graphBuf 0 0) o) = true) ∧
    after (exec (.nodeCompletion 1) finishing) (fun t => (t.task 1).st == .done && (t.task 2).st == .ready && (t.task 2).pending == 0) = true ∧
    child.complete 1 = true ∧ after (exec (.nodeCompletion 1) child) (fun t => (t.task 1).st == .done) = true ∧
    ending.launchOver 0 = true ∧ returns 17 0 ending (packetOf packet) = true ∧ (r.qrec 17).stepOf 0 = 5 ∧ r.launched 17 0 = some 0 ∧
    after (exec (.launchEnd 0) ending) (fun t => (t.ctx 0).st == .absent && (t.task 1).st == .free && (t.qrec 17).cptr == 1) = true := by
  refine ⟨by decide +kernel, ?_, ?_⟩
  · intro o h
    rw [show (finishing.buf (finishing.graphBuf 0 0)).size = 65536 by decide +kernel] at h
    rw [page_of_small _ _ _ h]
    decide +kernel
  · decide +kernel

-- Packets.

def nop : List (Nat × Nat) := [(0, 0x77)]
def signal8 (mode : Nat) : List (Nat × Nat) := [(0, 0x0300_0000_0000_0077), (4, 0x200_0000_0000), (5, 0x40), (6, 0x99), (7, mode * 2 ^ 61)]
def wait8 (v : Nat) : List (Nat × Nat) := [(0, 0x0400_0000_0000_0077), (4, 0x200_0000_0000), (5, 0x40), (6, v), (7, 0x2000_0000_0000_0005)]
/-- The turn of each packet is met, and its statement's premises with it. -/
theorem witness_turn : (ringed 17 false nop).packetBegins (served 17 (ringed 17 false nop)) (begun 17 (ringed 17 false nop) (packetOf nop)) 17
    (packetOf nop) := begins_of (by decide +kernel)
theorem witness_packets_signal :
    packetGoes 17 false (.packetNop 17) nop (fun _ _ p => zeroFrom p 4) (fun _ => true) = true ∧
    packetGoes 17 false (.writeSignal 17) (signal8 0) (fun q s p => s.refBad q 4 (pkt p 4) 5 (pkt p 5).toNat 8 rightW == none)
      (fun t => t.homeNat 2 0x40 8 == 0x99) = true ∧
    packetGoes 17 false (.writeSignal 17) (signal8 1) (fun q s p => s.refBad q 4 (pkt p 4) 5 (pkt p 5).toNat 8 (rightW ||| rightF) == none)
      (fun t => t.homeNat 2 0x40 8 == 0x99 && t.feAt 2 0x40) = true ∧
    packetGoes 17 false (.wait 17) (wait8 0) (fun q s p => s.refBad q 4 (pkt p 4) 5 (pkt p 5).toNat 8 rightR == none && s.waitHolds p &&
      pageRes (s.page 2 0x40)) (fun _ => true) = true ∧
    (let s := ringed 17 false (wait8 3)
     turns 17 s (packetOf (wait8 3)) && !(begun 17 s (packetOf (wait8 3))).waitHolds (packetOf (wait8 3)) &&
       !(begun 17 s (packetOf (wait8 3))).waitOver ((begun 17 s (packetOf (wait8 3))).qrec 17) 0 (packetOf (wait8 3)) &&
       after (exec (.wait 17) s) fun t => (t.qrec 17).cptr == 0 && (t.qrec 17).rptr == 1 && (t.qrec 17).waiting == [0]) = true := by
  decide +kernel
theorem witness_packets_queues :
    packetGoes 0 true (.queueCreate 0) (word4 0x20 0x8003_4000_0000_0014 0x400_0000_0000 4096 5)
      (fun q s p => s.refBad q 5 (pkt p 5) 6 4096 1280 (rightR ||| rightW) == none && !(s.qrec 20).valid)
      (fun t => (t.qrec 20).valid && (t.qrec 20).level == 3 && (t.qrec 20).rptr == 5 && (t.qrec 20).ringOff == 4096) = true ∧
    (let ws := word4 0x21 21 0 0 0
     let s := (ringed 0 true ws).setQrec 21 { valid := true, wptr := 3, cptr := 3, rptr := 3 }
     let st := begun 0 s (packetOf ws)
     turns 0 s (packetOf ws) && st.ownQueue ((served 0 s).qrec 0) 21 && (st.qrec 21).drained &&
       after (exec (.queueDestroy 0) s) fun t => !(t.qrec 21).valid && (t.qrec 0).cptr == 1) = true ∧
    (let ws := word4 0x22 21 9 0 0
     let s := (ringed 0 true ws).setQrec 21 { valid := true, st := 3, errStat := 0x1B }
     turns 0 s (packetOf ws) && (begun 0 s (packetOf ws)).ownQueue ((served 0 s).qrec 0) 21 &&
       after (exec (.queueReset 0) s) fun t => (t.qrec 21).st == 0 && (t.qrec 21).errStat == 0 && (t.qrec 21).wptr == 9) = true ∧
    (let ws := word4 0x23 21 0x200_0000_0000 0x80 0
     let s := (ringed 0 true ws).setQrec 21 { valid := true, rsize := 5, wptr := 3, cptr := 3, rptr := 3 }
     let st := begun 0 s (packetOf ws)
     turns 0 s (packetOf ws) && st.ownQueue ((served 0 s).qrec 0) 21 && st.refBad ((served 0 s).qrec 0) 5 (pkt (packetOf ws) 5) 6 0x80 64 rightW == none &&
       after (exec (.queueQuery 0) s) fun t => t.homeNat 2 0x80 8 == 0x8000_5000_0000_0015 && t.homeNat 2 0x98 8 == 0x3_0000_0003) = true := by
  decide +kernel
theorem witness_packets_buffers :
    (let ws := word4 0x25 0x500_0000_0000 0 0 0
     let s := (ringed 0 true ws).setBuf 5 { size := 8, maxRights := 0xF0, refCnt := 2, driver := true, own := true, host := true, valid := true }
     turns 0 s (packetOf ws) && (begun 0 s (packetOf ws)).ownBuf ((served 0 s).qrec 0) (pkt (packetOf ws) 4) &&
       after (exec (.bufFree 0) s) fun t => (t.buf 5).valid && !(t.buf 5).driver && (t.buf 5).refCnt == 1 && (t.qrec 0).cptr == 1) = true ∧
    packetGoes 0 true (.bufRevoke 0) (word4 0x26 0x200_0000_0000 0 0 0) (fun q s p => s.ownBuf q (pkt p 4)) (fun t => (t.buf 2).gen == 1) = true ∧
    packetGoes 0 true (.setDlshare 0) (word4 0x27 7 0 0 0) (fun _ _ _ => true) (fun t => t.ks.dlShare == 7) = true := by
  decide +kernel
/-- A host buffer of 64 bytes: some identifier is free. -/
theorem witness_packets_alloc :
    let ws := word4 0x24 64 0xF000_0000_0000_0001 0x1000 0
    turns 0 (ringed 0 true ws) (packetOf ws) = true ∧ (begun 0 (ringed 0 true ws) (packetOf ws)).freshId.1 = some 3 ∧
    after (exec (.bufAlloc 0) (ringed 0 true ws)) (fun t => (t.buf 3).valid && (t.buf 3).host && (t.buf 3).size == 64 && (t.qrec 0).cptr == 1) = true := by
  decide +kernel
-- Paging.

/-- What every entry of a table has, and its default, every key has. -/
theorem get_all {α : Type} (p : α → Prop) (d : α) (t : Tab α) (k : Nat) (h : ∀ e ∈ t, p e.2) (hd : p d) : p (Tab.get d t k) := by
  induction t with
  | nil => exact hd
  | cons e t ih =>
    obtain ⟨k0, v⟩ := e
    rw [Tab.get]
    split
    · exact h _ List.mem_cons_self
    · split
      · exact hd
      · exact ih fun e he => h e (List.mem_cons_of_mem _ he)
/-- A key above every entry reads as unlisted. -/
theorem get_beyond {α : Type} (d : α) (t : Tab α) (k : Nat) (h : ∀ e ∈ t, e.1 < k) : Tab.get d t k = d := by
  induction t with
  | nil => rfl
  | cons e t ih =>
    obtain ⟨k0, v⟩ := e
    have h0 : k0 < k := h _ List.mem_cons_self
    rw [Tab.get, if_neg (by omega), if_neg (by omega)]
    exact ih fun e he => h e (List.mem_cons_of_mem _ he)
/-- Buffer 2 of `memory` is the driver's; its page has gone out. -/
def paged : State := (memory.modBuf 2 fun b => { b with driver := true }).pageOut 2 0
theorem witness_pageOut :
    let e := memory.page 2 0
    pageValid e = true ∧ pageRes e = true ∧ pagePinned e = false ∧ (∀ k, memory.cleanL1 k) ∧ Memory.wf memory.mem = true ∧
    after (exec (.pageOut 2 0) memory) (fun t => !pageRes (t.page 2 0) && (t.buf 2).resident == 0 &&
      (t.backing.get {} (pageKey 2 0)).data.get 0 0x101 == 0x77) = true := by
  refine ⟨?_, ?_, ?_, fun k => clean_of_empty _ _ ?_, ?_⟩
  case refine_4 => exact get_all (fun l : LCore => l.l1 = []) _ _ _ (by decide +kernel) rfl
  all_goals decide +kernel
/-- Of context 0's own buffer 2; the page would count against its RCB and the one of task 4. -/
def owned : State :=
  ((memory.modCtx 0 fun c => { c with rcbs := [(1, 5), (8, 2 ^ 56), (9, 3)] }).setTask 4 { st := .running, chain := [1, 0] }).pageOut 2 0
theorem witness_pageIn :
    let e := paged.page 2 0
    let f := paged.newFrame.1
    pageValid e = true ∧ pageRes e = false ∧ 0 < paged.framesLeft ∧ (paged.buf 2).driver = true ∧ f < 2 ^ 23 ∧
    (owned.buf 2).driver = false ∧ (owned.buf 2).context = 0 ∧ 0 :: owned.asker 2 (some 4) = [0, 1] ∧
    (∀ r ∈ [0, 1], ((owned.ctx 0).rcb r 5).bits 31 0 < ((owned.ctx 0).rcb r 1).bits 31 0) ∧
    after (exec (.pageIn 2 ⟨0, some 4⟩) owned) (fun t => pageRes (t.page 2 0) && ((t.ctx 0).rcb 0 5).bits 31 0 == 1 &&
      ((t.ctx 0).rcb 1 5).bits 31 0 == 1) = true ∧
    (∀ a, f * 65536 ≤ a → a < (f + 1) * 65536 → Tab.get 0 paged.mem a = 0) ∧
    Memory.wf (paged.backing.get {} (pageKey 2 0)).data = true ∧ (∀ x ∈ (paged.backing.get {} (pageKey 2 0)).data, x.1 < 65536) ∧
    after (exec (.pageIn 2 ⟨0, none⟩) paged) (fun t => pageRes (t.page 2 0) && (t.buf 2).resident == 1 && t.homeNat 2 0x100 8 == 0x1122_3344_5566_7788) = true := by
  refine ⟨?_, ?_, ?_, ?_, ?_, ?_, ?_, ?_, ?_, ?_, fun a h _ => get_beyond _ _ _ fun e he => ?_, ?_⟩
  case refine_11 =>
    have : ∀ e ∈ paged.mem, e.1 < paged.newFrame.1 * 65536 := by decide +kernel
    exact Nat.lt_of_lt_of_le (this e he) h
  all_goals decide +kernel
theorem witness_lateWriteBack :
    let s := memory.modLcore 0 fun l => { l with l1 := [(byteKey 2 0x101, some ⟨7, true⟩)] }
    let line := byteKey 2 0x100 / 64
    byteKey 2 0x101 = line * 64 + 1 ∧
    after (exec (.dirtyByteWriteBack 0 line) s) (fun t => t.homeNat 2 0x100 8 == 0x1122_3344_5566_0788 &&
      (t.lcore 0).l1.get none (line * 64 + 1) == some ⟨7, false⟩) = true := by
  decide +kernel
-- Completions.

/-- Packet 0 of queue 17 with a signal of a mode at 0x40 of buffer 2, VALUE 9, vector 5. -/
def signalled (mode : Nat) : List Word := packetOf [(0, mode * 2 ^ 52 + 5 * 2 ^ 32 + 0x77), (1, 0x200_0000_0000), (2, 0x40), (3, 9)]
theorem witness_completions :
    let s := ringed 17 false nop
    let q := s.qrec 17
    let t := { s with hints := [5] }.completePacket 17 0 (packetOf nop) 0x1A 2 3
    let cap := { s with hints := [5] }.completePacket 17 0 (packetOf nop) 0x11 4 0
    let frz := { s with hints := [5] }.completePacket 17 0 (packetOf [(0, 0x0200_0000_0000_0077)]) 0 0x123456 3
    let v := (s.modQrec 17 fun q => { q with rptr := 2 }).completePacket 17 1 (packetOf nop) 0 0 0
    let full := fun (mode : Nat) => (s.setFeAt 2 0x40 false).signal q (signalled mode)
    let clear := { s with io := { s.io with msixData := [(32 * 256 + 5, 0x11), (64 * 256 + 5, 0x11)] } }
    sigBad (packetOf nop) = false ∧ s.fwOk 0 false 4 0 (q.entryOff 0) 16 rightW = true ∧ pageRes (s.page 4 (q.entryOff 0)) = true ∧
    pageRes (s.page 2 0x40) = true ∧ idxDist 0 q.cptr = 0 ∧ idxDist 1 q.cptr = 1 ∧ q.doneMask = 0 ∧
    (t.homeNat 4 0x400 8 == 0x77 && t.homeNat 4 0x408 8 == 0x1A00_0005_0000_0003 && cap.homeNat 4 0x408 8 == 0x1100_0504_0000_0000 &&
      frz.homeNat 4 0x408 8 == 0x0012_3456_0000_0003 && (t.qrec 17).cptr == 1 && (t.qrec 17).cqptr == 1) = true ∧
    (v.homeNat 4 0x400 8 == 0x1_0000_0077 && (v.qrec 17).cptr == 0 && (v.qrec 17).doneMask == 2) = true ∧
    ([0, 1, 2, 3, 4].all fun m => !sigBad (signalled m) || m == 0) = true ∧
    ((full 1).homeNat 2 0x40 8 == 9 && !(full 1).feAt 2 0x40 && (full 2).homeNat 2 0x40 8 == 9 && (full 2).feAt 2 0x40) = true ∧
    (s.signal q (signalled 3)).homeNat 2 0x40 8 = 2 ^ 64 - 1 ∧
    (clear.signal q (signalled 4)).ks.msix = [(32, 5), (64, 5)] := by
  decide +kernel
-- Launches.

/-- Words of a host memory from an address on. -/
def hostWords (a : Nat) (ws : List (Nat × Nat)) : List Host.Cell :=
  ws.foldl (fun m (w : Nat × Nat) => Tab.setList 0 m ((a + 8 * w.1) % 2 ^ 64) (leBytes 8 w.2)) []
/-- A fresh image of one logical core, on virtual die 0 of the matrix kind, with buffer 1 as its code and buffer 3 as its one graph,
both imported. Its header stands in the last page of host memory, its sections at 0. -/
def image : List Host.Cell :=
  let sect := fun (i off len : Nat) => [(16 + 2 * i, off), (17 + 2 * i, len)]
  let hdr := [(0, 0x4B49_4D47_0104_0000), (1, 0x77_0000_0000), (2, 0x0001_0000_0200_0000), (3, 0x4000), (6, 0x0001_0000_0000_0000)] ++
    sect 0 12352 56 ++ sect 1 4096 8193 ++ sect 2 12416 64 ++ sect 3 12480 128 ++ sect 4 12608 8
  hostWords (2 ^ 64 - 4096) (hdr ++ [(512, 0x8000), (512 + 1032, 0x8300),
    (512 + 1040, 0x1F00_0000_FFFF_0000), (512 + 1041, 0x0000_0064_0000_0064), (512 + 1042, 0x0000_0064_0000_0000),
    (512 + 1049, 4), (512 + 1050, 0x100_0000_0000), (512 + 1057, 4), (512 + 1058, 0x300_0000_0000), (512 + 1064, 2)])
/-- A LAUNCH_IMAGE of context 5, whose one node, SPAWN, stands in buffer 3. -/
def launching : State :=
  let s := ringed 17 false (word4 0x01 0x600_0000_0005 0 0 0)
  let s := (s.setBuf 3 { size := 65536, maxRights := 0xF0, refCnt := 1, valid := true }).allocPage 3 0 false
  let s := [(0, 0x0000_0001_0000_0000), (8, 0x40), (0x40, 0x0200_FFFF_0000_0001), (0x48, 0x1000_0020_0000_0000)].foldl
    (fun s (w : Nat × Nat) => s.setHomeNat 3 w.1 8 w.2) s
  { (s.setBuf 6 { size := 0x10000, maxRights := 0xF0, refCnt := 1, host := true, valid := true, pmap := BitVec.ofNat 64 (2 ^ 64 - 4096) })
      with hostMem := image }
theorem witness_launch :
    turns 17 launching (packetOf (word4 0x01 0x600_0000_0005 0 0 0)) = true ∧
    (begun 17 launching (packetOf (word4 0x01 0x600_0000_0005 0 0 0))).isFresh ⟨6, 0⟩ = true ∧
    after (exec (.launchImage 17) launching) (fun t => (t.ctx 5).st == .restoring && (t.ctx 5).lcount == 1 &&
      (t.strand (mkStrand (mkLc 5 0) 2)).status == 0x4000 && (t.lcore (mkLc 5 0)).die == 3 && (t.qrec 17).stepOf 0 == 3 &&
      returns 17 0 t (packetOf (word4 0x01 0x600_0000_0005 0 0 0)) &&
      after (exec (.waitingStepResume 17 0) t) fun u => (u.ctx 5).st == .running && (u.qrec 17).stepOf 0 == 5) = true := by
  decide +kernel
-- Freezes, waits, doorbells and slices.

/-- A FREEZE of context 0 to a host buffer. -/
def freeze : List (Nat × Nat) := word4 0x02 0 0x600_0000_0000 0 0
def freezing : State :=
  (ringed 17 false freeze).setBuf 6 { size := 0x20_0000, maxRights := 0xF0, refCnt := 1, host := true, valid := true, pmap := 0x1_0000 }
theorem witness_freeze :
    let p := packetOf freeze
    let st := begun 17 freezing p
    turns 17 freezing p = true ∧ freezeBad st p = false ∧ (st.ctx 0).st = .running ∧
    (st.imageMiss (st.qrec 17) p 4096).isNone = true ∧
    after (exec (.freeze 17) freezing) (fun t => (t.ctx 0).st == .freezing && (t.qrec 17).stepOf 0 == 3 && returns 17 0 t p &&
      after (exec (.waitingStepResume 17 0) t) fun u => (u.qrec 17).stepOf 0 == 4 && returns 17 0 u p &&
        after (exec (.waitingStepResume 17 0) u) fun v => (v.ctx 0).st == .running && (v.ctx 0).seq == 1 && (v.qrec 17).cptr == 1) = true := by
  decide +kernel
theorem witness_waits :
    let ws := wait8 3
    let p := packetOf ws
    let s := { (ringed 17 false ws).modQrec 17 fun q => { q with rptr := 1, steps := 1 } with devTime := 5000 }
    let held := s.setHomeNat 2 0x40 8 3
    returns 17 0 held p = true ∧ returns 17 0 s p = true ∧ (returned 17 0 held p).waitHolds p = true ∧
    (returned 17 0 s p).waitHolds p = false ∧ s.waitOver (s.qrec 17) 0 p = true ∧
    ((s.ringIn (s.qrec 17) 0).bind fun t => t.packetAt (t.qrec 17) 0) = some p ∧
    (returned 17 0 s p).waitOver ((returned 17 0 s p).qrec 17) 0 p = true ∧
    after (exec (.waitingStepResume 17 0) held) (fun t => (t.qrec 17).cptr == 1 && t.homeNat 4 0x408 8 == 0) = true ∧
    after (exec (.waitTimeout 17 0) s) (fun t => (t.qrec 17).cptr == 1 && t.homeNat 4 0x408 8 == 0x0400_0000_0000_0000) = true := by
  decide +kernel
theorem witness_doorbells :
    let s := ringed 17 false nop
    let r := { s with ks := { s.ks with served := [(2, some 17)] } }
    r.ks.served.get none (17 / 8) = some 17 ∧ after (exec (.sliceExpiry 17) r) (fun t => t.ks.sliceOver.get false 2) = true ∧
    s.pkg.ready = true ∧ (s.qrec 17).valid = true ∧ (s.qrec 17).func = 0 ∧
    after (exec (.doorbell 1 0 17 16) s) (fun t => (t.qrec 17).wptr == 16 && t.io.posted.get 0 1 == 1) = true ∧
    after (exec (.doorbell 2 0 17 17) s) (fun t => (t.qrec 17).st == 3 && (t.qrec 17).errStat == 0x1B && (t.qrec 17).wptr == 1) = true := by
  decide +kernel
-- The fabric.

theorem witness_credits :
    let s : State := { base with pkg := { base.pkg with stage := 6 } }
    let lost := { s.setLink 7 { credits := [(2, 60)], ret := [(2, 5)], got := [(2, 1)] } with fab := { s.fab with frame := 64, links := [(7, { credits := [(2, 60)], ret := [(2, 5)], got := [(2, 1)] })] } }
    let sent := lost.setLink 7 { lost.link 7 with audits := [[0, 0, 5, 0], [0, 0, 6, 0]], auditAt := 64 }
    let rs : Fin 4 → BitVec 32 := fun v => if v = 2 then 5 else 0
    s.alive = true ∧ s.pkg.ready = true ∧ 3 ≤ s.pkg.stage ∧ after (exec .frameBoundary s) (fun t => t.fab.frame == 1) = true ∧
    after (exec (.trailerDiscard 7 2 4) s) (fun t => (t.link 7).credit 2 == 60 && (t.link 7).ret.get 0 2 == 4) = true ∧
    lost.fab.frame % 64 = 0 ∧ (lost.link 7).auditAt < lost.fab.frame ∧ sent.fab.frame ≤ (sent.link 7).auditAt ∧
    after (exec (.auditSend 7) lost) (fun t => (t.link 7).audits == [[0, 0, 5, 0]] && (t.link 7).auditAt == 64) = true ∧
    after (exec (.auditSend 7) sent) (fun t => (t.link 7).audits.length == 2) = true ∧
    (sent.link 7).audits = List.ofFn rs :: [[0, 0, 6, 0]] ∧ (∀ v, (sent.link 7).credit v.val + (rs v - (sent.link 7).got.get 0 v).toNat ≤ 64) ∧
    after (exec (.creditAudit 7) sent) (fun t => (t.link 7).credit 2 == 64 && (t.link 7).credit 0 == 64 && (t.link 7).got.get 0 2 == 5 && (t.link 7).audits == [[0, 0, 6, 0]] &&
      t.pkg.fatal.isNone && t.ks.logHead == 1) = true := by
  decide +kernel
/-- Port 3 to port 4, wavelength 0. -/
def conn : Word := 0x8190_0080_0000_0000
theorem witness_circuits :
    let s : State := { base with devTime := 77 }
    let at_ := fun (st : Nat) => { s with fab := { s.fab with conns := [(5, conn)], connSt := [(5, st)] } }
    connSrc conn = 3 ∧ connDst conn = 4 ∧ (s.die 3).inService = true ∧ (s.die 4).inService = true ∧ connCount conn = 1 ∧
    connFirst conn = 0 ∧ Tab.wf 0 (at_ 2).fab.conns = true ∧ conflict conn ((at_ 2).fab.conns.get 0 5) = true ∧
    after (exec (.connectionSetup 9 conn) s) (fun t => t.connState 9 == 1 && t.fab.connTime.get 0 9 == 77 && t.fab.conns.get 0 9 == conn) = true ∧
    after (exec (.connectionSetup 9 conn) (at_ 2)) (fun t => t.connState 9 == 4) = true ∧
    after (exec (.connectionSetup 9 0x818C_0080_0000_0000) s) (fun t => t.connState 9 == 5) = true ∧
    after (exec (.circuitActive 5) (at_ 1)) (fun t => t.connState 5 == 2) = true ∧
    after (exec (.connectionTeardown 5) (at_ 2)) (fun t => t.connState 5 == 3 && t.fab.conns.get 0 5 == 0x0190_0080_0000_0000) = true ∧
    after (exec (.registerWrite 1 0 0x4050 0x0198_0080_0000_0000) (at_ 4))
      (fun t => t.connState 5 == 3 && t.fab.conns.get 0 5 == 0x0198_0080_0000_0000 && t.fab.connTime.get 0 5 == 77) = true ∧
    after (exec (.connectionSetup 5 0x818C_0080_0000_0000) (at_ 5)) (fun t => t.connState 5 == 5 && t.fab.connTime.get 0 5 == 0) = true ∧
    after (exec (.circuitDown 5) (at_ 3)) (fun t => t.connState 5 == 0) = true := by
  decide +kernel

-- The Abutments.

/-- Entry 0 of the physical function's aperture at Abutment 1 covers buffer 2, with writes. -/
def apertured : State := { memory with io := { memory.io with aperture := [(1024, 0xC000_0000_0000_0000), (1025, 0x200_0000_0000)] } }
theorem witness_host :
    let s := apertured
    let adm : Word := 0x0000_0000_0000_0104
    let on := fun (d : QRec) => { s.setQrec 0 d with io := { s.io with adminEn := [(0, true)], adminReady := [(0, true)] } }
    let w0 := s.apertureWord 1 0 0
    w0.getLsbD 63 = true ∧ w0.getLsbD 62 = true ∧ (s.buf (refId (s.apertureWord 1 0 1))).valid = true ∧
    pageFaultIn s 2 0x100 8 = none ∧ (s.apertureWord 1 0 2).getLsbD 63 = false ∧
    after (exec (.apertureRead 1 0 0x100 2) s) (fun t => t.io.completions == [([0x88, 0x77], 0)]) = true ∧
    after (exec (.apertureRead 1 0 (2 ^ 32) 2) s) (fun t => t.io.completions == [([], 1)]) = true ∧
    after (exec (.apertureWrite 1 0 0x100 [1, 2]) s) (fun t => t.homeNat 2 0x100 4 == 0x5566_0201 && t.io.posted.get 0 1 == 1) = true ∧
    after (exec (.apertureWrite 1 0 (2 ^ 32) [1, 2]) s) (fun t => t.homeNat 2 0x100 4 == 0x5566_7788 && t.io.posted.get 0 1 == 1) = true ∧
    after (exec (.apertureWrite 1 0 (2 ^ 36) [1, 2]) s) (fun t => t.mem == s.mem && t.io.posted.get 0 1 == 1) = true ∧
    after (exec (.apertureRead 1 0 (2 ^ 36 + 0x1100) 8) s) (fun t => t.io.completions == [(leBytes 8 0xC000_0000_0000_0000, 0)]) = true ∧
    after (exec (.apertureRead 1 0 (2 ^ 36 + 65536 + 0x8000) 2) s) (fun t => t.io.completions == [([0, 0], 0)]) = true ∧
    s.postedAny.freshId.1 = some 3 ∧
    after (exec (.adminQueueEnable 0 adm) s) (fun t => t.admEn 0 && (t.qrec 0).valid && (t.qrec 0).ringId == 3) = true ∧
    adm.getLsbD 8 = true ∧ s.admEn 0 = false ∧ (s.qrec 0).valid = false ∧ adm.bits 3 0 = 4 ∧
    after (exec (.adminQueueDisable 0) (on { valid := true, admin := true, rsize := 4, ringId := 4 }))
      (fun t => !t.admEn 0 && !(t.qrec 0).valid && !t.io.adminReady.get false 0) = true ∧
    after (exec (.adminQueueDisable 0) (on { valid := true, admin := true, rsize := 4, ringId := 4, wptr := 1 }))
      (fun t => !t.admEn 0 && (t.qrec 0).valid) = true ∧
    after (exec (.registerWrite 1 0 0x1000 0x12345) s) (fun t => t.io.adminBase.get 0 0 == 0x12000) = true ∧
    after (exec (.registerWrite 1 0 0x11F0 (BitVec.allOnes 64)) s) (fun t => t.apertureWord 1 0 30 == 0xC000_00FF_FFFF_FFFF) = true ∧
    after (exec (.registerWrite 2 0 0x1108 (BitVec.allOnes 64)) s) (fun t => t.apertureWord 2 0 1 == 0xFFFF_FFFF_FF00_0000) = true := by
  decide +kernel
/-- Steering entry 3 of Abutment 1: port 0, sixteen slots of 256 bytes at 0x1000 of buffer 2, in or out. -/
def steer (out : Bool) : Steer :=
  { w0 := if out then 0x8800_0000_0800_0000 else 0x8800_0000_0000_0000, w2 := 0x200_0084_0000, w3 := 0x1000 }
def steering (out : Bool) : State := { (memory.setFeAt 2 0x1000 out).setSteer 1 3 (steer out) with devTime := 1000 }
/-- A frame of 64 bytes. -/
def frame : List Byte := (List.range 64).map fun i => BitVec.ofNat 8 (i + 1)
theorem witness_steering :
    let x := steer false
    let ptp := frame.take 12 ++ [0x88, 0xF7] ++ frame.drop 14
    let s := steering false
    (memory.steerBad x = false ∧ memory.steerBad { x with w3 := 0x1008 } = true ∧ x.nslots = 16 ∧ x.slotBytes = 256 ∧ x.ringLen = 16 * 272 ∧
    after (exec (.steeringEnable 1 3 x.w0 x.w1 x.w2 x.w3) memory) (fun t => (t.steerOf 1 3).valid && !t.feAt 2 0x1000 && !t.feAt 2 0x10F0 &&
      t.feAt 2 0x1008) = true ∧
    after (exec (.steeringEnable 1 3 x.w0 x.w1 x.w2 0x1008) memory) (fun t => !(t.steerOf 1 3).valid && t.feAt 2 0x1000) = true ∧
    after (exec (.steeringDisable 1 3) s) (fun t => !(t.steerOf 1 3).valid) = true ∧
    frameNat frame 12 2 ≠ 0x88F7 ∧ s.steerFor 1 0 frame = some 3 ∧ s.ringLive x = true ∧ s.feAt 2 0x1000 = false ∧ (s.lcore noL1).roc = []) ∧ s.cleanL1 noL1 ∧
    (∀ i, i < x.ringLen → s.pa x.id (x.w3.toNat + i) = s.pa x.id 0 + (0x1000 + i)) ∧
    after (exec (.ingressFrame 1 0 frame 99) s) (fun t => t.homeNat 2 0x1100 4 == 0x0403_0201 && t.homeNat 2 0x1000 8 == 64 &&
      t.homeNat 2 0x1008 8 == 901 && t.feAt 2 0x1000 && (t.steerOf 1 3).next == 1 && (t.steerOf 1 3).seq == 1) = true ∧
    after (exec (.ingressFrame 1 0 frame 0) s) (fun t => t.homeNat 2 0x1008 8 == 999 && t.io.portEnd.get 0 4 == 1000) = true ∧
    after (exec (.ingressFrame 1 0 frame 99) (s.portTook 1 0 frame 989)) (fun t => t.homeNat 2 0x1008 8 == 990) = true ∧
    s.steerFor 1 1 frame = none ∧
    after (exec (.receivedFrameDrop 1 1 ptp false) s) (fun t => t.io.portDrops.get 0 5 == 0) = true ∧
    after (exec (.receivedFrameDrop 1 1 ptp true) s) (fun t => t.io.portDrops.get 0 5 == 1) = true ∧ after (exec (.receivedFrameDrop 1 1 frame false) s) (fun t => t.io.portDrops.get 0 5 == 1) = true := by
  refine ⟨by decide +kernel, clean_of_empty _ _ (by decide +kernel), fun i h => ?_, by decide +kernel⟩
  · change i < (steer false).ringLen at h
    have hl : (steer false).ringLen = 16 * 272 := by decide +kernel
    have hw : (steer false).w3.toNat = 0x1000 := by decide
    rw [hl] at h
    have hp := page_of_small (steering false) (steer false).id ((steer false).w3.toNat + i) (by omega)
    have hr : physOf ((steering false).page (steer false).id 0) 0 = (steering false).pa (steer false).id 0 := rfl
    show (steering false).pa (steer false).id ((steer false).w3.toNat + i) = (steering false).pa (steer false).id 0 + (0x1000 + i)
    rw [← hr, State.pa, hp, hw, physOf, physOf, Nat.mod_eq_of_lt (by omega : 0x1000 + i < 65536)]
    omega
theorem witness_egress :
    let x := steer true
    let s := ((steering true).setHomeNat 2 0x1000 8 60).setHome 2 0x1100 frame
    (s.steerOf 1 3).valid = true ∧ x.egress = true ∧ s.ringLive x = true ∧ s.feAt 2 0x1000 = true ∧ s.homeNat 2 0x1000 8 % 65536 = 60 ∧
    s.poisonIn 2 0x1100 60 = none ∧ s.io.ptpPort = (1 - 1) * 4 + 0 ∧ s.anyContext = true ∧
    after (exec (.egressSlot 1 3 42) s) (fun t => t.io.sent == [⟨1, 0, frame.take 60, frameFcs (frame.take 60)⟩] && t.homeNat 2 0x1008 8 == 1000 && !t.feAt 2 0x1000 &&
      t.feAt 2 0x1008 && (t.steerOf 1 3).next == 1) = true ∧
    after (exec (.egressRetry 1 3 42) s) (fun t => t.io.sent.length == 1) = true ∧
    after (exec (.ptpFrame 1 0 true 5 ⟨9, [frame, frame.take 12 ++ [0x88, 0xF7]]⟩) s) (fun t => t.io.locked && t.io.ptpOffset == 5 && t.devTime == 1000 &&
      (t.io.sent.map fun f => f.bytes) == [frame.take 12 ++ [0x88, 0xF7]]) = true := by
  decide +kernel
-- Errors, health, bring-up and resets.

/-- The log has its buffer; the module came up at 9,000 ns. -/
def logging : State := { (base.setBuf logBuf { size := 65536, maxRights := 0x80, refCnt := 1, valid := true }).allocPage logBuf 0 true with devTime := 9000 }
theorem witness_errors :
    let s := logging
    let held := s.pa 2 32
    let failing := s.modDie 3 fun d => { d with failing := [(0, true)] }
    let bad := s.modDie 4 fun d => { d with routerBad := true }
    let at_ := fun (u : State) (die pos made : Nat) => { u with pkg := { u.pkg with changing := some ⟨die, pos, u.die die, made⟩ } }
    let made := fun (t : State) => t.pkg.changing.map Change.made
    s.alive = true ∧ s.pkg.ready = true ∧ s.ks.lastErr.get none ((32 + 23) * 512 + 2) = none ∧ s.pageHolding held = some (2, 0) ∧
    s.hasMemory 0 = true ∧
    after (exec (.hardwareError (.hbmCorrected 1024)) s) (fun t => t.ks.logHead == 1 && t.homeNat logBuf 0 8 == 1 &&
      t.homeNat logBuf 0x40 8 == 9000 && t.homeNat logBuf 0x48 8 == 0x010B_8080_0000_0001 && t.homeNat logBuf 0x50 8 == 1024) = true ∧
    after (exec (.hardwareError (.hbmUncorrectable held)) s) (fun t => t.poisonAt 2 32 && pageDirty (t.page 2 0)) = true ∧
    after (exec (.hardwareError (.sramCorrected 0 0)) s) (fun t => t.ks.logHead == 1) = true ∧
    after (exec (.hardwareError (.sramCorrected 3 7)) s) (fun t => (t.die 3).corrected.get [] 7 == [9000]) = true ∧
    s.dirtyGranules 0 5 = [] ∧ after (exec (.hardwareError (.l1Uncorrectable 0 5)) s) (fun t => (t.lcore 0).l1.isEmpty) = true ∧
    after (exec (.hardwareError (.localStoreUncorrectable 0 9)) s) (fun t => (t.lcore 0).lsPoison.get false 9) = true ∧
    after (exec (.hardwareError (.operandUncorrectable 0 1 9)) (s.modLcore 0 fun l => { l with mx := { l.mx with slots := [(1, { st := .full })] } }))
      (fun t => ((t.lcore 0).mx.slots.get {} 1).poison.get false 9) = true ∧
    after (exec (.hardwareError (.accumulatorUncorrectable 0 9)) s) (fun t => (t.lcore 0).mx.regionPoison.get false 9) = true ∧
    (s.lcore 0).die = 3 ∧ (s.lcore 0).pos = 0 ∧
    after (exec (.hardwareError (.registerUncorrectable 3 0)) s) (fun t => (t.die 3).failing.get false 0 && (t.ctx 0).st == .absent) = true ∧
    after (exec (.hardwareError (.laneRepaired 4 1)) s) (fun t => t.pkg.fatal.isNone && t.ks.logHead == 1) = true ∧
    after (exec (.hardwareError (.routerUncorrectable 4)) s) (fun t => (t.die 4).routerBad) = true ∧
    (failing.die 3).cores.getLsbD 0 = true ∧ failing.coreFails 3 0 = true ∧
    after (exec (.coreRetirement 3 0) failing) (fun t => (t.die 3).cores == 0xFFFE && t.pkg.changes == 0 && made t == some 1 &&
      (t.ctx 0).st == .absent && t.discWord 3 == failing.discWord 3) = true ∧
    after (exec (.coreRetirement 3 0) (at_ failing 3 0 1)) (fun t => t.pkg.changes == 1 && made t == some 2) = true ∧
    after (exec (.coreRetirement 3 0) (at_ failing 3 0 2)) (fun t => t.pkg.changes == 0 && made t == some 3) = true ∧
    after (exec (.coreRetirement 3 0) (at_ failing 3 0 3)) (fun t => t.pkg.changes == 1 && made t == none && t.ks.logHead == 1) = true ∧
    after (exec (.coreRetirement 3 0) (at_ bad 4 16 1)) (fun t => t == at_ bad 4 16 1) = true ∧
    (bad.die 4).inService = true ∧ (bad.die 4).routerBad = true ∧
    after (exec (.dieRetirement 4) bad) (fun t => !(t.die 4).inService && (t.die 4).retired && t.pkg.changes == 0 && t.remapByte 4 0 == 0) = true ∧
    after (exec (.dieRetirement 4) (at_ bad 4 16 3)) (fun t => t.pkg.changes == 1 && made t == none && t.ks.logHead == 1) = true ∧
    after (exec (.hardwareError (.sramUncorrectable 3 0)) s) (fun t => t.ks.logHead == 1 && t.pkg.dies == s.pkg.dies) = true ∧
    after (exec (.hardwareError (.l1Corrected 0 (2 * 2 ^ 35 + 1))) s) (fun t => (t.die 3).corrected.get [] 0 == [9000] &&
      t.homeNat logBuf 0x50 8 == held && t.homeNat logBuf 0x58 8 == 2 * 2 ^ 40) = true ∧
    after (exec .patrolScrub s) (fun t => t.ks.logHead == 0) = true := by
  decide +kernel
theorem witness_health :
    let s := { logging with pkg := { logging.pkg with stage := 6 } }
    let hot := s.modDie 5 fun d => { d with throttled := true }
    1 ≤ s.pkg.stage ∧ after (exec (.heartbeat 7) s) (fun t => t.ks.beats.get 0 7 == 1 && t.ks.missed.get 0 0 == 1 && t.pkg.fatal.isNone &&
      t.ks.beatDue.get 0 7 == 59_000 && after (exec (.heartbeat 7) t) fun u => u.ks.beats.get 0 7 == 1) = true ∧
    (s.die 5).throttled = false ∧ after (exec (.thermalThrottle 5 95) s) (fun t => (t.die 5).throttled && t.ks.logHead == 1) = true ∧
    after (exec (.thermalThrottleEnd 5 89) hot) (fun t => !(t.die 5).throttled) = true ∧
    after (exec (.thermalTrip 23 110) s) (fun t => t.pkg.fatal == some 5) = true ∧
    s.pkg.ready = true ∧ s.feAt attestBuf 0 = true ∧ s.pkg.measure.length = 5 := by
  decide +kernel
/-- Bring-up: the stages that need no image, and the others whatever the flash holds. -/
theorem witness_bringUp :
    let s := fun (n : Nat) => ({ State.reset with pkg := { State.reset.pkg with stage := n } } : State)
    (∀ n, n < 6 → (s n).alive = true ∧ (s n).pkg.ready = false ∧ (s n).pkg.stage = n) ∧
    (∀ n, n = 1 ∨ n = 2 ∨ n = 3 → after (exec .bringUp (s n)) (fun t => t.pkg.stage == n + 1 && t.alive && !t.pkg.ready) = true) ∧
    (bootImage 1 = none ∨ bootImage 1 ≠ none) ∧
    after (exec .coldReset memory) (fun t => t.ctxs.isEmpty && t.mem.isEmpty && !t.pkg.ready) = true ∧
    after (exec .perstAbutment1 memory) (fun t => t.bufs.isEmpty && t.pkg.stage == 0) = true ∧
    Tab.wf 0 apertured.io.aperture = true ∧
    after (exec .perstAbutment2 apertured) (fun t => t.apertureWord 1 0 1 == 0x200_0000_0000) = true ∧
    after (exec (.functionLevelReset 1) (memory.setQrec 20 { valid := true, func := 1 }))
      (fun t => !(t.qrec 20).valid && (t.ctx 0).st == .running && !t.admEn 1) = true := by
  refine ⟨?_, ?_, Classical.em _, ?_⟩
  · intro n h; interval_cases n <;> decide +kernel
  · intro n h; rcases h with rfl | rfl | rfl <;> decide +kernel
  · decide +kernel

-- The machine.

/-- A step for each clause: core 0 of `memory` with the word at 0 of its code, addi s5, s2, 1. -/
def coded (w : Nat) : State := { memory.setHome 1 0 (leBytes 8 w) with agenda := [.issue 0] }
theorem witness_step :
    let w : Word := 0x4000_0A10_0000_0001
    let s := coded w.toNat
    let due := { s.modStrand 0 fun t => { t with timeCmp := 5 } with devTime := 9 }
    let out := s.modStrand 0 fun t => { t with pc := 0x10000 }
    let idle := s.modStrand 0 fun t => { t with node := none }
    let f := { s with agenda := [] }.focus 0
    { s with agenda := [] }.chooseStrand 0 = some 0 ∧ f.timeDue 0 = false ∧ f.fetch 0 (f.strand 0).pc = .word w ∧
    decode w = .ok (.addi g0 5 2 1) ∧ after (step s) (fun t => sr t 5 == 0x1122_3344_5566_7789 && (t.strand 0).pc == 8) = true ∧
    after (step { s with agenda := [] }) (fun t => sr t 5 == 0x1122_3344_5566_7789) = true ∧
    due.timeDue 0 = true ∧ after (step due) (fun t => (t.strand 0).trapCause != 0 && sr t 5 == 0) = true ∧
    decode 0 = .error 1 ∧ after (step (coded 0)) (fun t => (t.strand 0).trapCause == 0x101) = true ∧
    (match out.fetch 0 0x10000 with
      | .beyond => true
      | _ => false) = true ∧ after (step out) (fun t => (t.strand 0).trapCause != 0) = true ∧
    idle.chooseStrand 0 = none ∧ after (step idle) (fun t => (t.strand 0).pc == 0 && t.agenda.isEmpty) = true ∧
    Instr.patrolScrub.isEvent = true ∧ after (step { s with agenda := [.event .patrolScrub] }) (fun t => t.agenda.isEmpty) = true ∧
    after (step { s with agenda := [.elapse 25] }) (fun t => t.devTime == 25) = true ∧
    after (step { s with agenda := [.evict 0 7] }) (fun t => t.agenda.isEmpty) = true ∧
    after (step { copying 0xF3 0 0x1000 4096 3 with agenda := [.units 0 0 1 []] }) (fun t => (t.queue 0 0).started.isSome &&
      (t.queue 0 0).prog == 1) = true ∧
    Memory.wf s.mem = true ∧ Memory.wf s.hostMem = true := by
  decide +kernel
theorem witness_encoding : (Instr.ld ⟨5, true⟩ .i32 .plain .acq .pkg 7 ⟨.dev, 3, 4, 3, 0x40⟩).wf = true ∧
    encode (.ld ⟨5, true⟩ .i32 .plain .acq .pkg 7 ⟨.dev, 3, 4, 3, 0x40⟩) = some 0x800B_0E18_98C3_0040 := by
  decide +kernel
theorem witness_falseGuard : memory.me.guard gN = false ∧ memory.onTask ∧
    after (exec (.trap gN 7) memory) (fun t => (t.strand 0).pc == 8 && (t.strand 0).trapCause == 0) = true ∧
    after (exec (.st gN .i64 .plain .none .core 3 atDev) memory) (fun t => t.homeNat 2 0x100 8 == 0x1122_3344_5566_7788) = true := by
  dsimp only [State.onTask]; decide +kernel
theorem witness_frame : ∃ t, exec (.mad g0 5 1 3 6) memory = .next t ∧ sr t 5 = 46 := by
  have h : after (exec (.mad g0 5 1 3 6) memory) (fun t => sr t 5 == 46) = true := by decide +kernel
  cases hx : exec (.mad g0 5 1 3 6) memory with
  | next t => rw [hx] at h; exact ⟨t, rfl, by simpa [after] using h⟩
  | fault f => rw [hx] at h; cases h
  | refused r => rw [hx] at h; cases h

-- Further forms: values, traps, products, orders, guards.

/-- A signalling NaN in v1 and v2, NV enabled; q1 is FP32 into FP16, q2 the converse. -/
def trapping : State := vectors.modStrand 0 fun t =>
  { t with fpctl := 0x1F00, v := [(1024, 0x7F80_0001), (2048, 0x7F80_0001)], q := [(1, 0x3001_000A), (2, 0x2801_000C)] }
/-- NaN operands, a zero divisor, an exact sum, and ties of the rounding (R81 to R98). -/
theorem witness_values :
    (Num.Fmt.of .f32).any (·.inf) = true ∧ (Num.decode .f32 0x7F80_0001).isSnan = true ∧
    Num.fadd .f32 .rne 0x7F80_0001 0x3F80_0000 = ⟨0x7FC0_0000, Num.NV⟩ ∧ Num.fdiv .f32 .rne 0x3F80_0000 0x7FC0_0001 = ⟨0x7FC0_0000, 0⟩ ∧
    (Num.decode .f32 0x3F80_0000).isZero = false ∧ Num.fdiv .f32 .rne 0x3F80_0000 0x8000_0000 = ⟨0xFF80_0000, Num.DZ⟩ ∧
    (Num.conv .f32 .rne (Num.sumExact .rne [.num false 3 (-1), .num true 1 (-2)]).1).code = 0x3FA0_0000 ∧
    (Num.conv .f32 .rne (Num.prod (.num true 3 (-1)) (.num false 5 0))).code = 0xC0F0_0000 ∧
    Num.pick .rne false 2 1 2 = 2 ∧ Num.pick .rne false 3 1 2 = 4 ∧ Num.pick .rup true 2 1 2 = 2 ∧ Num.pick .rup false 2 1 2 = 3 ∧
    Num.pick .rdn false 2 1 2 = 2 ∧ Num.pick .rtz true 2 1 2 = 2 := by decide +kernel
/-- With NV enabled, vector words that meet a signalling NaN trap. -/
theorem witness_vectorTraps :
    trapping.actsV g1 ∧ ¬trapping.quiet (trapping.vecFlags g1 fun e =>
      Num.fadd .f32 (trapping.me.mode .rne) (trapping.me.elem .f32 1 e) (trapping.me.elem .f32 2 e)) ∧
    after (exec (.vadd g1 .f32 .rne false 3 1 (.v 2)) trapping)
      (fun t => (t.strand 0).trapCause.toNat % 256 == 7 && four t 3 == [0, 0, 0, 0]) = true ∧
    after (exec (.vcmp g1 .flt .f32 2 1 (.v 2)) trapping) (fun t => (t.strand 0).trapCause.toNat % 256 == 7) = true ∧
    after (exec (.vmac g1 .f32 .f64 .rne true 0 2 4) (trapping.modStrand 0 fun t => { t with v := [(2048, 0x7F80_0001)] }))
      (fun t => (t.strand 0).trapCause.toNat % 256 == 7) = true := by
  dsimp only [State.actsV, State.quiet]; decide +kernel
/-- A signalling NaN in memory or in a register, converted to FP16; two elements of device memory, stored with and without .rel. -/
theorem witness_vectorTransfers :
    let f := StreamF.of (trapping.me.q.get 0 1)
    let g := StreamF.of (trapping.me.q.get 0 2)
    let h := store trapping [(0x100, 0x7F80_0001)]
    let dev := fun (r : Bool) => [⟨0, .dev 2 0x100 r, 4, 0, none⟩, ⟨1, .dev 2 0x104 r, 4, 0, none⟩]
    f.efmt = some (.ty .f32) ∧ f.rfmt = some .f16 ∧ f.vecOk false false 3 = true ∧ g.efmt = some (.ty .f16) ∧ g.rfmt = some .f32 ∧
    g.vecOk true false 1 = true ∧ g.skind = 0 ∧
    after (exec (.vld g1 .none .core 1 3 atLs) h) (fun t => (t.strand 0).trapCause.toNat % 256 == 7 && four t 3 == [0, 0, 0, 0]) = true ∧
    after (exec (.vst g1 .none .core 2 1 atLs) h)
      (fun t => (t.strand 0).trapCause.toNat % 256 == 7 && (t.lcore 0).lsNat 0x100 4 == 0x7F80_0001) = true ∧
    vectors.settled .sys ∧
    vectors.placeElems vectors.me atDev { w := true } (velems (StreamF.of (vectors.me.q.get 0 1)) (vectors.me.mask g1) (vectors.me.offset atDev) none) =
      .ok (dev false) ∧
    after (exec (.vst g1 .none .core 1 1 atDev) vectors) (fun t => t.coreByte 0 2 0x100 == 5 && t.coreByte 0 2 0x104 == 3 &&
      t.coreByte 0 2 0x108 == 0 && t.homeByte 2 0x100 == 0x88) = true ∧
    after (exec (.vst g1 .rel .sys 1 1 atDev) vectors) (fun t => t.coreByte 0 2 0x100 == 5 && t.coreByte 0 2 0x107 == 0 && (t.strand 0).pc == 8) = true ∧
    after (exec (.vscat g1 1 1 ⟨.dev, 0, 1, 2, 0x100⟩) vectors) (fun t => t.coreByte 0 2 0x114 == 5 && t.coreByte 0 2 0x10C == 3) = true := by
  dsimp only [State.actsV, State.settled]; decide +kernel
theorem witness_pushTraps :
    let i : Instr := .mmul g0 1 0x0001
    let f := memory.modQueue 0 2 fun x => { x with fault := true }
    let v := memory.modStrand 0 fun t => { t with status := 0x200 }
    (onDie memory 19).queuePresent 0 2 = false ∧ after (exec i (onDie memory 19)) (fun t => (t.strand 0).trapCause == 0x108 && (t.strand 0).trapVal == 2) = true ∧
    (f.queue 0 2).fault = true ∧ after (exec i f) (fun t => (t.strand 0).trapCause == 0x208) = true ∧
    v.acts g0 ∧ ¬v.plainTask ∧ after (exec i v) (fun t => (t.strand 0).trapCause == 0x409 && (t.queue 0 2).cmds.isEmpty) = true ∧
    Push.illegal ⟨2, 0xD2, 1, 0x10000⟩ memory.cur = true ∧
    after (exec (.mmul g0 1 0x10000) memory) (fun t => (t.strand 0).trapCause == 0x701) = true := by
  dsimp only [State.acts, State.plainTask]; decide +kernel

/-- Runs with data: row 0 of A is 3, 2, row 0 of B is 5, 7, 1, 4; the metadata put the two stored elements of A at 1 and 3. -/
def multiplying : State :=
  loaded.modLcore 0 fun l => { l with mx := { l.mx with
    slots := [(0, { st := .full, data := [(0, 3), (1, 2)], info := [0, 1, 0, 0, 128] }),
              (1, { st := .full, data := [(0, 5), (1, 7), (2, 1), (3, 4)], info := [0, 1, 0, 0, 16] }),
              (2, { st := .full, data := [(0, 3), (1, 2)], info := [1, 1, 0, 0, 128] }),
              (3, { st := .full, data := [(0, 0xD)], info := [2, 5, 0, 0, 128] })] } }
theorem witness_products :
    let mx := (multiplying.lcore 0).mx
    (mx.runAt 0).isSome = true ∧ (mx.runAt 2).isSome = true ∧ (∀ x ∈ [(0xD2, 0), (0xD3, 0), (0xD4, 2), (0xD5, 2)], (computeCmd x.1 x.2).headSt mx = .ready) ∧
    mx.regionPoison = [] ∧
    (mx.runByte 3 0).toNat = 0xD := by
  decide +kernel
/-- Two lists in order, with equal keys: the order of R391 and the merge. -/
theorem witness_orders :
    ordered .i32 false false [(5, 0), (3, 1), (5, 2), (0xFFFF_FFFF, 3)] = [(0xFFFF_FFFF, 3), (3, 1), (5, 0), (5, 2)] ∧
    mergeRows .i32 false false 4 [(3, 0), (5, 1)] [(3, 2), (9, 3)] = [(3, 0), (3, 2), (5, 1), (9, 3)] ∧
    before .i32 false false (3, 2) (3, 0) = false := by decide +kernel
/-- A packet that is owed a status; one word of a line leaves at its turn. -/
theorem witness_owed :
    let p := packetOf (wait8 3)
    let s := (ringed 17 false (wait8 3)).modQrec 17 fun q => { q with rptr := 1, steps := 1, owed := [(0, 0x12)] }
    let line := { memory with agenda := [.word 0 (byteKey 2 0x100 / 8)] }.modLcore 0 fun l => { l with l1 := [(byteKey 2 0x101, some ⟨7, true⟩)] }
    returns 17 0 s p = true ∧ ((returned 17 0 s p).qrec 17).owed.get 0 0 = 0x11 + 1 ∧
    after (exec (.waitingStepResume 17 0) s) (fun t => (t.qrec 17).cptr == 1 && t.homeNat 4 0x408 8 / 2 ^ 56 == 0x11) = true ∧
    after (step line) (fun t => t.homeNat 2 0x100 8 == 0x1122_3344_5566_0788 && (t.lcore 0).l1.isEmpty && t.agenda.isEmpty) = true := by
  decide +kernel
/-- Words whose guard is false, or selects no element, and words on the other kind of strand (R126). -/
theorem witness_guards :
    let h := handling [packet 1 0 [5, 6]]
    wordGuard (.mulh gN 1 2 3) = some (gN, Who.any, false) ∧ (wordGuard (.vadd gN .i32 .none false 3 1 (.v 2))).isSome = true ∧
    vectors.me.mask gN = 0 ∧
    after (exec (.vadd gN .i32 .none false 3 1 (.v 2)) vectors) (fun t => four t 3 == [0, 0, 0, 0] && (t.strand 0).pc == 8) = true ∧
    after (exec (.loop gN 0 1 2 0) memory) (fun t => (t.strand 0).lcGet 0 == 0 && (t.strand 0).pc == 8) = true ∧
    (wordGuard (.hret gN)).any (fun x => !x.2.1.ok memory.cur) = true ∧ after (exec (.hret gN) memory) (fun t => (t.strand 0).trapCause == 0x401) = true ∧
    (wordGuard (.loop gN 0 1 2 0)).any (fun x => !x.2.1.ok h.cur) = true := by
  decide +kernel

theorem witness_circuitsAgain :
    let s : State := { base with devTime := 77 }
    let at_ := fun (st : Nat) (w : Word) => { s with fab := { s.fab with conns := [(5, w)], connSt := [(5, st)] } }
    let draining := at_ 3 0x0190_0080_0000_0000
    (∀ st ∈ [1, 2], after (exec (.connectionSetup 5 0x818C_0080_0000_0000) (at_ st conn)) (fun t => t == (at_ st conn).postedAny) = true) ∧
    after (exec (.connectionSetup 5 0x818C_0080_0000_0000) draining)
      (fun t => t.connState 5 == 1 && t.fab.connTime.get 0 5 == 77 && t.fab.conns.get 0 5 == conn) = true ∧
    (let dead := fun (st : Nat) (w : Word) => { at_ st w with pkg := { s.pkg with fatal := some 5 } }
     (dead 0 0).alive = false ∧ (dead 0 0).pkg.dead = false ∧
     after (exec (.connectionSetup 5 conn) (dead 0 0)) (fun t => t.connState 5 == 0 && t.fab.conns.get 0 5 == conn) = true ∧
     after (exec (.connectionTeardown 5) (dead 2 conn)) (fun t => t.connState 5 == 2 && t.fab.conns.get 0 5 == 0x0190_0080_0000_0000) = true) := by
  decide +kernel
theorem witness_hostEarly :
    let adm : Word := 0x0000_0000_0000_0104
    let down := { apertured with pkg := { apertured.pkg with ready := false } }
    let old : QRec := { valid := true, admin := true, rsize := 4, ringId := 4, wptr := 1 }
    let drains := apertured.setQrec 0 old
    adm.getLsbD 8 = true ∧ down.alive = true ∧ down.pkg.ready = false ∧ (down.qrec 0).valid = false ∧ drains.admEn 0 = false ∧ (drains.qrec 0).drained = false ∧
    after (exec (.adminQueueEnable 0 adm) down) (fun t => t.admEn 0 && t.qrec 0 == {}) = true ∧
    after (exec (.adminQueueEnable 0 adm) drains) (fun t => t.admEn 0 && t.qrec 0 == old) = true ∧
    (let dead := { drains with pkg := { drains.pkg with fatal := some 5 } }
     dead.alive = false ∧ dead.pkg.dead = false ∧ after (exec (.adminQueueEnable 0 adm) dead) (fun t => t.admEn 0 &&
       after (exec (.adminQueueDisable 0) t) fun u => !u.admEn 0 && u.qrec 0 == old) = true) := by
  decide +kernel
/-- ld2 s10 from 0x100 of buffer 2, and st2 of s2 and s3 to it, at 0 of the code. -/
def loads2 : State := coded (encode (.ld2 g0 .none .core 10 atDev) |>.getD 0).toNat
def stores2 : State := coded (encode (.st2 g0 .none .core 2 atLs) |>.getD 0).toNat
theorem witness_apart :
    let other := fun (t : State) => t.setHomeNat 2 0x100 16 (5 + 7 * 2 ^ 64)
    let read := { loads2 with agenda := [.early 0 [.dev 2 0x10C]] }
    let late := { stores2 with agenda := [.late 0 [.ls 0 0x108]] }
    loads2.apart = {} ∧ (loads2.nextInstr 0).bind loadsParts = some false ∧ (loads2.strand 0).version = none ∧
    ({ read with agenda := [] }).chooseStrand 0 = some 0 ∧ loads2.spotThere (Spot.word (.dev 2 0x10C)) = true ∧
    after (turn read) (fun t => t.apart.early.length == 8 &&
      after (step { other t with agenda := [.issue 0] }) fun u => sr u 10 == 5 && sr u 11 == 0 && u.homeNat 2 0x108 8 == 7 && u.apart == {}) = true ∧
    after (turn late) (fun t => (t.lcore 0).lsNat 0x100 16 == 0x1122_3344_5566_7788 && t.apart.late != [] &&
      after (step { t with agenda := [.issue 0] }) (fun u => (u.lcore 0).lsNat 0x100 16 == 0x9_1122_3344_5566_7788 && u.apart == {}) &&
      after (step { t with agenda := [.arrive [.ls 0 0x10F]] }) fun u => (u.lcore 0).lsNat 0x100 16 == 0x9_1122_3344_5566_7788) = true ∧
    after (step { late with agenda := [.late 0 []] }) (fun t => (t.lcore 0).lsNat 0x108 8 == 9) = true := by
  decide +kernel
/-- The backing area of core 0, which is not resident, is the first sixteen pages of buffer 2. -/
def backed : State :=
  let s := (memory.modLcore 0 fun l => { l with resident := false }).modCtx 0 fun c => { c with backBuf := 2, lcount := 1 }
  { s with pages := (List.range 16).map fun p => (pageKey 2 p, BitVec.ofNat 64 (2 ^ 63 + 2 ^ 62 + p)) }
theorem backed_page (q : Nat) (h : q < 16) (r : Nat) : physOf (backed.pages.get 0 (pageKey 2 q)) r = q * 65536 + r % 65536 := by
  have e : (backed.pages.get 0 (pageKey 2 q)).bits 50 48 = 0 ∧ (backed.pages.get 0 (pageKey 2 q)).bits 19 0 = q := by
    interval_cases q <;> decide +kernel
  rw [physOf, e.1, e.2]; omega
theorem backed_pa (o : Nat) (h : o < 0x10_0000) : backed.pa 2 o = o := by
  have e := backed_page (o / 65536) (by omega) o
  rw [State.pa, State.page, e]; omega
/-- What a turn writes into the backing area of a logical core that is not resident is in its local store (R470). -/
theorem witness_backing :
    backed.entries = [] ∧ backed.ctxs = [(0, backed.ctx 0)] ∧ (backed.ctx 0).st ≠ .absent ∧ (backed.ctx 0).backBuf = 2 ∧
    (backed.ctx 0).lcount = 1 ∧ (backed.lcore (mkLc 0 0)).resident = false ∧ Memory.wf backed.mem = true ∧ (backed.buf 2).host = false ∧
    (∀ i j, i < 0x10_0000 → j < 0x10_0000 → backed.pa 2 i = backed.pa 2 j → i = j) ∧
    (((backed.setHomeByte 2 (0x8_0000 + 0x123) 7).takeAreas backed).lcore (mkLc 0 0)).ls.get 0 0x123 = 7 := by
  refine ⟨?_, ?_, ?_, ?_, ?_, ?_, ?_, ?_, fun i j hi hj e => ?_, ?_⟩ <;> first | (rw [backed_pa i hi, backed_pa j hj] at e; exact e) | decide +kernel
theorem witness_layAreas :
    let s := (base.modLcore 0 fun l => { l with resident := false }).modCtx 0 fun c => { c with backBuf := 7, lcount := 1 }
    s.ctxs = [(0, s.ctx 0)] ∧ (s.ctx 0).st ≠ .absent ∧ (s.ctx 0).backBuf ≠ 0 ∧ (s.ctx 0).lcount = 1 ∧ (s.lcore (mkLc 0 0)).resident = false ∧
    ∀ e ∈ base.ctxs, e.2.st = .absent ∨ e.2.backBuf = 0 ∨ ∀ m, m < e.2.lcount → (base.lcore (mkLc e.1 m)).resident = true := by
  decide +kernel
/-- Roots, roundings, choices, signs, classes, conversions and comparisons of FP32: 2.5, -2.5, the zeros, the infinities and NaNs. -/
theorem witness_floatForms :
    let f := Num.decode .f32
    (Num.Fmt.of .f32).any (·.inf) = true ∧ (f 0x7FC0_0001).isNan = true ∧ (f 0x8000_0000).isZero = true ∧ (f 0x7F80_0000).isInf = true ∧
    (f 0x4020_0000).isZero = false ∧ f 0x4020_0000 = .num false 0xA0_0000 (-22) ∧
    Num.fsqrt .f32 .rne 0x7FC0_0001 = ⟨0x7FC0_0000, 0⟩ ∧ Num.fsqrt .f32 .rne 0x8000_0000 = ⟨0x8000_0000, 0⟩ ∧
    Num.fsqrt .f32 .rne 0xC020_0000 = ⟨0x7FC0_0000, Num.NV⟩ ∧ Num.fsqrt .f32 .rne 0x4080_0000 = ⟨0x4000_0000, 0⟩ ∧
    Num.frnd .f32 .rne 0x4020_0000 = ⟨0x4000_0000, Num.NX⟩ ∧ Num.frnd .f32 .rup 0xBF00_0000 = ⟨0x8000_0000, Num.NX⟩ ∧
    Num.frnd .f32 .rdn 0xFF80_0000 = ⟨0xFF80_0000, 0⟩ ∧ Num.frnd .f32 .rtz 0x7F80_0001 = ⟨0x7FC0_0000, Num.NV⟩ ∧
    Num.fma .f32 .rne 1 0x4020_0000 0x4000_0000 0x40E0_0000 = ⟨0x4000_0000, 0⟩ ∧
    Num.fminmax .f32 false 0 0x8000_0000 = ⟨0x8000_0000, 0⟩ ∧ Num.fminmax .f32 true 0x8000_0000 0 = ⟨0, 0⟩ ∧
    Num.fminmax .f32 false 0x7FC0_0001 0x4020_0000 = ⟨0x4020_0000, 0⟩ ∧ Num.fminmax .f32 false 0x7F80_0001 0x4020_0000 = ⟨0x7FC0_0000, Num.NV⟩ ∧
    Num.fneg .f32 0x7FC0_0001 = 0xFFC0_0001 ∧ Num.fsgn .f32 0x4020_0000 0x8000_0000 = 0xC020_0000 ∧
    Num.fclass .f32 0xFF80_0000 = 1 ∧ Num.fclass .f32 1 = 32 ∧ Num.fclass .f32 0x7F80_0001 = 256 ∧ Num.fclass .bf16 0x7FC0 = 512 ∧
    Num.fcvt .f32 .f32 .rne 0xC020_0000 = ⟨0xC020_0000, 0⟩ ∧ Cond.holdsFp .feq (f 0) (f 0x8000_0000) = (true, 0) ∧
    Cond.holdsFp .flt (f 0xC020_0000) (f 0x7F80_0000) = (true, 0) ∧ Cond.holdsFp .flt (f 0x7FC0_0001) (f 0) = (false, Num.NV) ∧
    Cond.holdsFp .fne (f 0x7FC0_0001) (f 0) = (true, 0) := by
  decide +kernel
/-- What a table answers beside its default is one of its entries. -/
theorem mem_of_get {α : Type} (t : Tab (Option α)) (k : Nat) (x : α) (h : Tab.get none t k = some x) : (k, some x) ∈ t := by
  induction t with
  | nil => cases h
  | cons e t ih =>
    obtain ⟨k0, v⟩ := e
    rw [Tab.get] at h
    split at h
    · subst h
      rename_i hk
      exact hk ▸ List.mem_cons_self
    · split at h
      · cases h
      · exact List.mem_cons_of_mem _ (ih h)
/-- Dirty bytes of an L1 lie apart when those listed do. -/
theorem dirtyApart_of (s : State) (c : Nat) (h : ∀ d ∈ (s.lcore c).l1, ∀ e ∈ (s.lcore c).l1,
    s.pa (d.1 / 2 ^ 40) (d.1 % 2 ^ 40) = s.pa (e.1 / 2 ^ 40) (e.1 % 2 ^ 40) → d.1 = e.1) : s.dirtyApart c :=
  fun k k' x x' hk hk' hp => h (k, some ⟨x, true⟩) (mem_of_get _ _ _ hk) (k', some ⟨x', true⟩) (mem_of_get _ _ _ hk') hp
/-- Two dirty bytes of one line of buffer 2 in the L1 of core 0. -/
def dirtyLine : State := memory.modLcore 0 fun l => { l with l1 := [(byteKey 2 0x101, some ⟨7, true⟩), (byteKey 2 0x109, some ⟨8, true⟩)] }
theorem witness_dirtyRelease :
    dirtyLine.acts g0 ∧ dirtyLine.settled .die ∧ dirtyLine.dirtyApart 0 ∧
    after (exec (.fence g0 .rel .die) dirtyLine) (fun t => t.homeByte 2 0x101 == 7 && t.homeByte 2 0x109 == 8 && t.homeByte 2 0x100 == 0x88 &&
      ((t.lcore 0).l1.all fun e => match e.2 with
        | some x => !x.dirty
        | none => true)) = true ∧
    dirtyLine.plainTask ∧ dirtyLine.locate 0 dirtyLine.me atDev (dirtyLine.me.offset atDev) 8 8 rmwNeed = .ok (.dev 2 0x100 false) ∧
    after (exec (.amoadd g0 .n64 .none .core 3 atDev) dirtyLine) (fun t => sr t 3 == 0x1122_3344_5566_0788 &&
      t.homeNat 2 0x100 8 == 0x1122_3344_5566_0791 && t.homeByte 2 0x109 == 8 && (t.lcore 0).l1.get none (byteKey 2 0x101) == none) = true := by
  refine ⟨?_, ?_, dirtyApart_of _ _ (by decide +kernel), ?_, ?_, ?_⟩ <;>
    (try dsimp only [State.acts, State.settled, State.plainTask]) <;> decide +kernel
/-- `finishing` with an edge that transfers buffer 2 from entry 0 of node 0 to entry 0 of node 1. -/
def handing : State :=
  [(0x40, 0x0001_FFFF_0000_0001), (0x60, 0x0900_0000_0000), (0xC0, 0x0001_FFFF_0000_0001), (0xE0, 0x0920_0000_0000), (0x800, 0x0001_0080_0000_0000)].foldl
    (fun s (w : Nat × Nat) => s.setHomeNat 3 w.1 8 w.2) (finishing.setHomeNat 3 0x900 16 (Cap.make 2 0 0xF0 0x100 0x40).toNat)
theorem witness_transfer :
    (handing.complete 1 = true ∧ (handing.task 1).versioned = false ∧ handing.nout 0 0 0 = 1 ∧
    handing.edgeWord 0 0 0 0 = 0x0001_0080_0000_0000 ∧ handing.bufEntry 0 0 0 0 = Cap.make 2 0 0xF0 0x100 0x40 ∧ handing.bufEntry 0 0 1 0 = 0 ∧
    handing.graphBuf 0 0 = 3 ∧ handing.bufOff 0 0 1 0 = 0x920 ∧ pageRes (handing.page 3 0x920) = true) ∧
    (∀ h m j, h < (handing.ctx 0).graphs.length → m < handing.nnodes 0 h → handing.bufEntry 0 h m j ≠ 0 →
      (handing.bufEntry 0 h m j).id = 2 → handing.dispatched 0 h m = true) ∧
    after (exec (.nodeCompletion 1) handing) (fun t => (t.task 1).st == .done && (t.buf 2).gen == 1 &&
      t.fwNat 3 0x920 16 == (Cap.make 2 1 0xF0 0x100 0x40).toNat) = true := by
  refine ⟨by decide +kernel, fun h m j hh hm hj _ => ?_, by decide +kernel⟩
  have h0 : h = 0 := by
    have : (handing.ctx 0).graphs.length = 1 := by decide +kernel
    omega
  subst h0
  have hn : handing.nnodes 0 0 = 2 := by decide +kernel
  rw [hn] at hm
  interval_cases m
  · decide +kernel
  · exfalso
    apply hj
    have hb : handing.nbuf 0 0 1 = 1 := by decide +kernel
    rw [State.bufEntry, hb]
    split
    · obtain rfl : j = 0 := by omega
      decide +kernel
    · rfl
/-- A versioned child of task 1 has written one byte of buffer 2 and one of the local store. -/
theorem witness_commit :
    let s := (finishing.modTask 1 fun k =>
      { k with spawned := true, versioned := true, ver := { dev := [(byteKey 2 0x102, some 0x33)], ls := [(0x300, some 0x44)] } })
    s.complete 1 = true ∧ (s.task 1).versioned = true ∧ (s.buf 2).host = false ∧ pageRes (s.page 2 0x102) = true ∧
    written (s.task 1).ver.dev = [(byteKey 2 0x102, 0x33)] ∧ written (s.task 1).ver.ls = [(0x300, 0x44)] ∧
    after (exec (.nodeCompletion 1) s) (fun t => (t.task 1).st == .done && (t.task 1).ver == {} && t.homeByte 2 0x102 == 0x33 &&
      (t.lcore 0).ls.get 0 0x300 == 0x44) = true := by
  decide +kernel
/-- hret with another packet in the window, HANDLER.EN 1 and 0. -/
theorem witness_nextPacket :
    let s := handling [packet 1 0 [5, 6], { packet 2 0 [7] with rel := true }]
    let held := s.modLcore 0 fun l => { l with l1 := [(64, some ⟨7, false⟩)] }
    let off := s.modLcore 0 fun l => { l with handler := 0x40 }
    s.acts g0 ∧ isHandler s.cur = true ∧ (s.lcore 0).window.length = 2 ∧ s.me.stopped = false ∧ (s.lcore 0).handler.getLsbD 0 = true ∧
    after (exec (.hret g0) held) (fun t => (t.lcore 0).window.length == 1 && (t.lcore 0).l1.isEmpty && (t.strand 4).active) = true ∧
    off.acts g0 ∧ (off.lcore 0).handler.getLsbD 0 = false ∧
    after (exec (.hret g0) off) (fun t => !(t.strand 4).active && (t.lcore 0).window.length == 1) = true := by
  dsimp only [State.acts]; decide +kernel
/-- With NV and NX enabled: an infinite addend, and a cell whose reading rounds. -/
theorem witness_cellTraps :
    let m : MemOp := ⟨.dev, 0, 0, 0, 0x200⟩
    let s := (regs [(1, 0x7F80_0000)]).modStrand 0 fun t => { t with fpctl := 0x3E0 }
    let odd := s.setHomeNat 2 0x200 64 ((2 ^ 24 + 1) * 2 ^ 160)
    s.acts g0 ∧ s.plainTask ∧ (Num.decode .f32 0x7F80_0000).isInf = true ∧ ¬s.quiet Num.NV ∧
    (match s.locate 0 s.me m (s.me.offset m) 64 64 { w := true, a := true } with
      | .ok _ => true
      | .error x => x.code != 0x02 && x.code != 0x04) = true ∧
    after (exec (.xadd32 g0 .f32 .none .core 1 m) s) (fun t => (t.strand 0).trapCause.toNat % 256 == 7 && t.homeNat 2 0x200 64 == 0) = true ∧
    ¬odd.quiet (Num.cellRound .f32 (odd.me.mode .none) 160 (sextN 512 ((2 ^ 24 + 1) * 2 ^ 160))).fl ∧
    after (exec (.xrd32 g0 .f32 .none .none .core 5 m) odd) (fun t => (t.strand 0).trapCause.toNat % 256 == 7 && sr t 5 == 0) = true := by
  dsimp only [State.acts, State.plainTask, State.quiet]; decide +kernel
/-- A prefetch of the local store of core 0 as a peer. -/
theorem witness_peerPrefetch :
    let cmd : Cmd := { code := 0xF4, seq := 5, entry := BitVec.ofNat 64 (9 * 2 ^ 32 + 2 ^ 26 + 2 * 2 ^ 20 + 0x400 + 0x20), caps := [0, 0] }
    let s := armed 0 cmd (store memory [(0x400, 0x100), (0x410, 8)])
    s.head 0 0 cmd [] ∧ copyMalformed 0xF4 cmd.entry (s.descOf 0 cmd) = false ∧ cmd.entry.bits 21 20 = 2 ∧
    ((s.descOf 0 cmd).getD 4 0).bits 8 0 < (s.ctx 0).lcount ∧
    ends (exec (.cpprfCommand 0) s) 0 5 [0x0000_0009_0000_0000] (fun t => t.mem == memory.mem) = true := by
  dsimp only [State.head]; decide +kernel
/-- Sums, products, special functions, reductions and the operand of vcx (R254 to R260): FP32 1.5, 2.5, infinities, NaNs. -/
theorem witness_vectorValues :
    let f := Num.decode .f32
    (Num.Fmt.of .f32).any (·.inf) = true ∧ (Num.Fmt.of .f64).any (·.inf) = true ∧ (f 0x3FC0_0000).isNan = false ∧
    (macElem .f32 .f64 .rne false 0x3FC0_0000 0x4020_0000 0x3FF0_0000_0000_0000).code = 0x4013_0000_0000_0000 ∧
    macElem .f32 .f64 .rne true 0x7F80_0000 0 0 = ⟨0x7FF8_0000_0000_0000, Num.NV⟩ ∧
    (macElem .f32 .f64 .rne true 0x7FC0_0000 0 0).code = 0x7FF8_0000_0000_0000 ∧
    Num.Fn.eval .exp2 .f32 0x4040_0000 = ⟨0x4100_0000, 0⟩ ∧ Num.Fn.eval .log2 .f32 0x4100_0000 = ⟨0x4040_0000, 0⟩ ∧
    Num.Fn.eval .rcp .f32 0xC000_0000 = ⟨0xBF00_0000, 0⟩ ∧ Num.Fn.eval .rsqrt .f32 0x4080_0000 = ⟨0x3F00_0000, 0⟩ ∧
    Num.Fn.eval .log2 .f32 0 = ⟨0xFF80_0000, Num.DZ⟩ ∧ Num.Fn.eval .rsqrt .f32 0xBF80_0000 = ⟨0x7FC0_0000, Num.NV⟩ ∧
    Num.Fn.eval .exp2 .f32 0xFF80_0000 = ⟨0, 0⟩ ∧
    reduce .sum .i8 .rne [0x7F, 2] = ⟨0x81, 0⟩ ∧ reduce .min .n8 .rne [0x7F, 0x81] = ⟨0x7F, 0⟩ ∧ reduce .max .i8 .rne [0x7F, 0x81] = ⟨0x7F, 0⟩ ∧
    (reduce .xor .n8 .rne [3, 5]).code = 6 ∧ (reduce .sum .f32 .rne [0x3FC0_0000, 0x4020_0000, 0xC020_0000]).code = 0x3FC0_0000 ∧
    reduce .sum .f32 .rne [0x7F80_0000, 0xFF80_0000] = ⟨0x7FC0_0000, Num.NV⟩ ∧ reduce .min .f32 .rne [0, 0x8000_0000, 0x7FC0_0000] = ⟨0x8000_0000, 0⟩ ∧
    reduce .max .f32 .rne [0x7FC0_0000, 0x7FC0_0001] = ⟨0x7FC0_0000, 0⟩ ∧ reduce .max .f32 .rne [0x7F80_0001, 0] = ⟨0x7FC0_0000, Num.NV⟩ ∧
    vcxOperand 0x0000_0001 = some (1, 0) ∧ vcxOperand 0x0400_0200 = some (512, 1024) ∧ vcxOperand 0x0002_0002 = none ∧
    vcxGreater .i8 1 0xFF = true ∧ vcxGreater .n8 1 0xFF = false ∧ vcxGreater .f32 0 0x8000_0000 = true ∧ vcxGreater .f32 0x7FC0_0000 0x7F80_0000 = true ∧
    vcxGreater .f32 0x7FC0_0000 0x7FC0_0000 = false := by
  decide +kernel
/-- COND 0 to 3 of a WAIT on the word 0x40 of buffer 2, which holds 5, with its bit full and empty. -/
theorem witness_conditions :
    let s := memory.setHomeNat 2 0x40 8 5
    let e := s.setFeAt 2 0x40 false
    let w := fun (cond v : Nat) => packetOf [(0, 0x0400_0000_0000_0077), (4, 0x200_0000_0000), (5, 0x40), (6, v), (7, cond * 2 ^ 61 + 9)]
    s.waitHolds (w 0 0) = true ∧ e.waitHolds (w 0 0) = false ∧ e.waitHolds (w 1 5) = true ∧ s.waitHolds (w 1 6) = false ∧
    s.waitHolds (w 2 5) = true ∧ s.waitHolds (w 2 4) = true ∧ s.waitHolds (w 2 6) = false ∧ s.waitHolds (w 3 5) = false ∧
    s.waitHolds (w 3 6) = true := by decide +kernel
/-- A packet that is owed a status with a DETAIL. -/
theorem witness_owedDetail :
    let p := packetOf (wait8 3)
    let s := (ringed 17 false (wait8 3)).modQrec 17 fun q => { q with rptr := 1, steps := 1, owed := [(0, 0x11 + 5 * 256 + 1)] }
    returns 17 0 s p = true ∧ ((returned 17 0 s p).qrec 17).owed.get 0 0 = 0x11 + 5 * 256 + 1 ∧
    after (exec (.waitingStepResume 17 0) s) (fun t => (t.qrec 17).cptr == 1 && t.homeNat 4 0x408 8 % 2 ^ 40 / 2 ^ 32 == 5 &&
      t.homeNat 4 0x408 8 / 2 ^ 56 == 0x11) = true := by decide +kernel

-- The routing of R407.

/-- The scores of R407, row by row. -/
def scores : List Nat := [
  0x3E800000, 0x3E000000, 0x3E000000, 0x3D800000, 0x3E800000, 0x3D800000, 0x3D800000, 0x3D800000,
  0xBF800000, 0xC0000000, 0x80000000, 0xBF000000, 0xBE800000, 0x00000000, 0xC0800000, 0xC1000000,
  0x3F800000, 0x7FC00000, 0x40400000, 0x40000000, 0x3F000000, 0x3F000000, 0x3E800000, 0x3E800000,
  0x3E000000, 0x3E000000, 0x3E000000, 0x3E000000, 0x3E000000, 0x3E000000, 0x3E000000, 0x3E000000,
  0x00000000, 0x00000000, 0x00000000, 0x00000000, 0x00000000, 0x00000000, 0x3F000000, 0x3F000000,
  0x40400000, 0x3F800000, 0x40800000, 0x3F800000, 0x40A00000, 0x41100000, 0x40000000, 0x40C00000,
  0xFF800000, 0xFF800000, 0xFF800000, 0xFF800000, 0xFF800000, 0xFF800000, 0xFF800000, 0xFF800000,
  0x40000000, 0x40000000, 0x40E00000, 0x3F800000, 0x41000000, 0x40000000, 0x41000000, 0x3F800000]
/-- A row of the scores with its columns. -/
def scoreRow (r : Nat) : List Ent := ((scores.drop (8 * r)).take 8).zipIdx
/-- R407: its three words, and the entries that sotopk takes of each row; with NL 1, row 2 gives 2 and 3. -/
theorem test_top_k_routing :
    reads [(0xEA00_0000_0017_E000, .sotopk g0 0 0x0017_E000), (0xEC00_0000_0137_E040, .sosums g0 0 0x0137_E040),
      (0xED00_0000_2137_E080, .sogather g0 0 0x2137_E080)] = true ∧
    ((List.range 8).map fun r => ((ordered .f32 true false (scoreRow r)).take 2).map Prod.snd) =
      [[0, 4], [5, 2], [1, 2], [0, 1], [6, 7], [5, 7], [0, 1], [4, 6]] ∧
    ((ordered .f32 true true (scoreRow 2)).take 2).map Prod.snd = [2, 3] := by
  decide +kernel
/-- R407: the sums of rows 0 to 3, of what each selection takes and of what it leaves out. -/
theorem test_top_k_sums :
    let x : So := { c := 0, code := 0xEC, mode := 0, d := [], a := .ls 0, b := .ls 0, cc := .ls 0, w := { s := base } }
    ([(0, [0, 4]), (1, [5, 2]), (2, [1, 2]), (3, [0, 1])].map fun (e : Nat × List Nat) =>
        let y := x.sums ((scoreRow e.1).map fun k => Num.decode .f32 k.1) e.2
        (leNat y.1, y.2)) =
      [(0x3F00_0000_3F00_0000, 0), (0xC17C_0000_0000_0000, 0), (0x4090_0000_7FC0_0000, 0), (0x3F40_0000_3E80_0000, 0)] := by
  decide +kernel
/-- R407: sogather of token 4, whose selection names rows 6 and 7 of the payload; pay, pick and res stand at 0x2000, 0x1000 and 0x3000. -/
theorem test_top_k_payload :
    let cap := fun (i : Nat) => Cap.make 2 0 0xF0 0x100 (0x1000 * i)
    let s := [(0x1040, 0x0000_0006_3F00_0000), (0x1048, 0x0000_0007_3F00_0000), (0x2060, 0x7000), (0x2068, 6), (0x2070, 0x8000), (0x2078, 7)].foldl
      (fun s (w : Nat × Nat) => s.setHomeNat 2 w.1 8 w.2) (onDie base 21)
    let d := [0, 0x40, 0x40, 0x8_0000_0001, 0x10_0000_0000, 0x2_0000_0020, 0x10_0000_0000, 0]
    let s := armed 5 { code := 0xED, seq := 5, entry := 0x2137_E080, caps := [cap 2, cap 1, cap 3] }
      (store s (d.zipIdx.map fun (e : Nat × Nat) => (0x7E080 + 8 * e.2, e.1)))
    ends (exec (.sogatherCommand 0) s) 5 5 [] (fun t => t.homeNat 2 0x3040 8 == 0x7000 && t.homeNat 2 0x3048 8 == 6 &&
      t.homeNat 2 0x3050 8 == 0x8000 && t.homeNat 2 0x3058 8 == 7) = true := by
  decide +kernel

end Sys2Proof.Tests
end

section
/-! PROOFS. The scalar integer words: what their functions come to (R163, R164). -/

namespace Sys2Proof.Machine

/-- The place of the first true value below n, or n: what it is with one value more in front. -/
theorem findD_range_succ (p : Nat → Bool) (n : Nat) :
    ((List.range (n + 1)).find? p).getD (n + 1) =
      if p 0 then 0 else ((List.range n).find? fun i => p (i + 1)).getD n + 1 := by
  rw [List.range_succ_eq_map, List.find?_cons]
  cases p 0 with
  | true => rfl
  | false =>
    rw [List.find?_map]
    cases h : (List.range n).find? (p ∘ Nat.succ) <;>
      simp only [Function.comp_def, Nat.succ_eq_add_one] at h <;> simp [h]
theorem length_filter_range_succ (p : Nat → Bool) (n : Nat) :
    ((List.range (n + 1)).filter p).length = (if p n then 1 else 0) + ((List.range n).filter p).length := by
  rw [List.range_succ, List.filter_append, List.length_append, Nat.add_comm]
  cases h : p n <;> simp [h]

section
variable (a b : Word)

theorem clzN_eq_find (n : Nat) : clzN a n = ((List.range n).find? fun i => a.getLsbD (n - 1 - i)).getD n := by
  induction n with
  | zero => rfl
  | succ n ih =>
    have hp : (fun i => a.getLsbD (n + 1 - 1 - (i + 1))) = fun i => a.getLsbD (n - 1 - i) :=
      funext fun i => by congr 1; omega
    rw [findD_range_succ, clzN, ih, hp]
    rfl
theorem ctzN_eq_find {n : Nat} (hn : n ≤ 64) :
    ctzN a n = ((List.range n).find? fun i => a.getLsbD (64 - n + i)).getD n := by
  induction n with
  | zero => rfl
  | succ n ih =>
    have h0 : 64 - (n + 1) + 0 = 63 - n := by omega
    have hs : ∀ i, 64 - (n + 1) + (i + 1) = 64 - n + i := fun i => by omega
    rw [findD_range_succ, ctzN, ih (by omega)]
    simp only [h0, hs]
theorem popN_eq_length_filter (n : Nat) : popN a n = ((List.range n).filter fun i => a.getLsbD i).length := by
  induction n with
  | zero => rfl
  | succ n ih => rw [length_filter_range_succ, popN, ih]

theorem sdivQ_eq : sdivQ a b = if b = 0 then BitVec.allOnes 64
    else if a = BitVec.intMin 64 ∧ b = -1 then BitVec.intMin 64 else BitVec.ofInt 64 (a.toInt.tdiv b.toInt) := by
  unfold sdivQ
  by_cases hb : b = 0
  · rw [if_pos hb, if_pos hb]; rfl
  · rw [if_neg hb, if_neg hb]
    split
    next h => obtain ⟨rfl, rfl⟩ := h; decide
    next => rfl
/-- The remainder is what the quotient leaves (R164): also where the signed quotient overflows. -/
theorem sremQ_eq : sremQ a b = if b = 0 then a else a - b * BitVec.ofInt 64 (a.toInt.tdiv b.toInt) := by
  have h : a = b * BitVec.ofInt 64 (a.toInt.tdiv b.toInt) + BitVec.ofInt 64 (a.toInt.tmod b.toInt) := by
    simpa [BitVec.ofInt_add, BitVec.ofInt_mul] using congrArg (BitVec.ofInt 64) (Int.mul_tdiv_add_tmod a.toInt b.toInt).symm
  rw [sremQ, ← eq_sub_iff_add_eq'.mpr h.symm]
theorem uremQ_eq : uremQ a b = if b = 0 then a else a - b * BitVec.ofNat 64 (a.toNat / b.toNat) := by
  have h : a = b * BitVec.ofNat 64 (a.toNat / b.toNat) + BitVec.ofNat 64 (a.toNat % b.toNat) := by
    simpa [BitVec.ofNat_add, BitVec.ofNat_mul] using congrArg (BitVec.ofNat 64) (Nat.div_add_mod a.toNat b.toNat).symm
  rw [uremQ, ← eq_sub_iff_add_eq'.mpr h.symm]

/-- Between equals it does not matter which is taken. -/
theorem ite_lt_eq_ite_le {α β : Type} [LinearOrder β] {p q : β} {x y : α} (h : p = q → x = y) :
    (if p < q then x else y) = if p ≤ q then x else y := by
  rcases lt_trichotomy p q with hlt | heq | hgt
  · rw [if_pos hlt, if_pos hlt.le]
  · rw [h heq, ite_self, ite_self]
  · rw [if_neg hgt.not_gt, if_neg hgt.not_ge]
theorem lesser_signed : (if a.slt b then a else b) = if a.toInt ≤ b.toInt then a else b := by
  simpa [BitVec.slt] using ite_lt_eq_ite_le BitVec.eq_of_toInt_eq
theorem greater_signed : (if a.slt b then b else a) = if a.toInt ≤ b.toInt then b else a := by
  simpa [BitVec.slt] using ite_lt_eq_ite_le fun h => (BitVec.eq_of_toInt_eq h).symm
theorem lesser_unsigned : (if a.ult b then a else b) = if a.toNat ≤ b.toNat then a else b := by
  simpa [BitVec.ult] using ite_lt_eq_ite_le BitVec.eq_of_toNat_eq
theorem greater_unsigned : (if a.ult b then b else a) = if a.toNat ≤ b.toNat then b else a := by
  simpa [BitVec.ult] using ite_lt_eq_ite_le fun h => (BitVec.eq_of_toNat_eq h).symm
theorem shiftLeft_eq_mul_ofNat_two_pow (k : Nat) : b <<< k = b * BitVec.ofNat 64 (2 ^ k) := by
  rw [BitVec.shiftLeft_eq_mul_twoPow]
  exact congrArg (b * ·) (BitVec.eq_of_toNat_eq (by simp [BitVec.toNat_twoPow]))

end

/-- A scalar word whose function comes to v. -/
theorem State.scalar_writes {s : State} {i : Instr} {g : Guard} {d : SR} {f : Strand → Word} {v : Word} (hg : s.acts g)
    (hv : f s.me = v) : s.scalar i g d f = .next (s.retired (s.me.ws d v)) := hv ▸ s.scalar_acts i g d f hg

/-- Settles O1: each word is `State.scalar` with its function, which comes to the result of R163 or R164 by the lemmas above. -/
theorem integerWordsWriteTheirResults : Obligations.IntegerWordsWriteTheirResults := by
  intro g k d ra rb rc s hg a b res
  exact ⟨show execAdd g d ra rb s = _ from State.scalar_writes hg rfl,
    show execSub g d ra rb s = _ from State.scalar_writes hg rfl,
    show execMul g d ra rb s = _ from State.scalar_writes hg rfl,
    show execMulh g d ra rb s = _ from State.scalar_writes hg rfl,
    show execMulhu g d ra rb s = _ from State.scalar_writes hg rfl,
    show execDiv g d ra rb s = _ from State.scalar_writes hg (sdivQ_eq a b),
    show execDivu g d ra rb s = _ from State.scalar_writes hg rfl,
    show execRem g d ra rb s = _ from State.scalar_writes hg (sremQ_eq a b),
    show execRemu g d ra rb s = _ from State.scalar_writes hg (uremQ_eq a b),
    show execAnd g d ra rb s = _ from State.scalar_writes hg rfl,
    show execOr g d ra rb s = _ from State.scalar_writes hg rfl,
    show execXor g d ra rb s = _ from State.scalar_writes hg rfl,
    show execAndn g d ra rb s = _ from State.scalar_writes hg rfl,
    show execShl g d ra rb s = _ from State.scalar_writes hg rfl,
    show execShr g d ra rb s = _ from State.scalar_writes hg rfl,
    show execSra g d ra rb s = _ from State.scalar_writes hg rfl,
    show execRotl g d ra rb s = _ from State.scalar_writes hg rfl,
    show execMin g d ra rb s = _ from State.scalar_writes hg (lesser_signed a b),
    show execMax g d ra rb s = _ from State.scalar_writes hg (greater_signed a b),
    show execMinu g d ra rb s = _ from State.scalar_writes hg (lesser_unsigned a b),
    show execMaxu g d ra rb s = _ from State.scalar_writes hg (greater_unsigned a b),
    show execClz g d ra s = _ from State.scalar_writes hg (congrArg _ (clzN_eq_find a 64)),
    show execCtz g d ra s = _ from State.scalar_writes hg (congrArg _ (by simpa using ctzN_eq_find a (Nat.le_refl 64))),
    show execPopc g d ra s = _ from State.scalar_writes hg (congrArg _ (popN_eq_length_filter a 64)),
    show execMad g d ra rb rc s = _ from State.scalar_writes hg rfl,
    show execLea g k d ra rb s = _ from State.scalar_writes hg (congrArg _ (shiftLeft_eq_mul_ofNat_two_pow b k.toNat))⟩

end Sys2Proof.Machine
end

section
/-! PROOFS. Saturation, comparison, selection and the immediate words (R165, R166). -/

namespace Sys2Proof.Machine

/-- A word that writes a condition which comes to v. -/
theorem State.scalarP_writes {s : State} {i : Instr} {g : Guard} {d : PR} {f : Strand → Bool} {v : Bool} (hg : s.acts g)
    (hv : f s.me = v) : s.scalarP i g d f = .next (s.retired (s.me.wp d (if v then BitVec.allOnes 1024 else 0))) :=
  hv ▸ s.pure_acts i g .any (fun t => t.wp d (splat (f t))) hg rfl
theorem wrapN_satInt_eq (ty : Ty) (x : Int) :
    wrapN ty.width (Num.satInt ty x) =
      (max (if ty.isSigned then -2 ^ (ty.width - 1) else 0)
        (min (if ty.isSigned then 2 ^ (ty.width - 1) - 1 else 2 ^ ty.width - 1) x) % 2 ^ ty.width : Int).toNat := by
  cases h : ty.isSigned <;> simp [wrapN, Num.satInt, Num.intMin, Num.intMax, h]
theorem append_truncate_eq (imm : BitVec 32) (a : Word) :
    imm ++ a.truncate 32 = BitVec.ofNat 64 (imm.toNat * 2 ^ 32 + a.toNat % 2 ^ 32) := by
  apply BitVec.eq_of_toNat_eq
  have hlo : a.toNat % 2 ^ 32 < 2 ^ 32 := Nat.mod_lt _ (by decide)
  rw [BitVec.toNat_append, BitVec.truncate_eq_setWidth, BitVec.toNat_setWidth, ← Nat.shiftLeft_add_eq_or_of_lt hlo,
    Nat.shiftLeft_eq, BitVec.toNat_ofNat]
  have hhi := imm.isLt
  exact (Nat.mod_eq_of_lt (by omega)).symm

theorem beq_eq_decide {a b : Word} {p : Prop} [Decidable p] (h : a = b ↔ p) : (a == b) = decide p := decide_eq_decide.mpr h
theorem bne_eq_decide_not {a b : Word} {p : Prop} [Decidable p] (h : a = b ↔ p) : (a != b) = decide (¬p) := by
  rw [decide_not, ← beq_eq_decide h, bne]

/-- Settles O2: saturation is `Num.satInt` kept to the type's width, and each condition is the comparison of the readings it names. -/
theorem saturationComparisonAndImmediateWords : Obligations.SaturationComparisonAndImmediateWords := by
  constructor
  · intro g ty cc d ra rb p pc s hg _ a b w read lo hi sat con
    have holds : Cond.holdsInt cc a b = con := by
      cases cc
      case ne => exact bne_eq_decide_not Iff.rfl
      all_goals rfl
    exact ⟨show execExt g ty d ra s = _ from State.scalar_writes hg rfl,
      show execSadd g ty d ra rb s = _ from State.scalar_writes hg (congrArg _ (wrapN_satInt_eq ty (read a + read b))),
      show execSsub g ty d ra rb s = _ from State.scalar_writes hg (congrArg _ (wrapN_satInt_eq ty (read a - read b))),
      show execCmp g cc p ra rb s = _ from State.scalarP_writes hg holds,
      show execSel g d pc ra rb s = _ from State.scalar_writes hg rfl⟩
  · intro g cc d ra p imm k s hg a i u res con
    refine ⟨show execAddi g d ra imm s = _ from State.scalar_writes hg rfl,
      show execAndi g d ra imm s = _ from State.scalar_writes hg rfl,
      show execOri g d ra imm s = _ from State.scalar_writes hg rfl,
      show execXori g d ra imm s = _ from State.scalar_writes hg rfl,
      show execMuli g d ra imm s = _ from State.scalar_writes hg rfl,
      show execShli g d ra k s = _ from State.scalar_writes hg rfl,
      show execShri g d ra k s = _ from State.scalar_writes hg rfl,
      show execSrai g d ra k s = _ from State.scalar_writes hg rfl,
      show execMovi g d imm s = _ from State.scalar_writes hg rfl,
      show execMovhi g d ra imm s = _ from State.scalar_writes hg (append_truncate_eq imm a),
      show execCmpi g cc p ra imm s = _ from State.scalarP_writes hg ?_,
      show execCmpiu g cc p ra imm s = _ from State.scalarP_writes hg ?_,
      show execAdpc g d imm s = _ from State.scalar_writes hg rfl⟩
    · cases cc
      case eq => exact beq_eq_decide BitVec.toInt_inj.symm
      case ne => exact bne_eq_decide_not BitVec.toInt_inj.symm
      all_goals rfl
    · cases cc
      case eq => exact beq_eq_decide BitVec.toNat_inj.symm
      case ne => exact bne_eq_decide_not BitVec.toNat_inj.symm
      all_goals rfl

end Sys2Proof.Machine
end

section
/-! PROOFS. The predicate words on whole registers (R175). -/

namespace Sys2Proof.Machine

section
variable (x y : Pred)

theorem onesIn_eq_length_filter (n : Nat) : onesIn x n = ((List.range n).filter fun e => x.getLsbD e).length := by
  induction n with
  | zero => rfl
  | succ n ih => rw [length_filter_range_succ, onesIn, ih]
theorem firstOne_eq_find {n : Nat} (hn : n ≤ 1024) :
    firstOne x n = 1024 - n + ((List.range n).find? fun i => x.getLsbD (1024 - n + i)).getD n := by
  induction n with
  | zero => rfl
  | succ n ih =>
    have h0 : 1024 - (n + 1) + 0 = 1023 - n := by omega
    have hs : ∀ i, 1024 - (n + 1) + (i + 1) = 1024 - n + i := fun i => by omega
    rw [findD_range_succ, firstOne, ih (by omega)]
    simp only [h0, hs]
    split <;> omega
theorem getLsbD_plogBits (tt : BitVec 4) {e : Nat} (he : e < 1024) :
    (plogBits tt x y).getLsbD e = tt.getLsbD (2 * (x.getLsbD e).toNat + (y.getLsbD e).toNat) := by
  have hsel (c : Bool) (z : Pred) : (if c = true then z else 0).getLsbD e = (c && z.getLsbD e) := by cases c <;> simp
  simp only [plogBits, BitVec.getLsbD_or, hsel, BitVec.getLsbD_and, BitVec.getLsbD_not, he, decide_true, Bool.true_and]
  cases x.getLsbD e <;> cases y.getLsbD e <;> simp
theorem testBit_two_pow_sub_two_pow {lo hi : Nat} (h : lo ≤ hi) (e : Nat) :
    (2 ^ hi - 2 ^ lo).testBit e = (decide (lo ≤ e) && decide (e < hi)) := by
  have hm : 2 ^ hi - 2 ^ lo = 2 ^ lo * (2 ^ (hi - lo) - 1) := by
    rw [Nat.mul_sub_one, ← Nat.pow_add, Nat.add_sub_cancel' h]
  rw [hm, Nat.testBit_two_pow_mul, Nat.testBit_two_pow_sub_one]
  by_cases hle : lo ≤ e
  · simp only [hle, decide_true, Bool.true_and, decide_eq_decide]; omega
  · simp [hle]
theorem getLsbD_rangeBits (lo hi : Nat) {e : Nat} (he : e < 1024) :
    (rangeBits lo hi).getLsbD e = (decide (lo ≤ e) && decide (e < hi)) := by
  dsimp only [rangeBits]
  split
  next hempty =>
    have hnone : ¬(lo ≤ e ∧ e < hi) := by omega
    rw [← Bool.decide_and, decide_eq_false hnone]
    exact BitVec.getLsbD_zero
  next hsome =>
    rw [BitVec.getLsbD_ofNat, testBit_two_pow_sub_two_pow (by omega), ← Bool.decide_and, ← Bool.decide_and, ← Bool.decide_and,
      decide_eq_decide]
    omega
end

/-- A word of any strand whose effect on its registers comes to t. -/
theorem State.pure_writes {s : State} {i : Instr} {g : Guard} {f : Strand → Strand} {t : Strand} (hg : s.acts g)
    (ht : f s.me = t) : s.pure i g .any f = .next (s.retired t) := ht ▸ s.pure_acts i g .any f hg rfl

/-- Settles O3, element by element for plog and prange, and by the scans of a whole register for pcnt and pfirst. -/
theorem predicateWordsWriteTheirResults : Obligations.PredicateWordsWriteTheirResults := by
  intro g tt d p pa pb ra rb s hg x y
  have hcount := onesIn_eq_length_filter x 1024
  have hfirst : firstOne x 1024 = ((List.range 1024).find? fun e => x.getLsbD e).getD 1024 := by
    simpa using firstOne_eq_find x (Nat.le_refl 1024)
  have hsplat : splat (s.me.rs ra != 0) = if s.me.rs ra = 0 then 0 else BitVec.allOnes 1024 := by
    by_cases h : s.me.rs ra = 0
    · rw [if_pos h, h]; rfl
    · rw [if_neg h]; exact if_pos (bne_iff_ne.mpr h)
  exact ⟨⟨plogBits tt x y, show execPlog g tt p pa pb s = _ from State.pure_writes hg rfl, fun _ he => getLsbD_plogBits x y tt he⟩,
    show execPcnt g d pa s = _ from State.pure_writes hg (congrArg (fun n => s.me.ws d (BitVec.ofNat 64 n)) hcount),
    show execPfirst g d pa s = _ from State.pure_writes hg (congrArg (fun n => s.me.ws d (BitVec.ofNat 64 n)) hfirst),
    ⟨rangeBits (s.me.rs ra).toNat (s.me.rs rb).toNat, show execPrange g p ra rb s = _ from State.pure_writes hg rfl,
      fun _ he => getLsbD_rangeBits _ _ he⟩,
    show execPsplat g p ra s = _ from State.pure_writes hg (congrArg (s.me.wp p) hsplat)⟩

end Sys2Proof.Machine
end

section
/-! PROOFS. The loop words (R178, R180). -/

namespace Sys2Proof.Machine

theorem lcHit_iff (x : Word) (w : Nat) : lcHit x w = true ↔ lcCount x ≠ 0 ∧ lcStart x + lcLen x = w := by
  simp [lcHit]
theorem Strand.lcClash_iff (t : Strand) (n e : Nat) : t.lcClash n e = true ↔
    ∃ j, j < 3 ∧ j ≠ n ∧ lcCount (t.lcGet j) ≠ 0 ∧ lcStart (t.lcGet j) + lcLen (t.lcGet j) = e := by
  have hcounters : [0, 1, 2] = List.range 3 := rfl
  simp only [Strand.lcClash, hcounters, List.any_eq_true, List.mem_range, Bool.and_eq_true, bne_iff_ne, lcHit_iff]

/-- COUNT of a loop word (R178). -/
def Strand.loopCount (t : Strand) (ra : SR) (imm : BitVec 32) : Nat := if ra = 0 then imm.toNat else (t.rs ra).toNat
/-- The lcN that a loop word writes (R178). -/
def Strand.loopWord (t : Strand) (ra : SR) (len : BitVec 8) (imm : BitVec 32) : Word :=
  lcMake len.toNat (t.pc.toNat / 8 + 1) (t.loopCount ra imm)
/-- The checks of a loop word (R178). -/
def Strand.loopOk (t : Strand) (n : LR) (ra : SR) (len : BitVec 8) (imm : BitVec 32) : Prop :=
  t.loopCount ra imm < 2 ^ 32 ∧ t.pc.toNat / 8 + 1 < 2 ^ 24 ∧
    (t.loopCount ra imm ≠ 0 → ¬t.lcClash n.toNat (t.pc.toNat / 8 + 1 + len.toNat) = true)

section
variable {s : State} {g : Guard} {n : LR} {ra : SR} {len : BitVec 8} {imm : BitVec 32}

theorem exec_loop (hg : s.acts g) (ht : s.onTask) : exec (.loop g n ra len imm) s =
    let t := s.me
    let bad := s.raise 0x01 7 (wordOf (.loop g n ra len imm))
    let t' := t.lcSet n.toNat (t.loopWord ra len imm)
    if 0xFFFF_FFFF < t.loopCount ra imm then bad
    else if 0xFF_FFFF < t.pc.toNat / 8 + 1 then bad
    else if t.loopCount ra imm ≠ 0 ∧ t.lcClash n.toNat (t.pc.toNat / 8 + 1 + len.toNat) then bad
    else if t.loopCount ra imm = 0 then s.retireTo t' (BitVec.ofNat 64 ((t.pc.toNat / 8 + len.toNat + 2) * 8))
    else s.retire t' :=
  show execLoop g n ra len imm s = _ from s.run_acts _ g .task _ hg (Who.task_ok s ht)
theorem exec_loop_ok (hg : s.acts g) (ht : s.onTask) (hok : s.me.loopOk n ra len imm) : exec (.loop g n ra len imm) s =
    if s.me.loopCount ra imm = 0 then
      .next (s.gone (s.me.lcSet n.toNat (s.me.loopWord ra len imm)) (BitVec.ofNat 64 ((s.me.pc.toNat / 8 + len.toNat + 2) * 8)))
    else .next (s.retired (s.me.lcSet n.toNat (s.me.loopWord ra len imm))) := by
  obtain ⟨hcount, hstart, hclash⟩ := hok
  rw [exec_loop hg ht]
  dsimp only
  rw [if_neg (by omega), if_neg (by omega), if_neg fun h => hclash h.1 h.2, State.retireTo_eq, State.retire_eq]
theorem exec_loop_bad (hg : s.acts g) (ht : s.onTask) (hbad : ¬s.me.loopOk n ra len imm) :
    exec (.loop g n ra len imm) s = s.raise 0x01 7 (wordOf (.loop g n ra len imm)) := by
  rw [exec_loop hg ht]
  dsimp only
  split
  next => rfl
  next hcount =>
    split
    next => rfl
    next hstart => exact if_pos (by_contra fun h => hbad ⟨by omega, by omega, fun hc hl => h ⟨hc, hl⟩⟩)
theorem exec_lbrk (hg : s.acts g) (ht : s.onTask) : exec (.lbrk g n) s =
    let x := s.me.lcGet n.toNat
    if lcCount x ≠ 0 then
      .next (s.gone (s.me.lcSet n.toNat (x.put 31 0 0)) (BitVec.ofNat 64 ((lcStart x + lcLen x + 1) * 8)))
    else .next (s.retired s.me) :=
  show execLbrk g n s = _ from s.run_acts _ g .task _ hg (Who.task_ok s ht)
end

/-- Settles O5: the statement's `ok` is `Strand.loopOk`, with the clash of counters that `Strand.lcClash` finds. -/
theorem loopWordsSetTheirCounters : Obligations.LoopWordsSetTheirCounters := by
  intro g n ra len imm s hg ht w c x clash ok t
  have hok : s.me.loopOk n ra len imm ↔ ok :=
    and_congr_right fun _ => and_congr_right fun _ => imp_congr_right fun _ => not_congr (s.me.lcClash_iff _ _)
  exact ⟨fun h hc => (exec_loop_ok hg ht (hok.mpr h)).trans (if_neg hc),
    fun h hc => (exec_loop_ok hg ht (hok.mpr h)).trans (if_pos hc),
    fun h => exec_loop_bad hg ht (mt hok.mp h),
    fun h => (exec_lbrk hg ht).trans (if_pos h),
    fun h => (exec_lbrk hg ht).trans (if_neg (not_not.mpr h)),
    show execLcget g ra n s = _ from s.pure_acts _ g .task _ hg (Who.task_ok s ht),
    show execLcset g n ra s = _ from s.pure_acts _ g .task _ hg (Who.task_ok s ht)⟩

end Sys2Proof.Machine
end

section
/-! PROOFS. What taking a trap leaves: outside one every register but those it writes, and inside one the trap registers (R195, R198). -/

namespace Sys2Proof.Machine

section
variable (s : State)

/-- An unlinked park record is gone from its context's table, with the sector's parked bit where it was the last (R214). -/
theorem State.unpark_rest (k : Nat) :
    s.unpark k = { s with ctxs := (s.unpark k).ctxs, park := (s.unpark k).park, backing := (s.unpark k).backing } := by
  simp only [State.unpark, State.setParkBit]
  split
  · split
    · rfl
    · split <;> rfl
  · rfl
@[simp] theorem State.unpark_strand (k j : Nat) : (s.unpark k).strand j = s.strand j := by rw [s.unpark_rest k]; rfl
@[simp] theorem State.unpark_mem (k : Nat) : (s.unpark k).mem = s.mem := by rw [s.unpark_rest k]
@[simp] theorem State.unpark_lcores (k : Nat) : (s.unpark k).lcores = s.lcores := by rw [s.unpark_rest k]

/-- A trap on a strand that is in none changes park records and that strand alone (R195). -/
theorem State.takeTrap_rest (k code detail : Nat) (pcv val : Word) (h : (s.strand k).inTrap = false) :
    s.takeTrap k code detail pcv val = (s.unpark k).setStrand k ((s.takeTrap k code detail pcv val).strand k) := by
  rw [s.takeTrap_strand k code detail pcv val h, State.takeTrap, if_neg (by simp [h])]

-- What a failure leaves of a strand (R198, R439).

/-- Whether a strand has stopped, its trap registers, its mode and its offset. -/
def Strand.trapRegs (t : Strand) : Bool × List Word :=
  (t.stopped, [t.trapCause, t.trapPc, t.trapVal, t.trapStat, t.status, t.pc])

@[simp] theorem State.abandon_trapRegs (k j : Nat) : ((s.abandon k).strand j).trapRegs = (s.strand j).trapRegs := by
  rw [State.abandon, State.modStrand_strand]
  split
  next h => rw [h, State.unpark_strand]; rfl
  next => rw [State.unpark_strand]
@[simp] theorem State.forget_strand (a : Agent) (j : Nat) : (s.forget a).strand j = s.strand j := by
  unfold State.forget; split <;> rfl
theorem State.idleStrand_trapRegs (k j : Nat) : ((s.idleStrand k).strand j).trapRegs = (s.strand j).trapRegs := by
  rw [← s.abandon_trapRegs k j, State.idleStrand, State.modStrand_strand]
  split
  next h => rw [h, State.forget_strand]; rfl
  next => rw [State.forget_strand]
theorem State.foldl_trapRegs {α : Type} {f : State → α → State} {j : Nat}
    (hf : ∀ s a, ((f s a).strand j).trapRegs = (s.strand j).trapRegs) (l : List α) (s : State) :
    ((l.foldl f s).strand j).trapRegs = (s.strand j).trapRegs := by
  induction l generalizing s with
  | nil => rfl
  | cons a l ih => rw [List.foldl_cons, ih, hf]
theorem State.markFailed_trapRegs (n j : Nat) : ((s.markFailed n).strand j).trapRegs = (s.strand j).trapRegs :=
  (State.foldl_trapRegs (fun s k => s.idleStrand_trapRegs k j) _ _).trans
    (State.foldl_trapRegs (fun s u => (rfl : ((s.freeTask u).strand j).trapRegs = _)) _ s)
@[simp] theorem State.setHomeByte_strand (id off j : Nat) (b : Byte) : (s.setHomeByte id off b).strand j = s.strand j := by
  simp only [State.setHomeByte, State.touch]; split <;> rfl
@[simp] theorem State.fwSetByte_strand (id off j : Nat) (b : Byte) : (s.fwSetByte id off b).strand j = s.strand j := by
  simp only [State.fwSetByte]
  split
  · rw [State.setHomeByte_strand]
  · split
    · simp only [State.touch]; split <;> rfl
    · rfl
@[simp] theorem State.fwSetDev_strand (id off j : Nat) (bs : List Byte) : (s.fwSetDev id off bs).strand j = s.strand j := by
  induction bs generalizing s off with
  | nil => rfl
  | cons b bs ih => rw [State.fwSetDev, ih, State.fwSetByte_strand]
@[simp] theorem State.fwSet_strand (id off j : Nat) (bs : List Byte) : (s.fwSet id off bs).strand j = s.strand j := by
  unfold State.fwSet
  split
  · rfl
  · exact s.fwSetDev_strand id off j bs
@[simp] theorem State.logFault_strand (n reason core detail j : Nat) : (s.logFault n reason core detail).strand j = s.strand j := by
  simp only [State.logFault, State.fwSetNat]
  split
  · rfl
  · rw [State.fwSet_strand, State.fwSet_strand]; rfl
theorem State.failNode_trapRegs (n reason core detail j : Nat) :
    ((s.failNode n reason core detail).strand j).trapRegs = (s.strand j).trapRegs := by
  have hfail (s : State) (n r c d : Nat) : (((s.markFailed n).logFault n r c d).strand j).trapRegs = (s.strand j).trapRegs := by
    rw [State.logFault_strand, State.markFailed_trapRegs]
  exact (State.foldl_trapRegs (fun s n => hfail s n _ _ _) _ _).trans (hfail s n reason core detail)
/-- A trap in a trap stops the strand (R198). -/
theorem State.doubleTrap_trapRegs (k code : Nat) :
    ((s.doubleTrap k code).strand k).trapRegs = ({ s.strand k with stopped := true } : Strand).trapRegs := by
  have hstop : (((s.abandon k).modStrand k fun t => { t with stopped := true }).strand k).trapRegs
      = ({ s.strand k with stopped := true } : Strand).trapRegs := by
    rw [State.modStrand_strand, if_pos rfl]
    exact congrArg (fun r => (true, r.2)) (s.abandon_trapRegs k k)
  rw [← hstop]
  unfold State.doubleTrap
  dsimp only
  split
  · exact State.failNode_trapRegs _ _ _ _ _ _
  · rfl
end

/-- Settles O9: outside a trap the entry writes the one strand; inside one, neither the stop nor the node's failure touches `trapRegs`. -/
theorem trapEntryWritesTheTrapRegisters : Obligations.TrapEntryWritesTheTrapRegisters := by
  constructor
  · intro s k code detail pcv val hin hcode hdetail
    have hstrand := s.takeTrap_strand k code detail pcv val hin
    have hrest := s.takeTrap_rest k code detail pcv val hin
    rw [Nat.mod_eq_of_lt hcode, Nat.mod_eq_of_lt hdetail] at hstrand
    have hmode (x : Word) : (x ||| 0xC00).getLsbD 11 = true ∧ (x ||| 0xC00).getLsbD 10 = true := by simp
    have hother (j : Nat) (h : j ≠ k) : (s.takeTrap k code detail pcv val).strand j = s.strand j := by
      rw [hrest, State.setStrand_strand, if_neg h, State.unpark_strand]
    have hmem : (s.takeTrap k code detail pcv val).mem = s.mem := by rw [hrest, State.setStrand_mem, State.unpark_mem]
    have hlcores : (s.takeTrap k code detail pcv val).lcores = s.lcores := by
      rw [hrest, State.setStrand_lcores, State.unpark_lcores]
    rw [hstrand]
    exact ⟨rfl, rfl, rfl, rfl, rfl, (hmode _).1, (hmode _).2, rfl, rfl, rfl, rfl, rfl, rfl, rfl, rfl, rfl, rfl, rfl, rfl, rfl,
      rfl, rfl, rfl, rfl, rfl, hother, hmem, hlcores⟩
  · intro s k code detail pcv val hin
    have h := s.doubleTrap_trapRegs k code
    simp only [Strand.trapRegs, Prod.mk.injEq, List.cons.injEq, and_true] at h
    obtain ⟨hstop, hcause, hpcv, hval, hstat, hstatus, hpc⟩ := h
    rw [s.takeTrap_double k code detail pcv val hin]
    exact ⟨hstop, hcause, hpcv, hval, hstat, hstatus, hpc⟩

end Sys2Proof.Machine
end

section
/-! PROOFS. Returns from a trap and from a packet (R199, R200). -/

namespace Sys2Proof.Machine

section
variable {s : State} {g : Guard}

theorem exec_tret (hg : s.acts g) : exec (.tret g) s =
    if !s.me.super then s.raise 0x0A 1 (wordOf (.tret g))
    else s.retireTo { s.me with status := (s.me.status &&& ~~~0xC00) ||| (s.me.trapStat &&& 0xC00) } s.me.trapPc :=
  show execTret g s = _ from s.run_acts _ g .any _ hg rfl

/-- The handler strand idle, and its packet's words freed (R200): where hret comes to before the next packet starts. -/
def State.packetOver (s : State) : State :=
  (s.setStrand s.cur { s.me with active := false, wait := .none }).modLcore (lcOf s.cur) LCore.freePacket

theorem exec_hret (hg : s.acts g) (hh : isHandler s.cur = true) :
    exec (.hret g) s = .next (s.packetOver.startHandler (lcOf s.cur)) :=
  show execHret g s = _ from s.run_acts _ g .handler _ hg hh
theorem exec_hret_task (ht : isHandler s.cur = false) : exec (.hret g) s = s.raise 0x01 4 (wordOf (.hret g)) :=
  show execHret g s = _ from s.run_wrong _ g .handler _ ht
theorem mkStrand_lcOf_handler {k : Nat} (h : isHandler k = true) : mkStrand (lcOf k) 4 = k := by
  have h4 : k % 5 = 4 := by simpa [isHandler, numOf] using h
  rw [mkStrand, lcOf]
  omega
@[simp] theorem State.packetOver_lcore : s.packetOver.lcore (lcOf s.cur) = (s.lcore (lcOf s.cur)).freePacket := by
  simp [State.packetOver]
@[simp] theorem State.packetOver_strand (k : Nat) :
    s.packetOver.strand k = if k = s.cur then { s.me with active := false, wait := .none } else s.strand k := by
  simp [State.packetOver]
theorem State.packetOver_eq {w : List Packet} (h : (s.lcore (lcOf s.cur)).window.tail = w) :
    s.packetOver = (s.setStrand s.cur { s.me with active := false, wait := .none }).modLcore (lcOf s.cur) fun l =>
      { l with window := w, lsPoison := l.lsPoison.clear (lsSize / 32) (lsSize / 32 + 128) } := by
  subst h
  simp [State.packetOver, State.modLcore, LCore.freePacket]

/-- With no packet waiting, or HANDLER.EN 0, no handler strand starts (R231). -/
theorem State.startHandler_none {c : Nat} (h : (s.lcore c).window = [] ∨ (s.lcore c).handler.getLsbD 0 = false) :
    s.startHandler c = s := by
  unfold State.startHandler
  dsimp only
  split
  next => rfl
  next p rest hw =>
    have hen : (s.lcore c).handler.getLsbD 0 = false := h.resolve_left (by rw [hw]; exact List.cons_ne_nil p rest)
    rw [hen, Bool.false_and, Bool.false_and]
    exact if_neg Bool.false_ne_true
/-- A logical core whose handler strand starts on a packet: MSGINFO is m, and a packet that released is acquired (R52, R231). -/
def LCore.begins (l : LCore) (m : Word) (rel : Bool) : LCore :=
  let l := { l with msgInfo := m }
  if rel then l.invalidate else l
theorem LCore.begins_keeps (l : LCore) (m : Word) (rel : Bool) :
    (l.begins m rel).msgInfo = m ∧ (l.begins m rel).window = l.window ∧
      (l.begins m rel).l1 = (if rel then l.invalidate.l1 else l.l1) ∧ (l.begins m rel).ls = l.ls := by
  cases rel <;> exact ⟨rfl, rfl, rfl, rfl⟩
/-- An idle handler strand that has not stopped starts on the oldest packet (R231). -/
theorem State.startHandler_starts (s : State) {c : Nat} {p : Packet} {rest : List Packet} (hw : (s.lcore c).window = p :: rest)
    (he : (s.lcore c).handler.getLsbD 0 = true) (ha : (s.strand (mkStrand c 4)).active = false)
    (hs : (s.strand (mkStrand c 4)).stopped = false) :
    let t := s.strand (mkStrand c 4)
    let u := s.startHandler c
    u.cur = s.cur ∧ u.mem = s.mem ∧ u.lcore c = (s.lcore c).begins (BitVec.ofNat 64 (p.sender * 2 ^ 32 + p.words.length)) p.rel ∧
      ∀ k, u.strand k = if k = mkStrand c 4 then
        { t with active := true, wait := .none, status := t.status &&& ~~~0xC00, pc := (s.lcore c).handler &&& ~~~7 }
        else s.strand k := by
  unfold State.startHandler
  dsimp only
  split
  next hnil => exact absurd (hnil.symm.trans hw) (List.cons_ne_nil p rest).symm
  next p' rest' hcons =>
    obtain ⟨rfl, rfl⟩ := List.cons.inj (hcons.symm.trans hw)
    rw [if_pos (by rw [he, ha, hs]; rfl)]
    cases hr : p'.rel with
    | true => simp [State.acquire, LCore.begins]
    | false => simp [LCore.begins]
end

/-- Settles O11: hret comes to `State.packetOver`, and then the handler strand starts on the packet that is left, or it does not. -/
theorem returnsRestore : Obligations.ReturnsRestore := by
  intro g s hg t c
  refine ⟨fun hsup => ?_, fun hsup => ?_, fun hh hw => ?_, fun p q rest hh hw hstop => ⟨fun hen => ?_, fun hen => ?_⟩,
    exec_hret_task⟩
  · rw [exec_tret hg, hsup]; rfl
  · rw [exec_tret hg, hsup]; rfl
  · have hnone : (s.lcore c).window.tail = [] := List.eq_nil_of_length_eq_zero (by rw [List.length_tail]; omega)
    rw [exec_hret hg hh, State.startHandler_none (.inl (by rw [State.packetOver_lcore]; exact hnone)), State.packetOver_eq hnone]
  · have hk : mkStrand c 4 = s.cur := mkStrand_lcOf_handler hh
    have hidle : s.packetOver.strand (mkStrand c 4) = { t with active := false, wait := .none } := by
      rw [State.packetOver_strand, if_pos hk]
    have hl : s.packetOver.lcore c = (s.lcore c).freePacket := s.packetOver_lcore
    have hwin : (s.lcore c).freePacket.window = q :: rest := congrArg List.tail hw
    obtain ⟨hcur, hmem, hcore, hstrand⟩ := s.packetOver.startHandler_starts (by rw [hl, hwin]) (by rw [hl]; exact hen)
      (by rw [hidle]) (by rw [hidle]; exact hstop)
    rw [hl] at hcore
    obtain ⟨hmsg, hwindow, hl1, hls⟩ := (s.lcore c).freePacket.begins_keeps
      (BitVec.ofNat 64 (q.sender * 2 ^ 32 + q.words.length)) q.rel
    refine ⟨_, exec_hret hg hh, ?_, ?_, ?_, ?_, ?_, ?_, ?_⟩
    · rw [State.me, hcur, hstrand, hidle, hl, hk]
      exact if_pos rfl
    · rw [hcore, hmsg]
    · rw [hcore, hwindow, hwin]
    · rw [hcore, hl1]; rfl
    · rw [hcore, hls]; rfl
    · exact hmem
    · intro k hne
      rw [hstrand, hk, if_neg hne, State.packetOver_strand, if_neg hne]
  · have hrest : (s.lcore c).window.tail = q :: rest := congrArg List.tail hw
    rw [exec_hret hg hh, State.startHandler_none (.inr (by rw [State.packetOver_lcore]; exact hen)), State.packetOver_eq hrest]

end Sys2Proof.Machine
end
